-- ==== Sys2Proof/Word.lean ====
section
/-! DEFINITION. The words of the OG-9640 model: bytes and the sparse map in one canonical form that
holds every addressed collection (register banks, local stores, parameters). -/
namespace Sys2Proof

abbrev Byte := BitVec 8
abbrev W32 := BitVec 32
abbrev Bytes := List Byte

/-- A sparse map from Nat keys, in one canonical form: keys strictly rising, no entry equal to what an
unlisted key reads as. -/
structure FMap (α : Type) where
  cells : List (Nat × α)
  deriving DecidableEq, Repr

namespace FMap
variable {α : Type}

def empty : FMap α := ⟨[]⟩

def lookup (d : α) (k : Nat) : List (Nat × α) → α
  | [] => d
  | (j, v) :: r => if k = j then v else lookup d k r

def insert (k : Nat) (v : α) : List (Nat × α) → List (Nat × α)
  | [] => [(k, v)]
  | (j, w) :: r =>
    if k < j then (k, v) :: (j, w) :: r
    else if k = j then (k, v) :: r
    else (j, w) :: insert k v r

def remove (k : Nat) : List (Nat × α) → List (Nat × α)
  | [] => []
  | (j, w) :: r => if k = j then remove k r else (j, w) :: remove k r

/-- The value at key `k`; `d` is what an unlisted key reads as. -/
def get (d : α) (m : FMap α) (k : Nat) : α := lookup d k m.cells

/-- Write `v` at key `k`, keeping the canonical form. -/
def set [DecidableEq α] (d : α) (m : FMap α) (k : Nat) (v : α) : FMap α :=
  if v = d then ⟨remove k m.cells⟩ else ⟨insert k v m.cells⟩

/-- Change every listed value; entries that become the default go. -/
def mapVal [DecidableEq α] (d : α) (f : Nat → α → α) (m : FMap α) : FMap α :=
  ⟨m.cells.filterMap (fun c => if f c.1 c.2 = d then none else some (c.1, f c.1 c.2))⟩

/-- Keep the entries of some keys. -/
def keep (p : Nat → Bool) (m : FMap α) : FMap α := ⟨m.cells.filter (fun c => p c.1)⟩

/-- The keys listed are strictly rising and above `lo`, and no entry is the default. -/
def wfFrom [DecidableEq α] (d : α) : Option Nat → List (Nat × α) → Bool
  | _, [] => true
  | lo, (j, v) :: r =>
    (match lo with | none => true | some l => decide (l < j)) && decide (v ≠ d) && wfFrom d (some j) r

/-- The canonical form. -/
def wf [DecidableEq α] (d : α) (m : FMap α) : Bool := wfFrom d none m.cells

end FMap

end Sys2Proof
end

