-- ==== Sys2Proof/Syntax.lean ====
section
/-! DEFINITION. The commands of the OG-9640: one constructor per row of the manual's table of operations and events.
Instants `t` are in picoseconds on Meridian's timebase; bytes that come from outside (a packet, a bus completion, a
USB transfer) are operands. -/
namespace Sys2Proof

/-- The two PCI Express functions (R26). -/
inductive Fn where
  | pf0 | pf1
  deriving DecidableEq, Repr

/-- The base address registers (R272). -/
inductive Bar where
  | b0 | b2 | b4
  deriving DecidableEq, Repr

/-- Where a command or a parameter access comes from (R26, R329). -/
inductive Path where
  | pf0 | pf1 | usb
  deriving DecidableEq, Repr

/-- The fields of one nib instruction word besides CLASS and OP (R168). -/
structure NibF where
  dst : Fin 32
  a : Fin 32
  b : Fin 32
  ew : Fin 4
  pred : Fin 8
  imm : BitVec 32
  deriving DecidableEq, Repr

/-- Conditions of BR.cc in OP order (R170). -/
inductive BrCond where
  | eq | ne | lt | ge | ltu | geu
  deriving DecidableEq, Repr

/-- Conditions of VCMP.cc in OP order (R170). -/
inductive CmpCond where
  | eq | ne | lt | le | gt | ge | ltu | geu
  deriving DecidableEq, Repr

/-- A stored 32-byte word that the scrubber reads (R249, R255). -/
inductive MemLoc where
  | bank (b : Fin 16) (word : Fin 262144)
  | priv (word : Nat)
  | nib (n : Fin 96) (word : Fin 16384)
  deriving DecidableEq, Repr

/-- Why a link goes down (R104). -/
inductive DownCause where
  | signal | uncorrectable | alignLoss
  deriving DecidableEq, Repr

/-- What a JTAG debug request asks (R391). The target is Scribe or a nib. -/
inductive DebugOp where
  | halt | step | resume | breakAt (pc : Nat) | bypass | idcode | sample | extest | scan
  | readMem (loc : MemLoc) (err : Bytes) | writeMem (loc : MemLoc) (data : Bytes) | forcePcie | counters
  deriving DecidableEq, Repr

inductive DebugTarget where
  | scribe
  | nib (n : Fin 96)
  deriving DecidableEq, Repr

/-- What a W1C write reaches: a direct register or a parameter (R2). -/
inductive W1cTarget where
  | bar (fn : Fn) (off : Nat)
  | param (path : Path) (id inst : Nat)
  deriving DecidableEq, Repr

/-- A sink input of Ductus (R310). -/
inductive Sink where
  | fo (o : Fin 16) | hev (h : Fin 32) | tap (t : Fin 16)
  deriving DecidableEq, Repr

/-- A Ductus event: origin channel, EPOCH, HOP, class and tag (R303). The tag of a POS event is an axis and a
position, the tag of an ASYNC event a TB instant. -/
structure Event where
  origin : Nat
  epoch : Nat
  hop : Nat
  pos : Bool
  axis : Nat
  tag : Int
  deriving DecidableEq, Repr

/-- What WEB_LINE_FORM meets (R227, R230, R253): the web, whether the members' input exceeds what it can accept, and errors
with which words of the members' lines are read, by member, by line j or j + 1 and by the word's place. -/
structure WebInput where
  web : Fin 4
  excess : Bool
  errs : List (Nat × Nat × Nat × Bytes)
  deriving DecidableEq, Repr

/-- One constructor per row. A level of a ball or of an encoder comes with the instant since which it holds; what a command
is given of its source is the host's data, none where the read failed, with the errors of a queue's words. The loads of a nib take the error patterns of the stored words they meet (word index in
the local store, or 16,384 × member + word index for a pool load, and 35 bytes): R250. DESIGN CHOICE, entry 7. -/
inductive Instr where
  -- host accesses and mailboxes
  | registerWrite (fn : Fn) (loc : Bar × Nat) (size value : Nat) (t : Nat)
  | w1cClear (tgt : W1cTarget) (mask devSet : Nat)
  | rcRead (path : Path) (id inst add : Nat)
  | lowHalfRead (loc : Fn × Bar × Nat) (size : Nat)
  | mailboxReqWrite (fn : Fn) (m : Fin 16) (off : Nat) (data : Bytes)
  | mbmDoorbell (fn : Fn) (m : Fin 16) (t : Nat)
  | usbRequest (data : Bytes) (t : Nat)
  | qcnDoorbell (c : Fin 64)
  | mailboxTimeout (mb : Fin 21) (t : Nat)
  -- commands run from a mailbox
  | nop (mb : Fin 21)
  | tbGet (mb : Fin 21) (t : Nat)
  | paramGet (mb : Fin 21) (host : Option Bytes) (t : Nat)
  | paramSet (mb : Fin 21) (host : Option Bytes) (t : Nat)
  | paramInfo (mb : Fin 21)
  | modeSet (mb : Fin 21) (t : Nat)
  | streamStart (mb : Fin 21) (t : Nat)
  | streamStop (mb : Fin 21) (t : Nat)
  | webStart (mb : Fin 21) (t : Nat)
  | webStop (mb : Fin 21) (t : Nat)
  | exposeSet (mb : Fin 21) (t : Nat)
  | headRegRead (mb : Fin 21) (t : Nat)
  | headRegWrite (mb : Fin 21) (t : Nat)
  | plateTableLoad (mb : Fin 21) (given : Option Bytes × List (Nat × Bytes))
  | programLoad (mb : Fin 21) (given : Option Bytes × List (Nat × Bytes))
  | nibReset (mb : Fin 21) (t : Nat)
  | dmaStart (mb : Fin 21) (t : Nat)
  | dmaStop (mb : Fin 21)
  | queueFlush (mb : Fin 21)
  | merIdent (mb : Fin 21)
  | merAdjust (mb : Fin 21) (t : Nat)
  | merQuadRegister (mb : Fin 21) (t : Nat)
  | merFwStage (mb : Fin 21) (t : Nat)
  | merRecordGet (mb : Fin 21)
  | merAck (mb : Fin 21)
  | merAuditRead (mb : Fin 21)
  | merVerify (mb : Fin 21)
  | bootLoad (mb : Fin 21) (host : Option Bytes)
  | bootRun (mb : Fin 21) (sets : Bool) (t : Nat)
  | dfuDnload (image : Bytes) (sets : Bool) (t : Nat)
  | lcAdvance (mb : Fin 21) (t : Nat)
  | debugChallenge (mb : Fin 21) (t : Nat)
  | debugUnlock (mb : Fin 21) (t : Nat)
  | debugRelock (mb : Fin 21) (t : Nat)
  | svnCommit (mb : Fin 21) (t : Nat)
  | traceRead (mb : Fin 21)
  | almInfo (mb : Fin 21)
  | almTimeSet (mb : Fin 21) (t : Nat)
  | almReset (mb : Fin 21) (t : Nat)
  | almLogRead (mb : Fin 21)
  | almFwBegin (mb : Fin 21) (t : Nat)
  | almFwWrite (mb : Fin 21) (t : Nat)
  | almFwActivate (mb : Fin 21) (t : Nat)
  | almFwAbort (mb : Fin 21) (t : Nat)
  | almStoreWrite (mb : Fin 21)
  | duxFire (path : Path) (c : Fin 256) (t : Nat)
  | folioResize
  -- position, triggers, field
  | encoderEdge (e : Fin 8) (a b : Bool × Nat) (t : Nat)
  | zEdge (e : Fin 8) (z : Bool × Nat) (t : Nat)
  | los (e : Fin 8) (t : Nat)
  | encFlagClear (e : Fin 8) (openWire fast : Bool) (t : Nat)
  | fusionResume (x : Fin 4) (t : Nat)
  | axisUpdate (x : Fin 4) (t : Nat)
  | triggerSend (st : Fin 64) (t : Nat)
  | firingErrorCheck (st : Fin 64) (t : Nat)
  | fieldInputEdge (fi : Fin 16) (level : Bool) (tEdge t : Nat)
  | markerPulse (o : Fin 16) (t : Nat)
  | strobePulse (o : Fin 16) (t : Nat)
  | pulseEnd (o : Fin 16) (t : Nat)
  | warmHoldExpire (o : Fin 16) (t : Nat)
  | vfieldLoss (mv : Nat) (t : Nat)
  | vfieldRestore (mv : Nat) (t : Nat)
  | driverThermalShutdown (o : Fin 16) (t : Nat)
  | driverCooled (o : Fin 16)
  -- Meridian
  | sealChange (asserted : Bool × Nat) (t : Nat)
  | lengthInputEdge (ch : Fin 4) (level : Bool) (tEdge t : Nat)
  | quadAttest (t : Nat)
  | debugLevelChange (t : Nat)
  -- lanes and heads. A lane's symbols are Gray values 0 to 3. A packet or control block is given as it comes (`some`),
  -- or is the next one that the codewords received have brought (`none`).
  | trainingFrame (l : Fin 32) (frame : List (Fin 4)) (t : Nat)
  | bringupTimeout (l : Fin 32) (t : Nat)
  | backoffExpire (l : Fin 32) (t : Nat)
  | absentProbe (l : Fin 32) (t : Nat)
  | fecCodeword (l : Fin 32) (msg parity : List (Fin 4)) (t : Nat)
  | align (l : Fin 32) (payload : Option Bytes) (t : Nat)
  | sleep (l : Fin 32) (kind : Option (BitVec 8))
  | retrainReq (l : Fin 32) (num : Option (BitVec 8)) (t : Nat)
  | upRetrainStart (h : Fin 32) (t : Nat)
  | eqDriftCheck (l : Fin 32) (boost : Nat) (dfe : List Nat) (t : Nat)
  | retrainComplete (l : Fin 32) (converged : Bool) (values : List Nat) (t : Nat)
  | linkDown (l : Fin 32) (why : DownCause) (t : Nat)
  | eiEntry (l : Fin 32) (t : Nat)
  | delayProbeTimer (h : Fin 32) (t : Nat)
  | delayEcho (h : Fin 32) (num : Option Nat) (turnaround : Nat) (t : Nat)
  | pixel (h : Fin 32) (pkt : Option Bytes) (errs : List (Nat × Bytes)) (t : Nat)
  | frameStart (h : Fin 32) (pkt : Option Bytes) (t : Nat)
  | frameEnd (h : Fin 32) (pkt : Option Bytes) (t : Nat)
  | ack (h : Fin 32) (pkt : Option Bytes) (t : Nat)
  | headInfo (h : Fin 32) (pkt : Option Bytes) (t : Nat)
  | headStatus (h : Fin 32) (pkt : Option Bytes) (t : Nat)
  | ackTimeout (h : Fin 32) (tag : Nat) (t : Nat)
  | exposeSetDeferredSend (mb : Fin 21) (t : Nat)
  | lineTimeout (st : Fin 64) (t : Nat)
  | heldFrameEnd (st : Fin 64) (t : Nat)
  | pllLock (tile : Fin 5) (t : Nat)
  | pllLockLoss (tile : Fin 4) (t : Nat)
  -- Ephemeris
  | tileCut (q : Fin 68) (errs : List (Nat × Nat × Bytes)) (t : Nat)
  | tileDispatch (slot : Fin 32) (nib : Fin 96) (desc input : List (Nat × Bytes)) (t : Nat)
  | tileStart (n : Fin 96) (t : Nat)
  | tileCommit (q : Fin 68) (errs : List (Nat × Fin 524288 × Bytes)) (t : Nat)
  | cutthruCopy (q : Fin 68) (bytes : Nat) (errs : List (Nat × Fin 524288 × Bytes)) (t : Nat)
  | tileTimeout (n : Fin 96) (t : Nat)
  | nibHang (n : Fin 96) (t : Nat)
  | noProgressTimeout (t : Nat)
  | domainReset (t : Nat)
  | nibReload (n : Fin 96)
  | reloadComplete (n : Fin 96) (t : Nat)
  | marchTestDone (n : Fin 96) (pass : Bool) (t : Nat)
  | nibPark (n : Fin 96) (t : Nat)
  -- nib instructions
  | nibNop (n : Fin 96) (f : NibF)
  | brCc (n : Fin 96) (cc : BrCond) (f : NibF)
  | loop (n : Fin 96) (f : NibF)
  | li (n : Fin 96) (f : NibF)
  | add (n : Fin 96) (f : NibF)
  | sub (n : Fin 96) (f : NibF)
  | and (n : Fin 96) (f : NibF)
  | or (n : Fin 96) (f : NibF)
  | xor (n : Fin 96) (f : NibF)
  | shl (n : Fin 96) (f : NibF)
  | shr (n : Fin 96) (f : NibF)
  | sar (n : Fin 96) (f : NibF)
  | mul (n : Fin 96) (f : NibF)
  | mulh (n : Fin 96) (f : NibF)
  | mulhu (n : Fin 96) (f : NibF)
  | min (n : Fin 96) (f : NibF)
  | max (n : Fin 96) (f : NibF)
  | vadd (n : Fin 96) (f : NibF)
  | vsub (n : Fin 96) (f : NibF)
  | vadds (n : Fin 96) (f : NibF)
  | vsubs (n : Fin 96) (f : NibF)
  | vaddsu (n : Fin 96) (f : NibF)
  | vsubsu (n : Fin 96) (f : NibF)
  | vabsd (n : Fin 96) (f : NibF)
  | vabsdu (n : Fin 96) (f : NibF)
  | vmin (n : Fin 96) (f : NibF)
  | vminu (n : Fin 96) (f : NibF)
  | vmax (n : Fin 96) (f : NibF)
  | vmaxu (n : Fin 96) (f : NibF)
  | vand (n : Fin 96) (f : NibF)
  | vor (n : Fin 96) (f : NibF)
  | vxor (n : Fin 96) (f : NibF)
  | vshl (n : Fin 96) (f : NibF)
  | vshr (n : Fin 96) (f : NibF)
  | vsar (n : Fin 96) (f : NibF)
  | vavg (n : Fin 96) (f : NibF)
  | vavgu (n : Fin 96) (f : NibF)
  | vbcast (n : Fin 96) (f : NibF)
  | vmul (n : Fin 96) (f : NibF)
  | vmac (n : Fin 96) (f : NibF)
  | vmacu (n : Fin 96) (f : NibF)
  | vmacs (n : Fin 96) (f : NibF)
  | vdot2 (n : Fin 96) (f : NibF)
  | aclr (n : Fin 96) (f : NibF)
  | ard (n : Fin 96) (f : NibF)
  | ardu (n : Fin 96) (f : NibF)
  | bfmul (n : Fin 96) (f : NibF)
  | bfmac (n : Fin 96) (f : NibF)
  | bfcvtI (n : Fin 96) (f : NibF)
  | bfcvtA (n : Fin 96) (f : NibF)
  | vcmpCc (n : Fin 96) (cc : CmpCond) (f : NibF)
  | vsel (n : Fin 96) (f : NibF)
  | vslide (n : Fin 96) (f : NibF)
  | vperm (n : Fin 96) (f : NibF)
  | vpk (n : Fin 96) (f : NibF)
  | vunpk (n : Fin 96) (f : NibF)
  | vunpku (n : Fin 96) (f : NibF)
  | vrsum (n : Fin 96) (f : NibF)
  | vrsumu (n : Fin 96) (f : NibF)
  | vrmin (n : Fin 96) (f : NibF)
  | vrmax (n : Fin 96) (f : NibF)
  | vrfirst (n : Fin 96) (f : NibF)
  | vrcnt (n : Fin 96) (f : NibF)
  | vld (n : Fin 96) (f : NibF) (errs : List (Nat × Bytes)) (t : Nat)
  | vst (n : Fin 96) (f : NibF)
  | sld (n : Fin 96) (f : NibF) (errs : List (Nat × Bytes)) (t : Nat)
  | sst (n : Fin 96) (f : NibF)
  | sldh (n : Fin 96) (f : NibF) (errs : List (Nat × Bytes)) (t : Nat)
  | sldhu (n : Fin 96) (f : NibF) (errs : List (Nat × Bytes)) (t : Nat)
  | vldm (n : Fin 96) (f : NibF) (errs : List (Nat × Bytes)) (t : Nat)
  | vstm (n : Fin 96) (f : NibF)
  | pvld (n : Fin 96) (f : NibF) (errs : List (Nat × Bytes)) (t : Nat)
  | psld (n : Fin 96) (f : NibF) (errs : List (Nat × Bytes)) (t : Nat)
  | recEmit (n : Fin 96) (f : NibF)
  | woutL (n : Fin 96) (f : NibF)
  | woutR (n : Fin 96) (f : NibF)
  | tdone (n : Fin 96) (f : NibF) (t : Nat)
  -- Ligature and Collimator
  | webLineForm (input : WebInput) (t : Nat)
  | syncFrameSend (t : Nat)
  | syncFrameReceive (port : Fin 2) (frame : Bytes) (latencyPs : Nat) (t : Nat)
  | serviceSlot (port : Fin 2) (slot : Bytes) (t : Nat)
  | hopProbe (port : Fin 2) (t : Nat)
  | spanLossTimeout (t : Nat)
  | refSignalLoss (portB : Bool)
  -- memory, queues, Quill
  | scrubRead (loc : MemLoc) (err : Bytes) (t : Nat)
  | queueWrite (q : Fin 128) (data : Bytes) (last : Bool) (itemWords : Nat) (t : Nat)
  | queueRead (q : Fin 128) (err : Bytes) (t : Nat)
  | descriptorFetch (c : Fin 64) (words : Option Bytes)
  | linkRead (c : Fin 64) (link : Option (BitVec 64))
  | recordDeliver (c : Fin 64) (errs : List (Nat × Bytes)) (t : Nat)
  | imageFrameDeliver (c : Fin 64) (errs : List (Nat × Nat × Bytes)) (t : Nat)
  | hostReadData (c : Fin 64) (data : Bytes) (busError : Bool) (t : Nat)
  | msixUnmask (fn : Fn) (vector : Fin 256)
  | bmeClear (fn : Fn)
  | bmeSet (fn : Fn)
  -- Ductus
  | eventDeliver (ev : Event) (c : Fin 256) (t : Nat)
  | sinkBusyEnd (k : Sink)
  | tapHoldRelease (k : Fin 16) (t : Nat)
  -- pacing
  | droopTrip (d : Fin 64) (railMv : Nat) (t : Nat)
  | droopClear (d : Fin 64) (railMv : Nat) (t : Nat)
  | paceLevelStep (g : Fin 106) (t : Nat)
  | railAdjust (speedIndex : Nat) (t : Nat)
  -- reset, boot, power
  | powerOn (t : Nat)
  | sysRst (t : Nat)
  | brownout (t : Nat)
  | vinLow (t : Nat)
  | coldReset (bootSel refSel : Fin 4) (extClock sets : Bool) (t : Nat)
  | referenceFallback
  | warmReset (sets : Bool) (t : Nat)
  | perst (t : Nat)
  | perstDeassert (t : Nat)
  | hotReset (t : Nat)
  | flrPf0 (t : Nat)
  | flrPf1
  | scribeWatchdog (t : Nat)
  | fatal (t : Nat)
  | almanacWatchdog (poison : Bool × Nat)
  | deferredReset (t : Nat)
  | bootReadyTimeout (sets : Bool) (t : Nat)
  | powerTransitionDone (sets : Bool) (t : Nat)
  | p3BarWake (t : Nat)
  | grantExpire (t : Nat)
  | sensorSample (temps : List Int) (vinMv vfieldMv railMv : Nat) (t : Nat)
  | eyeScan (l : Fin 32) (heightMv : Nat) (width : Fin 65) (t : Nat)
  | trialExpire (t : Nat)
  | unknownTypePacket (h : Fin 32) (pkt : Option Bytes)
  | debugRequest (tgt : DebugTarget) (op : DebugOp) (t : Nat)
  | pcieLinkUp (rate sizes : Nat × Nat)
  | usbVbusChange (mv : Nat)
  deriving DecidableEq, Repr

end Sys2Proof
end

