-- ==== Sys2Proof/Decode.lean ====
section
/-! DEFINITION. The table of this block gives no row any bits: a command is a transaction with operands, and no word
spells one. -/
namespace Sys2Proof

/-- The command a word spells by the table's bits. No row of the table gives bits, so no word spells a command.
DESIGN CHOICE, entry 3. -/
def decodeTableWord (_nbits _w : Nat) : Option Instr := none

end Sys2Proof
end

