-- ==== Sys2Proof/Machine/Bits.lean ====
section
/-! DEFINITION. Little-endian fields, two's complement, and the check codes the spec names: CRC-8, CRC-16,
CRC-32C (R98, R100, R114, R176) and the RS(35,32) memory code (R249, R250). -/
namespace Sys2Proof.Machine

/-- `n` bytes of `v`, lowest first. -/
def le : Nat → Nat → Bytes
  | 0, _ => []
  | n + 1, v => BitVec.ofNat 8 v :: le n (v / 256)

/-- The number that bytes spell, lowest first. -/
def ofLE : Bytes → Nat
  | [] => 0
  | b :: r => b.toNat + 256 * ofLE r

/-- Bytes `[off, off+n)`; bytes beyond the end read as zero. -/
def slice (b : Bytes) (off n : Nat) : Bytes :=
  let x := (b.drop off).take n
  x ++ List.replicate (n - x.length) 0

/-- The little-endian field of `n` bytes at `off`. -/
def fld (b : Bytes) (off n : Nat) : Nat := ofLE (slice b off n)

/-- Whether all bytes of `[off, off+n)` are zero. -/
def rsvZero (b : Bytes) (off n : Nat) : Bool := fld b off n == 0

/-- Bits `[lo, lo+n)` of a number. -/
def bits (v lo n : Nat) : Nat := v / 2 ^ lo % 2 ^ n

/-- Bit `i` of a number. -/
def bit (v i : Nat) : Bool := v / 2 ^ i % 2 == 1

/-- `v` with bit `i` set. -/
def setBit (v i : Nat) : Nat := if bit v i then v else v + 2 ^ i

/-- `v` with bit `i` clear. -/
def clrBit (v i : Nat) : Nat := if bit v i then v - 2 ^ i else v

def putBit (v i : Nat) (b : Bool) : Nat := if b then setBit v i else clrBit v i

/-- Bits of `v` that are clear in `m`. -/
def andNot (v m : Nat) : Nat := v ^^^ (v &&& m)

def popCount (n v : Nat) : Nat := ((List.range n).filter (bit v)).length

def b2n (b : Bool) : Nat := if b then 1 else 0

/-- The positions below `n` of the bits that are set. -/
def bitsOf (n v : Nat) : List Nat := (List.range n).filter (bit v)

/-- Two's complement of `n` bits as a Nat. -/
def toTwos (n : Nat) (x : Int) : Nat := (x % (2 ^ n : Int)).toNat

/-- The signed value of an `n`-bit word. -/
def ofTwos (n : Nat) (v : Nat) : Int :=
  if v % 2 ^ n < 2 ^ (n - 1) then (v % 2 ^ n : Nat) else ((v % 2 ^ n : Nat) : Int) - 2 ^ n

/-- A position as it is held: 64-bit two's complement, wrapping modulo 2^64 (R42). -/
def wrap64 (x : Int) : Int := ofTwos 64 (toTwos 64 x)

/-- Signed difference of two positions (R42). -/
def posDiff (x y : Int) : Int := wrap64 (x - y)

def clampI (lo hi x : Int) : Int := if x < lo then lo else if hi < x then hi else x

/-- Round `n / d` to nearest, ties to even (R77). -/
def roundEven (n d : Int) : Int :=
  let q := n.fdiv d
  let r := n - q * d
  if 2 * r < d then q else if d < 2 * r then q + 1 else if q % 2 = 0 then q else q + 1

/-- A quotient rounded to one of the two whole numbers beside it; which one, the caller says. -/
def roundTo (up : Int → Int → Bool) (n d : Int) : Int := n.fdiv d + b2n (decide (n.fmod d ≠ 0) && up n d)

def ceilDiv (a b : Nat) : Nat := (a + b - 1) / b

def roundUp (a b : Nat) : Nat := ceilDiv a b * b

/-- One bit into an `w`-bit CRC register, most significant bit first. -/
def crcBit (w poly crc : Nat) (b : Bool) : Nat :=
  let top := bit crc (w - 1)
  let c := (crc * 2) % 2 ^ w
  if top != b then c ^^^ poly else c

def crcByte (w poly crc : Nat) (x : Byte) : Nat :=
  [7, 6, 5, 4, 3, 2, 1, 0].foldl (fun c i => crcBit w poly c (bit x.toNat i)) crc

/-- CRC-16, polynomial 0x1021, initial value 0xFFFF, most significant bit first (R98, R114, R232). -/
def crc16 (b : Bytes) : Nat := b.foldl (crcByte 16 0x1021) 0xFFFF

/-- CRC-8, polynomial 0x07, initial value 0 (R100). -/
def crc8 (b : Bytes) : Nat := b.foldl (crcByte 8 0x07) 0

def crc32Byte (crc : Nat) (x : Byte) : Nat :=
  (List.range 8).foldl (fun c _ => if bit c 0 then (c / 2) ^^^ 0x82F63B78 else c / 2) (crc ^^^ x.toNat)

/-- CRC-32C (Castagnoli), as RFC 3720 computes it (R114, R176, R232, R388, R408). -/
def crc32c (b : Bytes) : Nat := (b.foldl crc32Byte 0xFFFFFFFF) ^^^ 0xFFFFFFFF

/-! The RS(35,32) code over GF(2^8), primitive polynomial x^8 + x^4 + x^3 + x^2 + 1 (R249). -/

def gfDouble (a : Nat) : Nat := if bit a 7 then ((a * 2) % 256) ^^^ 0x1D else a * 2

def gfMul (a b : Nat) : Nat :=
  ((List.range 8).foldl (fun (p : Nat × Nat) i =>
    (if bit b i then p.1 ^^^ p.2 else p.1, gfDouble p.2)) (0, a)).1

def gfPow (n : Nat) : Nat := (List.range n).foldl (fun a _ => gfDouble a) 1

/-- The three check bytes r_2, r_1, r_0 of 32 data bytes (R249): division by
g(x) = x^3 + 0x07·x^2 + 0x0E·x + 0x08. -/
def rsCheck (d : Bytes) : Bytes :=
  let r := d.foldl (fun (r : Nat × Nat × Nat) x =>
    let f := x.toNat ^^^ r.1
    (r.2.1 ^^^ gfMul f 0x07, r.2.2 ^^^ gfMul f 0x0E, gfMul f 0x08)) (0, 0, 0)
  [BitVec.ofNat 8 r.1, BitVec.ofNat 8 r.2.1, BitVec.ofNat 8 r.2.2]

/-- Syndrome S_j = c(α^j) of a 35-byte word, highest power first (R250). -/
def rsSyndrome (j : Nat) (c : Bytes) : Nat :=
  c.foldl (fun s x => gfMul s (gfPow j) ^^^ x.toNat) 0

/-- What a read of a stored word finds (R250). -/
inductive RsRead where
  | good
  | corrected (power : Nat) (value : Nat)
  | uncorrectable
  deriving DecidableEq, Repr

/-- The decision of R250: good, one symbol corrected at x^i, or uncorrectable. -/
def rsRead (c : Bytes) : RsRead :=
  let s0 := rsSyndrome 0 c
  let s1 := rsSyndrome 1 c
  let s2 := rsSyndrome 2 c
  if s0 = 0 ∧ s1 = 0 ∧ s2 = 0 then .good
  else if s0 = 0 then .uncorrectable
  else
    match (List.range 35).find? (fun i => s1 == gfMul s0 (gfPow i) && s2 == gfMul s1 (gfPow i)) with
    | some i => .corrected i s0
    | none => .uncorrectable

/-- The word with the correction applied (unchanged when there is none). -/
def rsFix (c : Bytes) : Bytes :=
  match rsRead c with
  | .corrected i v => c.modify (34 - i) (fun x => x ^^^ BitVec.ofNat 8 v)
  | _ => c

end Sys2Proof.Machine
end

