-- ==== Sys2Proof/Machine/Crypto.lean ====
section
/-! DEFINITION. The cryptographic functions the spec names: SHA-256, HMAC-SHA-256 (R72, R73, R176, R440),
ECDSA P-256 (R387), AES-256-GCM (R389). -/
namespace Sys2Proof.Machine

namespace Sha

/-- The prime numbers below 312, of which FIPS 180-4 takes the first 64. -/
def primes : List Nat :=
  (List.range 312).filter (fun p => decide (2 ≤ p) && (List.range 18).all (fun d => decide (d < 2) || decide (p ≤ d) || p % d != 0))

/-- The largest r of at most 40 bits with r ^ k ≤ n, bit by bit. -/
def root (k n : Nat) : Nat :=
  (List.range 40).foldl (fun r i => if (r + 2 ^ (39 - i)) ^ k ≤ n then r + 2 ^ (39 - i) else r) 0

/-- 32 fraction bits of the cube roots of the first 64 primes. -/
def roundConst : List Nat := primes.map (fun p => root 3 (p * 2 ^ 96) % 2 ^ 32)

/-- 32 fraction bits of the square roots of the first 8 primes. -/
def init : List W32 := (primes.take 8).map (fun p => BitVec.ofNat 32 (root 2 (p * 2 ^ 64)))

def at' (l : List W32) (i : Nat) : W32 := l.getD i 0

def be32 (b : Bytes) : W32 := BitVec.ofNat 32 (ofLE b.reverse)

/-- The message schedule, newest word first. -/
def schedule (blk : Bytes) : List W32 :=
  let w16 := ((List.range 16).map (fun i => be32 (slice blk (4 * i) 4))).reverse
  ((List.range 48).foldl (fun w _ =>
    let x := at' w 14
    let y := at' w 1
    let s0 := x.rotateRight 7 ^^^ x.rotateRight 18 ^^^ (x >>> 3)
    let s1 := y.rotateRight 17 ^^^ y.rotateRight 19 ^^^ (y >>> 10)
    (at' w 15 + s0 + at' w 6 + s1) :: w) w16).reverse

def round (v : List W32) (kw : Nat × W32) : List W32 :=
  let a := at' v 0; let b := at' v 1; let c := at' v 2; let d := at' v 3
  let e := at' v 4; let f := at' v 5; let g := at' v 6; let h := at' v 7
  let s1 := e.rotateRight 6 ^^^ e.rotateRight 11 ^^^ e.rotateRight 25
  let ch := (e &&& f) ^^^ (~~~e &&& g)
  let t1 := h + s1 + ch + BitVec.ofNat 32 kw.1 + kw.2
  let s0 := a.rotateRight 2 ^^^ a.rotateRight 13 ^^^ a.rotateRight 22
  let mj := (a &&& b) ^^^ (a &&& c) ^^^ (b &&& c)
  [t1 + (s0 + mj), a, b, c, d + t1, e, f, g]

def compress (h : List W32) (blk : Bytes) : List W32 :=
  let v := (roundConst.zip (schedule blk)).foldl round h
  h.zipWith (· + ·) v

def pad (m : Bytes) : Bytes :=
  let z := (55 + 64 - m.length % 64) % 64
  m ++ [0x80#8] ++ List.replicate z 0 ++ (le 8 (8 * m.length)).reverse

end Sha

/-- SHA-256. -/
def sha256 (m : Bytes) : Bytes :=
  let p := Sha.pad m
  let h := (List.range (p.length / 64)).foldl (fun h i => Sha.compress h (slice p (64 * i) 64)) Sha.init
  h.flatMap (fun w => (le 4 w.toNat).reverse)

/-- HMAC-SHA-256. -/
def hmac (key m : Bytes) : Bytes :=
  let k := slice (if 64 < key.length then sha256 key else key) 0 64
  sha256 (k.map (· ^^^ 0x5c#8) ++ sha256 (k.map (· ^^^ 0x36#8) ++ m))

namespace P256

def p : Nat := 0xFFFFFFFF00000001000000000000000000000000FFFFFFFFFFFFFFFFFFFFFFFF
def n : Nat := 0xFFFFFFFF00000000FFFFFFFFFFFFFFFFBCE6FAADA7179E84F3B9CAC2FC632551
def b : Nat := 0x5AC635D8AA3A93E7B3EBBD55769886BC651D06B0CC53B0F63BCE3C3E27D2604B
def gx : Nat := 0x6B17D1F2E12C4247F8BCE6E563A440F277037D812DEB33A0F4A13945D898C296
def gy : Nat := 0x4FE342E2FE1A7F9B8EE7EB4A7C0F9E162BCE33576B315ECECBB6406837BF51F5

def powMod (m base e : Nat) : Nat :=
  ((List.range 256).foldl (fun (s : Nat × Nat) i =>
    (if bit e i then s.1 * s.2 % m else s.1, s.2 * s.2 % m)) (1 % m, base % m)).1

def inv (m a : Nat) : Nat := powMod m a (m - 2)

def sub (x y : Nat) : Nat := (x + p - y % p) % p

/-- Points of the curve; none is the point at infinity. -/
abbrev Point := Option (Nat × Nat)

def add : Point → Point → Point
  | none, q => q
  | q, none => q
  | some (x1, y1), some (x2, y2) =>
    if x1 = x2 ∧ (y1 + y2) % p = 0 then none
    else
      let l := if x1 = x2 then (3 * x1 * x1 + p - 3) % p * inv p (2 * y1) % p
               else sub y2 y1 * inv p (sub x2 x1) % p
      let x3 := sub (sub (l * l % p) x1) x2
      some (x3, sub (l * sub x1 x3 % p) y1)

def mul (k : Nat) (q : Point) : Point :=
  ((List.range 256).foldl (fun (s : Point × Point) i =>
    (if bit k i then add s.1 s.2 else s.1, add s.2 s.2)) (none, q)).1

def onCurve (x y : Nat) : Bool :=
  decide (x < p) && decide (y < p) && (y * y % p == (x * x * x + (p - 3) * x + b) % p)

/-- ECDSA verification of a 32-byte digest. -/
def verify (x y : Nat) (digest : Bytes) (r s : Nat) : Bool :=
  if r = 0 ∨ n ≤ r ∨ s = 0 ∨ n ≤ s ∨ onCurve x y = false then false
  else
    let e := ofLE digest.reverse
    let w := inv n s
    match add (mul (e * w % n) (some (gx, gy))) (mul (r * w % n) (some (x, y))) with
    | none => false
    | some (x1, _) => x1 % n == r

end P256

/-- The check of a 128-byte signature block: the key hash first, then the signature (R387). -/
def sigOk (keyHash : Bytes) (digest blk : Bytes) : Bool :=
  (sha256 (slice blk 0 64) == keyHash) &&
  P256.verify (ofLE (slice blk 0 32).reverse) (ofLE (slice blk 32 32).reverse) digest
    (ofLE (slice blk 64 32).reverse) (ofLE (slice blk 96 32).reverse)

namespace Aes

def xtime (a : Nat) : Nat := if bit a 7 then ((a * 2) % 256) ^^^ 0x1B else a * 2

def mul (a c : Nat) : Nat :=
  ((List.range 8).foldl (fun (q : Nat × Nat) i =>
    (if bit c i then q.1 ^^^ q.2 else q.1, xtime q.2)) (0, a)).1

def inv (a : Nat) : Nat := (List.range 253).foldl (fun s _ => mul s a) a

def rotl8 (a k : Nat) : Nat := (a * 2 ^ k) % 256 + a / 2 ^ (8 - k)

def sbox (a : Nat) : Nat :=
  let x := if a = 0 then 0 else inv a
  x ^^^ rotl8 x 1 ^^^ rotl8 x 2 ^^^ rotl8 x 3 ^^^ rotl8 x 4 ^^^ 0x63

def subWord (w : List Nat) : List Nat := w.map sbox

def xorL (a b : List Nat) : List Nat := a.zipWith (· ^^^ ·) b

/-- The 60 words of the AES-256 key schedule, oldest first. -/
def expand (key : List Nat) : List (List Nat) :=
  let w0 := ((List.range 8).map (fun i => (key.drop (4 * i)).take 4)).reverse
  (((List.range 52).foldl (fun (st : List (List Nat) × Nat) i =>
    let w := st.1
    let prev := w.headD []
    let old := w.getD 7 []
    if i % 8 = 0 then
      let rot := subWord (prev.drop 1 ++ prev.take 1)
      (xorL old (xorL rot [st.2, 0, 0, 0]) :: w, xtime st.2)
    else if i % 8 = 4 then (xorL old (subWord prev) :: w, st.2)
    else (xorL old prev :: w, st.2)) (w0, 1)).1).reverse

def shiftRows (s : List Nat) : List Nat :=
  (List.range 16).map (fun i => s.getD ((i + 4 * (i % 4)) % 16) 0)

def mixCol (c : List Nat) : List Nat :=
  (List.range 4).map (fun i =>
    mul (c.getD i 0) 2 ^^^ mul (c.getD ((i + 1) % 4) 0) 3 ^^^ c.getD ((i + 2) % 4) 0 ^^^ c.getD ((i + 3) % 4) 0)

def mixColumns (s : List Nat) : List Nat :=
  (List.range 4).flatMap (fun j => mixCol ((s.drop (4 * j)).take 4))

def block (key blk : List Nat) : List Nat :=
  let w := expand key
  let rk := fun r => ((w.drop (4 * r)).take 4).flatten
  let s := (List.range 13).foldl (fun s r =>
    xorL (mixColumns (shiftRows (s.map sbox))) (rk (r + 1))) (xorL blk (rk 0))
  xorL (shiftRows (s.map sbox)) (rk 14)

end Aes

namespace Gcm

/-- Multiplication in GF(2^128), most significant bit first. -/
def gmul (x y : Nat) : Nat :=
  ((List.range 128).foldl (fun (s : Nat × Nat) i =>
    (if bit x (127 - i) then s.1 ^^^ s.2 else s.1,
     if bit s.2 0 then (s.2 / 2) ^^^ (0xE1 * 2 ^ 120) else s.2 / 2)) (0, y)).1

def toN (b : Bytes) : Nat := ofLE b.reverse

def pad16 (b : Bytes) : Bytes := b ++ List.replicate ((16 - b.length % 16) % 16) 0

def ghash (h : Nat) (d : Bytes) : Nat :=
  (List.range (d.length / 16)).foldl (fun y i => gmul (y ^^^ toN (slice d (16 * i) 16)) h) 0

def enc (key : Bytes) (blk : Bytes) : Bytes :=
  (Aes.block (key.map BitVec.toNat) (blk.map BitVec.toNat)).map (BitVec.ofNat 8)

def ctr (iv : Bytes) (c : Nat) : Bytes := iv ++ (le 4 c).reverse

/-- AES-256-GCM encryption: the ciphertext and the 16-byte tag. -/
def encrypt (key iv aad m : Bytes) : Bytes × Bytes :=
  let ks := (List.range (ceilDiv m.length 16)).flatMap (fun i => enc key (ctr iv (i + 2)))
  let c := m.zipWith (· ^^^ ·) ks
  let h := toN (enc key (List.replicate 16 0))
  let g := ghash h (pad16 aad ++ pad16 c ++ (le 8 (8 * aad.length)).reverse ++ (le 8 (8 * c.length)).reverse)
  (c, ((le 16 g).reverse).zipWith (· ^^^ ·) (enc key (ctr iv 1)))

/-- The tag check of a stored ciphertext. -/
def tagOk (key iv aad c tag : Bytes) : Bool :=
  let h := toN (enc key (List.replicate 16 0))
  let g := ghash h (pad16 aad ++ pad16 c ++ (le 8 (8 * aad.length)).reverse ++ (le 8 (8 * c.length)).reverse)
  ((le 16 g).reverse).zipWith (· ^^^ ·) (enc key (ctr iv 1)) == tag

/-- The plaintext of a stored ciphertext. -/
def decrypt (key iv c : Bytes) : Bytes :=
  c.zipWith (· ^^^ ·) ((List.range (ceilDiv c.length 16)).flatMap (fun i => enc key (ctr iv (i + 2))))

end Gcm

end Sys2Proof.Machine
end

