-- ==== Sys2Proof/Config.lean ====
section
/-! DEFINITION. What one unit fixes and what the manual leaves open: constants with no body, so that no proof can
rest on their values. -/
namespace Sys2Proof.Config

/-- Serial number (R274, R87). DESIGN CHOICE, entry 4. -/
opaque serial : BitVec 64
/-- ID_REV, per silicon (R274). DESIGN CHOICE, entry 4. -/
opaque silicon : BitVec 32
/-- VERSION of the factory image, as ID_FW (R274, R388). DESIGN CHOICE, entry 4. -/
opaque factoryVersion : BitVec 32
/-- Meridian firmware as shipped: version and image digest (R87, R92). DESIGN CHOICE, entry 4. -/
opaque merVersion : BitVec 16
/-- The digest of that image. DESIGN CHOICE, entry 4. -/
opaque merDigest : Nat → Byte
/-- Meridian's keys, made at first power-up (R70, R71). DESIGN CHOICE, entry 4. -/
opaque recordKey : Nat → Byte
/-- The audit key. DESIGN CHOICE, entry 4. -/
opaque auditKey : Nat → Byte
/-- What the key store gives for the audit key once the keys are erased (R384), on which the tag of an entry written after
that depends: the manual does not say. DESIGN CHOICE, entry 36. -/
opaque erasedKey : Nat → Byte
/-- The device flash key (R385). DESIGN CHOICE, entry 4. -/
opaque flashKey : Nat → Byte
/-- Key hashes in the boot ROM and in Meridian (R385). DESIGN CHOICE, entry 4. -/
opaque firmwareKeyHash : Nat → Byte
/-- The metrology key hash. DESIGN CHOICE, entry 4. -/
opaque metrologyKeyHash : Nat → Byte
/-- The vendor debug key hash. DESIGN CHOICE, entry 4. -/
opaque vendorDebugKeyHash : Nat → Byte
/-- The n-th nonce of DEBUG_CHALLENGE (R392). DESIGN CHOICE, entry 4. -/
opaque nonce : Nat → Nat → Byte
/-- Whether a velocity or an acceleration n / d that is no whole number is rounded up: the manual gives the quotient and
not its rounding (R44). DESIGN CHOICE, entry 30. -/
opaque rateUp : Int → Int → Bool
/-- The codes of type, access and boundary that PARAM_INFO answers, which the manual does not number (R325).
DESIGN CHOICE, entry 16. -/
opaque infoType : Nat → Byte
/-- The code of an access, likewise. DESIGN CHOICE, entry 16. -/
opaque infoAccess : Nat → Byte
/-- The code of a boundary, likewise. DESIGN CHOICE, entry 16. -/
opaque infoBoundary : Nat → Byte
/-- SEVERITY of a log record by TYPE, and its DATA byte `i` by TYPE and the two items it carries: the manual lists the
items and gives no layout (R408). DESIGN CHOICE, entry 65. -/
opaque logSeverity : Nat → Byte
/-- DATA byte of a log record, likewise. DESIGN CHOICE, entry 65. -/
opaque logData : Nat → Nat → Nat → Nat → Byte
/-- Byte `i` of a trace entry, by TB, kind and number: the manual gives no layout (R391). -/
opaque traceData : Nat → Nat → Nat → Nat → Byte
/-- Whether a travel n / d by a sync frame that is no whole number of 1/65,536 count is rounded up, which the manual
leaves open (R237). DESIGN CHOICE, entry 47. -/
opaque spanUp : Int → Int → Bool
/-- How far a follower steers at a frame against its timebase error, before the limits that it lies between none and all
of the error, and within the rate limit (R235). DESIGN CHOICE, entry 47. -/
opaque steer : Int → Int
/-- Part of TURNAROUND_PS of an ECHO to a PROBE that came at an instant, beside the wait for its output's slot (R234).
DESIGN CHOICE, entry 47. -/
opaque slotTurnaround : Nat → BitVec 32
/-- How many idle symbols above 10 a relaying device sends at an instant (R232). DESIGN CHOICE, entry 47. -/
opaque relayIdle : Nat → Fin 3
/-- The STAMP of a defect record whose line Y lies outside the tile's rows, which the manual leaves open (R166).
DESIGN CHOICE, entry 35. -/
opaque noStamp : Nat → Int
/-- The JTAG IDCODE (R391). DESIGN CHOICE, entry 64. -/
opaque idcode : BitVec 32
/-- What a scan or a capture shifts out of the chip at an instant, and what a debugger reads at a core SRAM word, by
word, byte and instant, where no debugger has written: the manual maps no data to the words (R24, R391).
DESIGN CHOICE, entry 64. -/
opaque scanData : Nat → Bytes
/-- What a debugger reads at a core SRAM word, likewise. DESIGN CHOICE, entry 48. -/
opaque sramData : Nat → Nat → Nat → Byte
/-- Whether a delay n / d that is no whole number of ps is rounded up, which the manual does not state (R112).
DESIGN CHOICE, entry 25. -/
opaque delayUp : Int → Int → Bool

/-- What a lane's receiver has adapted to at an instant: CTLE boost, then the DFE values (R106): analogue values, which
the manual cannot give. DESIGN CHOICE, entry 24. -/
opaque eqValue : Nat → Nat → Nat → Nat
/-- The register of a lane's PRBS31 source when a loop starts it: the manual gives no seed (R124). DESIGN CHOICE,
entry 26. -/
opaque prbsSeed : Nat → Nat
/-- COEF_REQ that a lane asks of its partner in EQ at an instant: the manual gives no rule for the adaptation (R101).
DESIGN CHOICE, entry 22. -/
opaque coefReq : Nat → Nat → BitVec 6
/-- A utilisation that PARAM_GET reads, by its key and instant: a measured fraction of the last 1 ms (R189, R269). DESIGN CHOICE, entry 4. -/
opaque measured : Nat → Nat → BitVec 16
/-- The default that PARAM_INFO answers for a parameter with none in the tables (R325). DESIGN CHOICE, entry 16. -/
opaque infoDefault : Nat → BitVec 64

end Sys2Proof.Config
end

