-- ==== Sys2Proof/Machine/Coding.lean ====
section
/-! DEFINITION. The line coding of a lane: 257-bit blocks and their bit order, the scrambler, RS(544,514), the Gray map
and the precoder, training frames as symbols (R94 to R97, R100), and the PRBS31 pattern (R124). A symbol is its Gray
value 0 to 3, which stands for the levels −3, −1, +1 and +3. -/
namespace Sys2Proof.Machine

/-- A 257-bit block: whether it is a data block, and its 32 payload bytes (R95). -/
structure Blk where
  data : Bool
  pay : Bytes
  deriving DecidableEq, Repr

/-- The IDLE control block. -/
def idleBlk : Blk := ⟨false, List.replicate 32 0⟩

/-- The bits of bytes, each byte LSB first. -/
def bitsOfBytes (b : Bytes) : List Bool := (b.map (fun x => (List.range 8).map (bit x.toNat))).flatten

/-- The number that bits spell, the first the LSB. -/
def ofBitsLsb : List Bool → Nat
  | [] => 0
  | b :: r => b2n b + 2 * ofBitsLsb r

/-- The number that bits spell, the first the MSB. -/
def ofBitsMsb (l : List Bool) : Nat := l.foldl (fun n b => 2 * n + b2n b) 0

/-- Pieces of a length. -/
def chunks {α : Type} (k : Nat) (l : List α) : Nat → List (List α)
  | 0 => []
  | n + 1 => l.take k :: chunks k (l.drop k) n

/-- Bytes from their bits, each LSB first. -/
def bytesLsb (l : List Bool) : Bytes := (chunks 8 l (l.length / 8)).map (fun c => BitVec.ofNat 8 (ofBitsLsb c))

/-! ## The scrambler (R97) -/

/-- The seed of a lane's scrambler. -/
def scramSeed (laneInLink : Nat) : Nat := 0x2D5AC3E0 ^^^ laneInLink

/-- One step of x^31 + x^28 + 1: the register shifts towards its stage 31, whose bit is the output. DESIGN CHOICE,
entry 79. -/
def scramStep (r : Nat) : Nat × Bool := ((r * 2) % 2 ^ 31 + b2n (bit r 30 != bit r 27), bit r 30)

/-- Payload bits with the scrambler's output added, and the register after them. -/
def scramBits (r : Nat) : List Bool → Nat × List Bool
  | [] => (r, [])
  | b :: l =>
    let x := scramStep r
    let y := scramBits x.1 l
    (y.1, (b != x.2) :: y.2)

/-- Whether a payload is an ALIGN block's, which is not scrambled. -/
def isAlign (p : Bytes) : Bool := slice p 0 4 == [0x1E, 0xE1, 0x4B, 0x96]

/-- A block as it is sent: an ALIGN block as it is, with the seed reloaded after it; another scrambled (R95, R97). -/
def blkBits (lane r : Nat) (b : Blk) : Nat × List Bool :=
  if !b.data && isAlign b.pay then (scramSeed lane, false :: bitsOfBytes b.pay)
  else
    let x := scramBits r (bitsOfBytes b.pay)
    (x.1, b.data :: x.2)

/-- The block that 257 received bits hold. -/
def blkOf (lane r : Nat) (l : List Bool) : Nat × Blk :=
  let d := l.headD false
  let raw := bytesLsb (l.drop 1)
  if !d && isAlign raw then (scramSeed lane, ⟨false, raw⟩)
  else
    let x := scramBits r (l.drop 1)
    (x.1, ⟨d, bytesLsb x.2⟩)

/-! ## RS(544,514) over GF(2^10), x^10 + x^3 + 1 (R94) -/

def gf10Double (a : Nat) : Nat := if bit a 9 then (a * 2) % 1024 ^^^ 0x9 else a * 2

def gf10Mul (a b : Nat) : Nat :=
  ((List.range 10).foldl (fun (p : Nat × Nat) i => (if bit b i then p.1 ^^^ p.2 else p.1, gf10Double p.2)) (0, a)).1

def gf10Pow (a : Nat) : Nat → Nat
  | 0 => 1
  | n + 1 => gf10Mul (gf10Pow a n) a

/-- The inverse: a^1022 by the squares of a. -/
def gf10Inv (a : Nat) : Nat :=
  ((List.range 9).foldl (fun (p : Nat × Nat) _ =>
    let q := gf10Mul p.1 p.1
    (q, gf10Mul p.2 q)) (a, 1)).2

/-- Sum of two polynomials, lowest coefficient first. -/
def polyAdd : List Nat → List Nat → List Nat
  | [], b => b
  | a, [] => a
  | x :: a, y :: b => (x ^^^ y) :: polyAdd a b

/-- Value of a polynomial, lowest coefficient first. -/
def polyEval (x : Nat) (p : List Nat) : Nat := p.foldr (fun c s => gf10Mul s x ^^^ c) 0

/-- The generator: the product of (x − α^j) for j below 30, highest coefficient first, without the leading 1.
PRESUMED, entry 79. -/
def rs10Gen : List Nat :=
  let g := (List.range 30).foldl (fun (p : List Nat × Nat) _ =>
    (polyAdd (0 :: p.1) (p.1.map (gf10Mul p.2)), gf10Double p.2)) ([1], 1)
  g.1.reverse.drop 1

/-- The 30 parity symbols of 514 message symbols, highest power first. -/
def rs10Check (m : List Nat) : List Nat :=
  let g := rs10Gen
  m.foldl (fun r x =>
    let f := x ^^^ r.headD 0
    (r.drop 1 ++ [0]).zipWith (fun a c => a ^^^ gf10Mul f c) g) (List.replicate 30 0)

/-- The 30 syndromes of 544 symbols, highest power first. -/
def rs10Syndromes (c : List Nat) : List Nat :=
  ((List.range 30).foldl (fun (p : List Nat × Nat) _ =>
    (p.1 ++ [c.foldl (fun s x => gf10Mul s p.2 ^^^ x) 0], gf10Double p.2)) ([], 1)).1

/-- The search for the error locator (Berlekamp and Massey): locator, former locator, length, shift, former
discrepancy. -/
structure Locator where
  cur : List Nat
  old : List Nat
  len : Nat
  shift : Nat
  dis : Nat
  deriving DecidableEq, Repr

def Locator.next (syn : List Nat) (x : Locator) (n : Nat) : Locator :=
  let d := (List.range (x.len + 1)).foldl (fun s i => s ^^^ gf10Mul (x.cur.getD i 0) (syn.getD (n - i) 0)) 0
  if d = 0 then { x with shift := x.shift + 1 }
  else
    let k := gf10Mul d (gf10Inv x.dis)
    let new := polyAdd x.cur (List.replicate x.shift 0 ++ x.old.map (gf10Mul k))
    if 2 * x.len ≤ n then ⟨new, x.cur, n + 1 - x.len, 1, d⟩
    else { x with cur := new, shift := x.shift + 1 }

/-- Error values by power of x: at a power whose locator inverse is a root, by the rule of Forney. -/
def rs10Errors (syn loc : List Nat) : List (Nat × Nat) :=
  let omega := (List.range 30).map (fun n =>
    (List.range (n + 1)).foldl (fun s i => s ^^^ gf10Mul (loc.getD i 0) (syn.getD (n - i) 0)) 0)
  let deriv := loc.zipIdx.map (fun p => if p.2 % 2 = 1 then p.1 else 0)
  let ainv := gf10Inv 2
  ((List.range 544).foldl (fun (p : List (Nat × Nat) × Nat × Nat) i =>
    let l := if polyEval p.2.2 loc = 0 then
        p.1 ++ [(i, gf10Mul (polyEval p.2.2 omega) (gf10Inv (polyEval p.2.2 deriv)))] else p.1
    (l, gf10Double p.2.1, gf10Mul p.2.2 ainv)) ([], 1, 1)).1

/-- Decode 544 symbols: the message and the number of symbols corrected, 15 at most; none if uncorrectable. -/
def rs10Decode (c : List Nat) : Option (List Nat × Nat) :=
  let syn := rs10Syndromes c
  if syn.all (· == 0) then some (c.take 514, 0)
  else
    let x := (List.range 30).foldl (Locator.next syn) ⟨[1], [1], 0, 1, 1⟩
    let errs := rs10Errors syn x.cur
    let fixed := errs.foldl (fun c e => c.modify (543 - e.1) (· ^^^ e.2)) c
    if x.len ≤ 15 ∧ errs.length = x.len ∧ (rs10Syndromes fixed).all (· == 0) = true then some (fixed.take 514, x.len)
    else none

/-! ## Symbols: Gray map and precoder (R95, R96) -/

/-- Gray value of a bit pair (MSB, LSB). -/
def grayOf (a b : Bool) : Nat := 2 * b2n a + b2n (a != b)

/-- The bit pair of a Gray value. -/
def grayBits (g : Nat) : List Bool := [decide (2 ≤ g), g % 4 == 1 || g % 4 == 2]

/-- The Gray values of bits taken in pairs. -/
def grayRow : List Bool → List Nat
  | a :: b :: r => grayOf a b :: grayRow r
  | _ => []

/-- P(n) = (G(n) − P(n−1)) mod 4 over a row, from P before it; answers the last P too. -/
def precode (p : Nat) : List Nat → Nat × List Nat
  | [] => (p, [])
  | g :: r =>
    let q := (g + 4 - p % 4) % 4
    let x := precode q r
    (x.1, q :: x.2)

/-- G(n) = (P(n) + P(n−1)) mod 4. -/
def unprecode (p : Nat) : List Nat → Nat × List Nat
  | [] => (p, [])
  | q :: r =>
    let x := unprecode q r
    (x.1, (q + p) % 4 :: x.2)

/-! ## Codewords (R94) -/

/-- What a direction of a lane keeps from codeword to codeword: the scrambler's register, the precoder's last symbol. -/
structure Coder where
  /-- scrambler register (R97) -/
  lfsr : Nat
  /-- last precoded symbol (R96) -/
  last : Nat
  deriving DecidableEq, Repr

/-- The 2,720 symbols of a codeword of 20 blocks. -/
def encodeBlocks (lane : Nat) (pre : Bool) (c : Coder) (l : List Blk) : Coder × List Nat :=
  let x := l.foldl (fun (p : Nat × List Bool) b =>
    let y := blkBits lane p.1 b
    (y.1, p.2 ++ y.2)) (c.lfsr, [])
  let m := (chunks 10 x.2 514).map ofBitsMsb
  let bits := ((m ++ rs10Check m).map (fun v => (List.range 10).map (fun i => bit v (9 - i)))).flatten
  let g := grayRow bits
  if pre then
    let y := precode c.last g
    (⟨x.1, y.1⟩, y.2)
  else (⟨x.1, c.last⟩, g)

/-- The 20 blocks of 2,720 received symbols, with the number of symbols corrected; none if the code cannot correct
them, and then the scrambler runs on over the 20 payloads. -/
def decodeBlocks (lane : Nat) (pre : Bool) (c : Coder) (l : List Nat) : Coder × Option (List Blk × Nat) :=
  let y := if pre then unprecode c.last l else (c.last, l)
  let bits := (y.2.map grayBits).flatten
  match rs10Decode ((chunks 10 bits 544).map ofBitsMsb) with
  | none => (⟨(scramBits c.lfsr (List.replicate 5120 false)).1, y.1⟩, none)
  | some (m, n) =>
    let raw := (m.map (fun v => (List.range 10).map (fun i => bit v (9 - i)))).flatten
    let x := (chunks 257 raw 20).foldl (fun (p : Nat × List Blk) b =>
      let z := blkOf lane p.1 b
      (z.1, p.2 ++ [z.2])) (c.lfsr, [])
    (⟨x.1, y.1⟩, some (x.2, n))

/-! ## Training frames (R100) -/

/-- `n` bits of x^13 + x^12 + x^2 + x + 1 from a register. DESIGN CHOICE, entry 79. -/
def prbs13 : Nat → Nat → List Bool
  | 0, _ => []
  | n + 1, r =>
    bit r 12 :: prbs13 n ((r * 2) % 2 ^ 13 + b2n (bit r 12 != (bit r 11 != (bit r 1 != bit r 0))))

/-- The 1,024 symbols of a training frame. -/
def frameSymbols (laneInLink field : Nat) : List Nat :=
  List.replicate 16 3 ++ List.replicate 16 0 ++ (List.range 64).map (fun i => 3 * b2n (bit field (63 - i)))
    ++ grayRow (prbs13 1856 (0x0A5F ^^^ (laneInLink * 256)))

/-- The control field of received symbols that begin with the marker. -/
def frameField (l : List Nat) : Option Nat :=
  let f := (l.drop 32).take 64
  if l.length = 1024 ∧ l.take 32 = List.replicate 16 3 ++ List.replicate 16 0 ∧ f.all (fun v => v == 0 || v == 3) = true then
    some (ofBitsMsb (f.map (· == 3)))
  else none

/-! ## PRBS31 (R124) -/

/-- `n` symbols of the pattern x^31 + x^28 + 1 from a register, and the register after them. -/
def prbs31 : Nat → Nat → Nat × List Nat
  | 0, r => (r, [])
  | n + 1, r =>
    let a := scramStep r
    let b := scramStep a.1
    let x := prbs31 n b.1
    (x.1, grayOf a.2 b.2 :: x.2)

end Sys2Proof.Machine
end

