-- ==== Sys2Proof/Machine/ParamTable.lean ====
section
/-! DEFINITION. The parameter tables of the manual (groups 0x01 to 0x0F): IDs, instances, types, ranges, defaults,
access and boundary, one row per ID, as R7 lays them out. -/
namespace Sys2Proof.Machine

/-- Types of parameter tables (R7): unsigned and signed of a width, bool, enum with its VALUE list (R328), fix m.n. -/
inductive PType where
  | u (w : Nat)
  | s (w : Nat)
  | bool
  | enum (vals : List Nat)
  | fix (m n : Nat)
  deriving DecidableEq, Repr

/-- Access codes (R2). -/
inductive PAcc where
  | rw | ro | wo | w1c | rc
  deriving DecidableEq, Repr

/-- Boundary codes (R8). -/
inductive PBnd where
  | imm | frame | tile | reset | none
  deriving DecidableEq, Repr

/-- What a counter does at its end (R439). -/
inductive PEnd where
  | none | sat | wrap
  deriving DecidableEq, Repr

/-- One row of a parameter table. `ranges` is empty when the type alone bounds the value; `step` divides every
accepted value; `dflt` is the default as a VALUE (R328). -/
structure PRow where
  id : Nat
  name : String
  inst : Nat
  words : Nat
  ty : PType
  ranges : List (Int × Int)
  step : Nat
  dflt : Nat
  acc : PAcc
  bnd : PBnd
  ends : PEnd
  deriving DecidableEq, Repr

namespace P

/-- `mode.word` (R348). -/
abbrev modeWord : Nat := 0x0100
/-- `mode.pending` (R348). -/
abbrev modePending : Nat := 0x0101
/-- `mode.quiet_park_us` (R348). -/
abbrev modeQuietParkUs : Nat := 0x0102
/-- `mode.change_count` (R348). -/
abbrev modeChangeCount : Nat := 0x0103
/-- `ctl.timeout_default_us` (R332). -/
abbrev ctlTimeoutDefaultUs : Nat := 0x0110
/-- `ctl.late_done_count` (R332). -/
abbrev ctlLateDoneCount : Nat := 0x0111
/-- `ctl.mb_busy_count` (R332). -/
abbrev ctlMbBusyCount : Nat := 0x0112
/-- `ctl.cmd_count` (R332). -/
abbrev ctlCmdCount : Nat := 0x0113
/-- `ctl.timeout_count` (R332). -/
abbrev ctlTimeoutCount : Nat := 0x0114
/-- `rst.last_cause` (R381). -/
abbrev rstLastCause : Nat := 0x0120
/-- `rst.boot_sel` (R381). -/
abbrev rstBootSel : Nat := 0x0121
/-- `rst.ref_sel` (R381). -/
abbrev rstRefSel : Nat := 0x0122
/-- `rst.ref_fallback` (R381). -/
abbrev rstRefFallback : Nat := 0x0123
/-- `rst.boot_fallback_count` (R381). -/
abbrev rstBootFallbackCount : Nat := 0x0124
/-- `rst.lane_force` (R381). -/
abbrev rstLaneForce : Nat := 0x0125
/-- `rst.wait_lock_discard` (R381). -/
abbrev rstWaitLockDiscard : Nat := 0x0126
/-- `rst.warm_count` (R381). -/
abbrev rstWarmCount : Nat := 0x0127
/-- `lane.mode` (R125). -/
abbrev laneMode : Nat := 0x0200
/-- `lane.width` (R125). -/
abbrev laneWidth : Nat := 0x0201
/-- `lane.rate` (R125). -/
abbrev laneRate : Nat := 0x0202
/-- `lane.precode_rx` (R125). -/
abbrev lanePrecodeRx : Nat := 0x0203
/-- `lane.precode_tx` (R125). -/
abbrev lanePrecodeTx : Nat := 0x0204
/-- `lane.eq.ctle_boost` (R125). -/
abbrev laneEqCtleBoost : Nat := 0x0205
/-- `lane.eq.drift_guard` (R125). -/
abbrev laneEqDriftGuard : Nat := 0x0206
/-- `lane.fec.retrain_thresh` (R125). -/
abbrev laneFecRetrainThresh : Nat := 0x0207
/-- `lane.idle_ei_us` (R125). -/
abbrev laneIdleEiUs : Nat := 0x0208
/-- `lane.loop` (R125). -/
abbrev laneLoop : Nat := 0x0209
/-- `lane.pattern` (R125). -/
abbrev lanePattern : Nat := 0x020A
/-- `lane.emu_channels` (R125). -/
abbrev laneEmuChannels : Nat := 0x020B
/-- `lane.emu_width` (R125). -/
abbrev laneEmuWidth : Nat := 0x020C
/-- `lane.state` (R125). -/
abbrev laneState : Nat := 0x020D
/-- `lane.attempt` (R125). -/
abbrev laneAttempt : Nat := 0x020E
/-- `lane.last_fail` (R125). -/
abbrev laneLastFail : Nat := 0x020F
/-- `lane.fec_corr_count` (R125). -/
abbrev laneFecCorrCount : Nat := 0x0210
/-- `lane.fec_uncorr_count` (R125). -/
abbrev laneFecUncorrCount : Nat := 0x0211
/-- `lane.ctl_err_count` (R125). -/
abbrev laneCtlErrCount : Nat := 0x0212
/-- `lane.retrain_count` (R125). -/
abbrev laneRetrainCount : Nat := 0x0213
/-- `lane.retrain_fail_count` (R125). -/
abbrev laneRetrainFailCount : Nat := 0x0214
/-- `lane.prbs_err_count` (R125). -/
abbrev lanePrbsErrCount : Nat := 0x0215
/-- `head.state` (R125). -/
abbrev headState : Nat := 0x0300
/-- `head.info` (R125). -/
abbrev headInfo : Nat := 0x0301
/-- `head.delay_ps` (R125). -/
abbrev headDelayPs : Nat := 0x0302
/-- `head.ack_timeout_us` (R125). -/
abbrev headAckTimeoutUs : Nat := 0x0303
/-- `head.temp` (R125). -/
abbrev headTemp : Nat := 0x0304
/-- `head.fault` (R125). -/
abbrev headFault : Nat := 0x0305
/-- `head.crc_err_count` (R125). -/
abbrev headCrcErrCount : Nat := 0x0306
/-- `head.seq_gap_count` (R125). -/
abbrev headSeqGapCount : Nat := 0x0307
/-- `head.unknown_count` (R125). -/
abbrev headUnknownCount : Nat := 0x0308
/-- `head.dup_ack_count` (R125). -/
abbrev headDupAckCount : Nat := 0x0309
/-- `head.unbound_count` (R125). -/
abbrev headUnboundCount : Nat := 0x030A
/-- `head.late_exposure_count` (R125). -/
abbrev headLateExposureCount : Nat := 0x030B
/-- `pos.enc.standard` (R62). -/
abbrev posEncStandard : Nat := 0x0400
/-- `pos.enc.filter_ns` (R62). -/
abbrev posEncFilterNs : Nat := 0x0401
/-- `pos.enc.invert` (R62). -/
abbrev posEncInvert : Nat := 0x0402
/-- `pos.enc.swap_ab` (R62). -/
abbrev posEncSwapAb : Nat := 0x0403
/-- `pos.enc.z_period` (R62). -/
abbrev posEncZPeriod : Nat := 0x0404
/-- `pos.enc.z_tol` (R62). -/
abbrev posEncZTol : Nat := 0x0405
/-- `pos.enc.ratio_num` (R62). -/
abbrev posEncRatioNum : Nat := 0x0406
/-- `pos.enc.ratio_den` (R62). -/
abbrev posEncRatioDen : Nat := 0x0407
/-- `pos.enc.count` (R62). -/
abbrev posEncCount : Nat := 0x0408
/-- `pos.enc.qerr_count` (R62). -/
abbrev posEncQerrCount : Nat := 0x0409
/-- `pos.enc.status` (R62). -/
abbrev posEncStatus : Nat := 0x040A
/-- `pos.axis.members` (R62). -/
abbrev posAxisMembers : Nat := 0x0410
/-- `pos.axis.method` (R62). -/
abbrev posAxisMethod : Nat := 0x0411
/-- `pos.axis.primary` (R62). -/
abbrev posAxisPrimary : Nat := 0x0412
/-- `pos.axis.tol` (R62). -/
abbrev posAxisTol : Nat := 0x0413
/-- `pos.axis.tol_span` (R62). -/
abbrev posAxisTolSpan : Nat := 0x0414
/-- `pos.axis.dir` (R62). -/
abbrev posAxisDir : Nat := 0x0415
/-- `pos.axis.rev_hyst` (R62). -/
abbrev posAxisRevHyst : Nat := 0x0416
/-- `pos.axis.vel_window` (R62). -/
abbrev posAxisVelWindow : Nat := 0x0417
/-- `pos.axis.scale_num` (R62). -/
abbrev posAxisScaleNum : Nat := 0x0418
/-- `pos.axis.scale_den` (R62). -/
abbrev posAxisScaleDen : Nat := 0x0419
/-- `pos.axis.position` (R62). -/
abbrev posAxisPosition : Nat := 0x041A
/-- `pos.axis.velocity` (R62). -/
abbrev posAxisVelocity : Nat := 0x041B
/-- `pos.axis.status` (R62). -/
abbrev posAxisStatus : Nat := 0x041C
/-- `pos.axis.events` (R62). -/
abbrev posAxisEvents : Nat := 0x041D
/-- `trig.mode` (R62). -/
abbrev trigMode : Nat := 0x0430
/-- `trig.axis` (R62). -/
abbrev trigAxis : Nat := 0x0431
/-- `trig.origin` (R62). -/
abbrev trigOrigin : Nat := 0x0432
/-- `trig.pitch` (R62). -/
abbrev trigPitch : Nat := 0x0433
/-- `trig.period_ns` (R62). -/
abbrev trigPeriodNs : Nat := 0x0434
/-- `trig.input` (R62). -/
abbrev trigInput : Nat := 0x0435
/-- `trig.rearm` (R62). -/
abbrev trigRearm : Nat := 0x0436
/-- `trig.rearm_hyst` (R62). -/
abbrev trigRearmHyst : Nat := 0x0437
/-- `trig.lead_ns` (R62). -/
abbrev trigLeadNs : Nat := 0x0438
/-- `trig.min_interval_ns` (R62). -/
abbrev trigMinIntervalNs : Nat := 0x0439
/-- `trig.fired_count` (R62). -/
abbrev trigFiredCount : Nat := 0x043A
/-- `trig.overrun_count` (R62). -/
abbrev trigOverrunCount : Nat := 0x043B
/-- `trig.late_count` (R62). -/
abbrev trigLateCount : Nat := 0x043C
/-- `trig.err_max` (R62). -/
abbrev trigErrMax : Nat := 0x043D
/-- `fi.debounce_us` (R62). -/
abbrev fiDebounceUs : Nat := 0x0450
/-- `fi.polarity` (R62). -/
abbrev fiPolarity : Nat := 0x0451
/-- `fi.event` (R62). -/
abbrev fiEvent : Nat := 0x0452
/-- `fi.latch_axis` (R62). -/
abbrev fiLatchAxis : Nat := 0x0453
/-- `fi.latch` (R62). -/
abbrev fiLatch : Nat := 0x0454
/-- `fi.level` (R62). -/
abbrev fiLevel : Nat := 0x0455
/-- `fo.electrical` (R62). -/
abbrev foElectrical : Nat := 0x0460
/-- `fo.function` (R62). -/
abbrev foFunction : Nat := 0x0461
/-- `fo.level` (R62). -/
abbrev foLevel : Nat := 0x0462
/-- `fo.source` (R62). -/
abbrev foSource : Nat := 0x0463
/-- `fo.marker_origin` (R62). -/
abbrev foMarkerOrigin : Nat := 0x0464
/-- `fo.marker_pitch` (R62). -/
abbrev foMarkerPitch : Nat := 0x0465
/-- `fo.width_ns` (R62). -/
abbrev foWidthNs : Nat := 0x0466
/-- `fo.delay_ns` (R62). -/
abbrev foDelayNs : Nat := 0x0467
/-- `fo.off_level` (R62). -/
abbrev foOffLevel : Nat := 0x0468
/-- `fo.warm_hold_limit` (R62). -/
abbrev foWarmHoldLimit : Nat := 0x0469
/-- `fo.state` (R62). -/
abbrev foState : Nat := 0x046A
/-- `mer.seal.state` (R92). -/
abbrev merSealState : Nat := 0x0500
/-- `mer.event_counter` (R92). -/
abbrev merEventCounter : Nat := 0x0501
/-- `mer.fw.version` (R92). -/
abbrev merFwVersion : Nat := 0x0502
/-- `mer.fw.digest` (R92). -/
abbrev merFwDigest : Nat := 0x0503
/-- `mer.cal.digest` (R92). -/
abbrev merCalDigest : Nat := 0x0504
/-- `mer.len.mode` (R92). -/
abbrev merLenMode : Nat := 0x0510
/-- `mer.len.axis` (R92). -/
abbrev merLenAxis : Nat := 0x0511
/-- `mer.len.input` (R92). -/
abbrev merLenInput : Nat := 0x0512
/-- `mer.len.interval` (R92). -/
abbrev merLenInterval : Nat := 0x0513
/-- `mer.stamp.streams` (R92). -/
abbrev merStampStreams : Nat := 0x0514
/-- `mer.len.polarity` (R92). -/
abbrev merLenPolarity : Nat := 0x0515
/-- `mer.len.debounce_us` (R92). -/
abbrev merLenDebounceUs : Nat := 0x0516
/-- `mer.quad.index` (R92). -/
abbrev merQuadIndex : Nat := 0x0520
/-- `mer.quad.web` (R92). -/
abbrev merQuadWeb : Nat := 0x0521
/-- `mer.quad.digest` (R92). -/
abbrev merQuadDigest : Nat := 0x0522
/-- `mer.quad.pitch_nm` (R92). -/
abbrev merQuadPitchNm : Nat := 0x0523
/-- `mer.quad.state` (R92). -/
abbrev merQuadState : Nat := 0x0524
/-- `mer.quad.extra_count` (R92). -/
abbrev merQuadExtraCount : Nat := 0x0525
/-- `mer.quad.missing_count` (R92). -/
abbrev merQuadMissingCount : Nat := 0x0526
/-- `mer.record.seq` (R92). -/
abbrev merRecordSeq : Nat := 0x0530
/-- `mer.store.unacked` (R92). -/
abbrev merStoreUnacked : Nat := 0x0531
/-- `mer.store.lost` (R92). -/
abbrev merStoreLost : Nat := 0x0532
/-- `mer.audit.used` (R92). -/
abbrev merAuditUsed : Nat := 0x0533
/-- `plate.unit` (R156). -/
abbrev plateUnit : Nat := 0x0600
/-- `plate.line.width` (R156). -/
abbrev plateLineWidth : Nat := 0x0601
/-- `plate.in.bits` (R156). -/
abbrev plateInBits : Nat := 0x0602
/-- `plate.frame.mode` (R156). -/
abbrev plateFrameMode : Nat := 0x0603
/-- `plate.frame.lines` (R156). -/
abbrev plateFrameLines : Nat := 0x0604
/-- `plate.frame.length` (R156). -/
abbrev plateFrameLength : Nat := 0x0605
/-- `plate.frame.origin` (R156). -/
abbrev plateFrameOrigin : Nat := 0x0606
/-- `plate.fill_value` (R156). -/
abbrev plateFillValue : Nat := 0x0607
/-- `plate.line_timeout_us` (R156). -/
abbrev plateLineTimeoutUs : Nat := 0x0608
/-- `plate.ring_lines` (R156). -/
abbrev plateRingLines : Nat := 0x0609
/-- `plate.mem_used` (R156). -/
abbrev plateMemUsed : Nat := 0x060A
/-- `plate.state` (R156). -/
abbrev plateState : Nat := 0x060B
/-- `plate.black.enable` (R156). -/
abbrev plateBlackEnable : Nat := 0x0610
/-- `plate.black.level` (R156). -/
abbrev plateBlackLevel : Nat := 0x0611
/-- `plate.dpc.enable` (R156). -/
abbrev plateDpcEnable : Nat := 0x0618
/-- `plate.dpc.entries` (R156). -/
abbrev plateDpcEntries : Nat := 0x0619
/-- `plate.ff.mode` (R156). -/
abbrev plateFfMode : Nat := 0x0620
/-- `plate.ff.entries` (R156). -/
abbrev plateFfEntries : Nat := 0x0621
/-- `plate.cfa.pattern` (R156). -/
abbrev plateCfaPattern : Nat := 0x0628
/-- `plate.cfa.phase` (R156). -/
abbrev plateCfaPhase : Nat := 0x0629
/-- `plate.ccm.coef` (R156). -/
abbrev plateCcmCoef : Nat := 0x0630
/-- `plate.ccm.offset` (R156). -/
abbrev plateCcmOffset : Nat := 0x0631
/-- `plate.out.planes` (R156). -/
abbrev plateOutPlanes : Nat := 0x0632
/-- `plate.crop.x0` (R156). -/
abbrev plateCropX0 : Nat := 0x0638
/-- `plate.crop.width` (R156). -/
abbrev plateCropWidth : Nat := 0x0639
/-- `plate.crop.y0` (R156). -/
abbrev plateCropY0 : Nat := 0x063A
/-- `plate.crop.height` (R156). -/
abbrev plateCropHeight : Nat := 0x063B
/-- `plate.scale.x` (R156). -/
abbrev plateScaleX : Nat := 0x063C
/-- `plate.scale.y` (R156). -/
abbrev plateScaleY : Nat := 0x063D
/-- `plate.out.bits` (R156). -/
abbrev plateOutBits : Nat := 0x0640
/-- `plate.out.compress` (R156). -/
abbrev plateOutCompress : Nat := 0x0641
/-- `plate.tap.stream` (R156). -/
abbrev plateTapStream : Nat := 0x0648
/-- `plate.tap.point` (R156). -/
abbrev plateTapPoint : Nat := 0x0649
/-- `plate.tap.every` (R156). -/
abbrev plateTapEvery : Nat := 0x064A
/-- `plate.tap.compress` (R156). -/
abbrev plateTapCompress : Nat := 0x064B
/-- `plate.survey.stream` (R156). -/
abbrev plateSurveyStream : Nat := 0x0650
/-- `plate.survey.x0` (R156). -/
abbrev plateSurveyX0 : Nat := 0x0651
/-- `plate.survey.width` (R156). -/
abbrev plateSurveyWidth : Nat := 0x0652
/-- `plate.survey.scale_x` (R156). -/
abbrev plateSurveyScaleX : Nat := 0x0653
/-- `plate.survey.scale_y` (R156). -/
abbrev plateSurveyScaleY : Nat := 0x0654
/-- `plate.survey.bits` (R156). -/
abbrev plateSurveyBits : Nat := 0x0655
/-- `plate.survey.every` (R156). -/
abbrev plateSurveyEvery : Nat := 0x0656
/-- `plate.stats.point` (R156). -/
abbrev plateStatsPoint : Nat := 0x0658
/-- `plate.stats.x0` (R156). -/
abbrev plateStatsX0 : Nat := 0x0659
/-- `plate.stats.width` (R156). -/
abbrev plateStatsWidth : Nat := 0x065A
/-- `plate.stats.profile_bin` (R156). -/
abbrev plateStatsProfileBin : Nat := 0x065B
/-- `plate.stats.profile_plane` (R156). -/
abbrev plateStatsProfilePlane : Nat := 0x065C
/-- `plate.expset.active` (R156). -/
abbrev plateExpsetActive : Nat := 0x0660
/-- `plate.expset.pending` (R156). -/
abbrev plateExpsetPending : Nat := 0x0661
/-- `plate.long_count` (R156). -/
abbrev plateLongCount : Nat := 0x0668
/-- `plate.trunc_bytes` (R156). -/
abbrev plateTruncBytes : Nat := 0x0669
/-- `plate.format_err_count` (R156). -/
abbrev plateFormatErrCount : Nat := 0x066A
/-- `plate.missing_count` (R156). -/
abbrev plateMissingCount : Nat := 0x066B
/-- `plate.line_gap_count` (R156). -/
abbrev plateLineGapCount : Nat := 0x066C
/-- `plate.drop_count` (R156). -/
abbrev plateDropCount : Nat := 0x066D
/-- `plate.dpc_unresolved_count` (R156). -/
abbrev plateDpcUnresolvedCount : Nat := 0x066E
/-- `plate.survey_drop_count` (R156). -/
abbrev plateSurveyDropCount : Nat := 0x066F
/-- `nib.slot` (R189). -/
abbrev nibSlot : Nat := 0x0700
/-- `nib.state` (R189). -/
abbrev nibState : Nat := 0x0701
/-- `nib.last_fault` (R189). -/
abbrev nibLastFault : Nat := 0x0702
/-- `nib.fault_count` (R189). -/
abbrev nibFaultCount : Nat := 0x0703
/-- `nib.ecc_corr_count` (R189). -/
abbrev nibEccCorrCount : Nat := 0x0704
/-- `nib.tiles_done` (R189). -/
abbrev nibTilesDone : Nat := 0x0705
/-- `nib.wout_ignored` (R189). -/
abbrev nibWoutIgnored : Nat := 0x0706
/-- `nib.util` (R189). -/
abbrev nibUtil : Nat := 0x0707
/-- `nib.stream_slot` (R189). -/
abbrev nibStreamSlot : Nat := 0x0710
/-- `nib.web_slot` (R189). -/
abbrev nibWebSlot : Nat := 0x0711
/-- `nib.slot_state` (R189). -/
abbrev nibSlotState : Nat := 0x0718
/-- `nib.slot_digest` (R189). -/
abbrev nibSlotDigest : Nat := 0x0719
/-- `nib.slot_budget` (R189). -/
abbrev nibSlotBudget : Nat := 0x071A
/-- `nib.arg` (R189). -/
abbrev nibArg : Nat := 0x071B
/-- `nib.hang_us` (R189). -/
abbrev nibHangUs : Nat := 0x0720
/-- `nib.fault_limit` (R189). -/
abbrev nibFaultLimit : Nat := 0x0721
/-- `nib.fault_window_ms` (R189). -/
abbrev nibFaultWindowMs : Nat := 0x0722
/-- `eph.folio_mib` (R217). -/
abbrev ephFolioMib : Nat := 0x0800
/-- `eph.folio_used` (R217). -/
abbrev ephFolioUsed : Nat := 0x0801
/-- `eph.folio_peak` (R217). -/
abbrev ephFolioPeak : Nat := 0x0802
/-- `eph.slots_used` (R217). -/
abbrev ephSlotsUsed : Nat := 0x0803
/-- `eph.state` (R217). -/
abbrev ephState : Nat := 0x0804
/-- `eph.tile_w` (R217). -/
abbrev ephTileW : Nat := 0x0808
/-- `eph.tile_h` (R217). -/
abbrev ephTileH : Nat := 0x0809
/-- `eph.next_seq` (R217). -/
abbrev ephNextSeq : Nat := 0x080A
/-- `eph.commit_seq` (R217). -/
abbrev ephCommitSeq : Nat := 0x080B
/-- `eph.inflight` (R217). -/
abbrev ephInflight : Nat := 0x080C
/-- `eph.tile_timeout_us` (R217). -/
abbrev ephTileTimeoutUs : Nat := 0x0810
/-- `eph.replay_limit` (R217). -/
abbrev ephReplayLimit : Nat := 0x0811
/-- `eph.replay_count` (R217). -/
abbrev ephReplayCount : Nat := 0x0818
/-- `eph.gap_count` (R217). -/
abbrev ephGapCount : Nat := 0x0819
/-- `eph.revoke_count` (R217). -/
abbrev ephRevokeCount : Nat := 0x081A
/-- `eph.fault_commit_count` (R217). -/
abbrev ephFaultCommitCount : Nat := 0x081B
/-- `eph.slot_stall_count` (R217). -/
abbrev ephSlotStallCount : Nat := 0x0820
/-- `eph.folio_stall_count` (R217). -/
abbrev ephFolioStallCount : Nat := 0x0821
/-- `eph.late_done_count` (R217). -/
abbrev ephLateDoneCount : Nat := 0x0822
/-- `eph.ledger_reclaim_count` (R217). -/
abbrev ephLedgerReclaimCount : Nat := 0x0823
/-- `eph.domain_reset_count` (R217). -/
abbrev ephDomainResetCount : Nat := 0x0824
/-- `lig.member` (R245). -/
abbrev ligMember : Nat := 0x0900
/-- `lig.x_off` (R245). -/
abbrev ligXOff : Nat := 0x0901
/-- `lig.y_off` (R245). -/
abbrev ligYOff : Nat := 0x0902
/-- `lig.x_tc` (R245). -/
abbrev ligXTc : Nat := 0x0903
/-- `lig.t_ref` (R245). -/
abbrev ligTRef : Nat := 0x0904
/-- `lig.x_used` (R245). -/
abbrev ligXUsed : Nat := 0x0905
/-- `lig.seam` (R245). -/
abbrev ligSeam : Nat := 0x0906
/-- `lig.blend` (R245). -/
abbrev ligBlend : Nat := 0x0907
/-- `lig.blend_px` (R245). -/
abbrev ligBlendPx : Nat := 0x0908
/-- `lig.width` (R245). -/
abbrev ligWidth : Nat := 0x0909
/-- `lig.fill` (R245). -/
abbrev ligFill : Nat := 0x090A
/-- `lig.frame.length` (R245). -/
abbrev ligFrameLength : Nat := 0x090B
/-- `lig.frame.origin` (R245). -/
abbrev ligFrameOrigin : Nat := 0x090C
/-- `lig.ring_lines` (R245). -/
abbrev ligRingLines : Nat := 0x090D
/-- `lig.seam_rec` (R245). -/
abbrev ligSeamRec : Nat := 0x090E
/-- `lig.state` (R245). -/
abbrev ligState : Nat := 0x090F
/-- `lig.mem_used` (R245). -/
abbrev ligMemUsed : Nat := 0x0910
/-- `lig.drop_count` (R245). -/
abbrev ligDropCount : Nat := 0x0911
/-- `span.role` (R245). -/
abbrev spanRole : Nat := 0x0920
/-- `span.member_id` (R245). -/
abbrev spanMemberId : Nat := 0x0921
/-- `span.priority` (R245). -/
abbrev spanPriority : Nat := 0x0922
/-- `span.axis_mask` (R245). -/
abbrev spanAxisMask : Nat := 0x0923
/-- `span.loss_us` (R245). -/
abbrev spanLossUs : Nat := 0x0924
/-- `span.state` (R245). -/
abbrev spanState : Nat := 0x0925
/-- `span.leader_id` (R245). -/
abbrev spanLeaderId : Nat := 0x0926
/-- `span.epoch` (R245). -/
abbrev spanEpoch : Nat := 0x0927
/-- `span.hop` (R245). -/
abbrev spanHop : Nat := 0x0928
/-- `span.dir` (R245). -/
abbrev spanDir : Nat := 0x0929
/-- `span.ring` (R245). -/
abbrev spanRing : Nat := 0x092A
/-- `span.hop_delay_ps` (R245). -/
abbrev spanHopDelayPs : Nat := 0x092B
/-- `span.tb_err_ps` (R245). -/
abbrev spanTbErrPs : Nat := 0x092C
/-- `span.ref_src` (R245). -/
abbrev spanRefSrc : Nat := 0x092D
/-- `span.conflict` (R245). -/
abbrev spanConflict : Nat := 0x092E
/-- `span.crc_err_count` (R245). -/
abbrev spanCrcErrCount : Nat := 0x092F
/-- `span.switch_count` (R245). -/
abbrev spanSwitchCount : Nat := 0x0930
/-- `mem.scrub.period_s` (R269). -/
abbrev memScrubPeriodS : Nat := 0x0A00
/-- `mem.scrub.passes` (R269). -/
abbrev memScrubPasses : Nat := 0x0A01
/-- `mem.free_bytes` (R269). -/
abbrev memFreeBytes : Nat := 0x0A02
/-- `mem.bank.corr_count` (R269). -/
abbrev memBankCorrCount : Nat := 0x0A08
/-- `mem.bank.uncorr_count` (R269). -/
abbrev memBankUncorrCount : Nat := 0x0A09
/-- `mem.bank.poisoned` (R269). -/
abbrev memBankPoisoned : Nat := 0x0A0A
/-- `mem.bank.last_uncorr` (R269). -/
abbrev memBankLastUncorr : Nat := 0x0A0B
/-- `mem.bank.util` (R269). -/
abbrev memBankUtil : Nat := 0x0A0C
/-- `mem.priv.corr_count` (R269). -/
abbrev memPrivCorrCount : Nat := 0x0A0D
/-- `mem.priv.uncorr_count` (R269). -/
abbrev memPrivUncorrCount : Nat := 0x0A0E
/-- `q.form` (R269). -/
abbrev qForm : Nat := 0x0A20
/-- `q.size_log2` (R269). -/
abbrev qSizeLog2 : Nat := 0x0A21
/-- `q.watermark` (R269). -/
abbrev qWatermark : Nat := 0x0A22
/-- `q.wm_irq` (R269). -/
abbrev qWmIrq : Nat := 0x0A23
/-- `q.cut_thru` (R269). -/
abbrev qCutThru : Nat := 0x0A24
/-- `q.level` (R269). -/
abbrev qLevel : Nat := 0x0A25
/-- `q.peak` (R269). -/
abbrev qPeak : Nat := 0x0A26
/-- `q.status` (R269). -/
abbrev qStatus : Nat := 0x0A27
/-- `q.events` (R269). -/
abbrev qEvents : Nat := 0x0A28
/-- `q.wm_cross_count` (R269). -/
abbrev qWmCrossCount : Nat := 0x0A29
/-- `q.corr_count` (R269). -/
abbrev qCorrCount : Nat := 0x0A2A
/-- `q.uncorr_count` (R269). -/
abbrev qUncorrCount : Nat := 0x0A2B
/-- `q.drop_count` (R269). -/
abbrev qDropCount : Nat := 0x0A2C
/-- `q.oversize_count` (R269). -/
abbrev qOversizeCount : Nat := 0x0A2D
/-- `q.flush_count` (R269). -/
abbrev qFlushCount : Nat := 0x0A2E
/-- `q.torn_count` (R269). -/
abbrev qTornCount : Nat := 0x0A2F
/-- `quill.src` (R301). -/
abbrev quillSrc : Nat := 0x0B00
/-- `quill.form` (R301). -/
abbrev quillForm : Nat := 0x0B01
/-- `quill.meta_chan` (R301). -/
abbrev quillMetaChan : Nat := 0x0B02
/-- `quill.rate` (R301). -/
abbrev quillRate : Nat := 0x0B03
/-- `quill.nosnoop` (R301). -/
abbrev quillNosnoop : Nat := 0x0B04
/-- `quill.state` (R301). -/
abbrev quillState : Nat := 0x0B05
/-- `quill.cur_desc` (R301). -/
abbrev quillCurDesc : Nat := 0x0B06
/-- `quill.bytes` (R301). -/
abbrev quillBytes : Nat := 0x0B07
/-- `quill.bad_count` (R301). -/
abbrev quillBadCount : Nat := 0x0B08
/-- `quill.bus_err_count` (R301). -/
abbrev quillBusErrCount : Nat := 0x0B09
/-- `quill.trunc_count` (R301). -/
abbrev quillTruncCount : Nat := 0x0B0A
/-- `quill.poison_count` (R301). -/
abbrev quillPoisonCount : Nat := 0x0B0B
/-- `quill.torn_count` (R301). -/
abbrev quillTornCount : Nat := 0x0B0C
/-- `quill.link_mbps` (R301). -/
abbrev quillLinkMbps : Nat := 0x0B10
/-- `quill.mps` (R301). -/
abbrev quillMps : Nat := 0x0B11
/-- `dux.src` (R315). -/
abbrev duxSrc : Nat := 0x0C00
/-- `dux.div` (R315). -/
abbrev duxDiv : Nat := 0x0C01
/-- `dux.owner` (R315). -/
abbrev duxOwner : Nat := 0x0C02
/-- `dux.secure` (R315). -/
abbrev duxSecure : Nat := 0x0C03
/-- `dux.class` (R315). -/
abbrev duxClass : Nat := 0x0C04
/-- `dux.fire` (R315). -/
abbrev duxFire : Nat := 0x0C05
/-- `dux.fired_count` (R315). -/
abbrev duxFiredCount : Nat := 0x0C06
/-- `dux.loop_count` (R315). -/
abbrev duxLoopCount : Nat := 0x0C07
/-- `dux.hev_src` (R315). -/
abbrev duxHevSrc : Nat := 0x0C08
/-- `dux.tap_arm` (R315). -/
abbrev duxTapArm : Nat := 0x0C09
/-- `dux.sink_ignored` (R315). -/
abbrev duxSinkIgnored : Nat := 0x0C0A
/-- `pwr.rail_policy` (R361). -/
abbrev pwrRailPolicy : Nat := 0x0D00
/-- `pwr.rail_fixed_mv` (R361). -/
abbrev pwrRailFixedMv : Nat := 0x0D01
/-- `pwr.rail_mv` (R361). -/
abbrev pwrRailMv : Nat := 0x0D02
/-- `pwr.speed_index` (R361). -/
abbrev pwrSpeedIndex : Nat := 0x0D03
/-- `pace.droop_mv` (R361). -/
abbrev paceDroopMv : Nat := 0x0D10
/-- `pace.ceiling` (R361). -/
abbrev paceCeiling : Nat := 0x0D11
/-- `pace.level` (R361). -/
abbrev paceLevel : Nat := 0x0D12
/-- `pace.trip_count` (R361). -/
abbrev paceTripCount : Nat := 0x0D13
/-- `pace.min_mv` (R361). -/
abbrev paceMinMv : Nat := 0x0D14
/-- `pwr.state` (R381). -/
abbrev pwrState : Nat := 0x0D20
/-- `pwr.target` (R381). -/
abbrev pwrTarget : Nat := 0x0D21
/-- `pwr.wake_fi` (R381). -/
abbrev pwrWakeFi : Nat := 0x0D22
/-- `sec.lc` (R396). -/
abbrev secLc : Nat := 0x0E00
/-- `sec.lc_pending` (R396). -/
abbrev secLcPending : Nat := 0x0E01
/-- `sec.owner_keys` (R396). -/
abbrev secOwnerKeys : Nat := 0x0E02
/-- `sec.svn_fused` (R396). -/
abbrev secSvnFused : Nat := 0x0E03
/-- `sec.svn_running` (R396). -/
abbrev secSvnRunning : Nat := 0x0E04
/-- `sec.fw_auth` (R396). -/
abbrev secFwAuth : Nat := 0x0E05
/-- `sec.debug_grant` (R396). -/
abbrev secDebugGrant : Nat := 0x0E06
/-- `sec.grant_source` (R396). -/
abbrev secGrantSource : Nat := 0x0E07
/-- `sec.grant_remaining_s` (R396). -/
abbrev secGrantRemainingS : Nat := 0x0E08
/-- `sec.debug_active` (R396). -/
abbrev secDebugActive : Nat := 0x0E09
/-- `sec.unlock_fail_count` (R396). -/
abbrev secUnlockFailCount : Nat := 0x0E0A
/-- `alm.time_s` (R410). -/
abbrev almTimeS : Nat := 0x0F00
/-- `alm.temp` (R410). -/
abbrev almTemp : Nat := 0x0F01
/-- `alm.temp_max` (R410). -/
abbrev almTempMax : Nat := 0x0F02
/-- `alm.temp_warn` (R410). -/
abbrev almTempWarn : Nat := 0x0F03
/-- `alm.temp_crit` (R410). -/
abbrev almTempCrit : Nat := 0x0F04
/-- `alm.vin_mv` (R410). -/
abbrev almVinMv : Nat := 0x0F05
/-- `alm.vfield_mv` (R410). -/
abbrev almVfieldMv : Nat := 0x0F06
/-- `alm.rail_meas_mv` (R410). -/
abbrev almRailMeasMv : Nat := 0x0F07
/-- `alm.supply_status` (R410). -/
abbrev almSupplyStatus : Nat := 0x0F08
/-- `alm.lane.eye_h_mv` (R410). -/
abbrev almLaneEyeHMv : Nat := 0x0F10
/-- `alm.lane.eye_w` (R410). -/
abbrev almLaneEyeW : Nat := 0x0F11
/-- `alm.lane.margin_warn_mv` (R410). -/
abbrev almLaneMarginWarnMv : Nat := 0x0F12
/-- `alm.wd.scribe_ms` (R410). -/
abbrev almWdScribeMs : Nat := 0x0F18
/-- `alm.wd.count` (R410). -/
abbrev almWdCount : Nat := 0x0F19
/-- `alm.fw.slot_state` (R410). -/
abbrev almFwSlotState : Nat := 0x0F20
/-- `alm.fw.slot_version` (R410). -/
abbrev almFwSlotVersion : Nat := 0x0F21
/-- `alm.fw.preferred` (R410). -/
abbrev almFwPreferred : Nat := 0x0F22
/-- `alm.fw.trial` (R410). -/
abbrev almFwTrial : Nat := 0x0F23
/-- `alm.fw.trial_s` (R410). -/
abbrev almFwTrialS : Nat := 0x0F24
/-- `alm.fw.stage_counter` (R410). -/
abbrev almFwStageCounter : Nat := 0x0F25
/-- `alm.store.state` (R410). -/
abbrev almStoreState : Nat := 0x0F28
/-- `alm.log.next_seq` (R410). -/
abbrev almLogNextSeq : Nat := 0x0F30
/-- `alm.log.oldest_seq` (R410). -/
abbrev almLogOldestSeq : Nat := 0x0F31
/-- `alm.log.suppressed` (R410). -/
abbrev almLogSuppressed : Nat := 0x0F32

end P

/-! The labels of the enum parameters, each its position in the Range column (R328). -/
namespace E.rstLastCause
abbrev POWER_ON : Nat := 0
abbrev SYS_RST : Nat := 1
abbrev BROWNOUT : Nat := 2
abbrev ALMANAC_COLD : Nat := 3
abbrev ALMANAC_WARM : Nat := 4
abbrev PERST : Nat := 5
abbrev WATCHDOG : Nat := 6
abbrev POISON : Nat := 7
abbrev VIN_LOW : Nat := 8
end E.rstLastCause

namespace E.laneMode
abbrev OFF : Nat := 0
abbrev LINK : Nat := 1
end E.laneMode

namespace E.laneRate
abbrev FULL : Nat := 0
abbrev HALF : Nat := 1
abbrev AUTO : Nat := 2
end E.laneRate

namespace E.laneLoop
abbrev NONE : Nat := 0
abbrev NES : Nat := 1
abbrev NEP : Nat := 2
abbrev FAR : Nat := 3
end E.laneLoop

namespace E.lanePattern
abbrev PRBS31 : Nat := 0
abbrev PACKETS : Nat := 1
end E.lanePattern

namespace E.laneState
abbrev OFF : Nat := 0
abbrev TRAINING : Nat := 1
abbrev BACKOFF : Nat := 2
abbrev ABSENT : Nat := 3
abbrev UP : Nat := 4
abbrev RETRAIN : Nat := 5
abbrev EI : Nat := 6
abbrev SLEEP : Nat := 7
abbrev LOOP : Nat := 8
abbrev WAIT_LOCK : Nat := 9
end E.laneState

namespace E.laneLastFail
abbrev NONE : Nat := 0
abbrev TIMEOUT : Nat := 1
abbrev WIDTH : Nat := 2
abbrev PROTO : Nat := 3
abbrev LOCK_LOSS : Nat := 4
end E.laneLastFail

namespace E.headState
abbrev NONE : Nat := 0
abbrev UP : Nat := 1
abbrev HEAD_FAULT : Nat := 2
end E.headState

namespace E.posEncStandard
abbrev OFF : Nat := 0
abbrev RS422 : Nat := 1
abbrev HTL : Nat := 2
abbrev TTL : Nat := 3
end E.posEncStandard

namespace E.posAxisMethod
abbrev MEAN : Nat := 0
abbrev MEDIAN3 : Nat := 1
abbrev PRIMARY_CHECK : Nat := 2
end E.posAxisMethod

namespace E.posAxisDir
abbrev POS : Nat := 0
abbrev NEG : Nat := 1
end E.posAxisDir

namespace E.trigMode
abbrev OFF : Nat := 0
abbrev POSITION : Nat := 1
abbrev TIME : Nat := 2
abbrev FREE : Nat := 3
abbrev INPUT : Nat := 4
end E.trigMode

namespace E.trigRearm
abbrev NONE : Nat := 0
abbrev ON_REVERSAL : Nat := 1
end E.trigRearm

namespace E.fiPolarity
abbrev HIGH : Nat := 0
abbrev LOW : Nat := 1
end E.fiPolarity

namespace E.fiEvent
abbrev NONE : Nat := 0
abbrev RISE : Nat := 1
abbrev FALL : Nat := 2
abbrev BOTH : Nat := 3
end E.fiEvent

namespace E.foElectrical
abbrev PUSHPULL : Nat := 0
abbrev DIFF : Nat := 1
end E.foElectrical

namespace E.foFunction
abbrev OFF : Nat := 0
abbrev LEVEL : Nat := 1
abbrev MARKER : Nat := 2
abbrev STROBE : Nat := 3
abbrev EVENT : Nat := 4
end E.foFunction

namespace E.foState
abbrev HELD_OFF : Nat := 0
abbrev HOLDING : Nat := 1
abbrev RELEASED : Nat := 2
abbrev NO_SUPPLY : Nat := 3
end E.foState

namespace E.merSealState
abbrev UNSEALED : Nat := 0
abbrev ADJUSTING : Nat := 1
abbrev SEALED : Nat := 2
end E.merSealState

namespace E.merLenMode
abbrev OFF : Nat := 0
abbrev SHEET : Nat := 1
abbrev COIL : Nat := 2
abbrev INTERVAL : Nat := 3
end E.merLenMode

namespace E.merLenPolarity
abbrev HIGH : Nat := 0
abbrev LOW : Nat := 1
end E.merLenPolarity

namespace E.merQuadState
abbrev NONE : Nat := 0
abbrev ATTESTED : Nat := 1
abbrev QUAD_UNATTESTED : Nat := 2
end E.merQuadState

namespace E.plateFrameMode
abbrev AREA : Nat := 0
abbrev LINES : Nat := 1
abbrev POSITION : Nat := 2
end E.plateFrameMode

namespace E.plateState
abbrev STOPPED : Nat := 0
abbrev RUNNING : Nat := 1
abbrev HELD : Nat := 2
end E.plateState

namespace E.plateFfMode
abbrev OFF : Nat := 0
abbrev COLUMN : Nat := 1
abbrev PIXEL : Nat := 2
end E.plateFfMode

namespace E.plateCfaPattern
abbrev MONO : Nat := 0
abbrev BAYER : Nat := 1
abbrev RCCB : Nat := 2
abbrev RGBW : Nat := 3
abbrev RGBIR : Nat := 4
abbrev CLEAR_IR : Nat := 5
end E.plateCfaPattern

namespace E.plateTapPoint
abbrev NONE : Nat := 0
abbrev TP_IN : Nat := 1
abbrev TP_BLACK : Nat := 2
abbrev TP_DEFECT : Nat := 3
abbrev TP_FLAT : Nat := 4
abbrev TP_MOSAIC : Nat := 5
abbrev TP_OUT : Nat := 6
end E.plateTapPoint

namespace E.plateStatsPoint
abbrev OFF : Nat := 0
abbrev TP_BLACK : Nat := 1
abbrev TP_FLAT : Nat := 2
abbrev TP_OUT : Nat := 3
end E.plateStatsPoint

namespace E.nibState
abbrev PARKED : Nat := 0
abbrev LOADING : Nat := 1
abbrev IDLE : Nat := 2
abbrev BUSY : Nat := 3
abbrev FAULTED : Nat := 4
abbrev FENCED : Nat := 5
end E.nibState

namespace E.nibLastFault
abbrev NONE : Nat := 0
abbrev ACCESS : Nat := 1
abbrev STACK : Nat := 2
abbrev BUDGET : Nat := 3
abbrev POOL_FENCED : Nat := 4
abbrev ECC : Nat := 5
abbrev HANG : Nat := 6
abbrev SELFTEST : Nat := 7
end E.nibLastFault

namespace E.nibSlotState
abbrev EMPTY : Nat := 0
abbrev LOADED : Nat := 1
abbrev PENDING : Nat := 2
end E.nibSlotState

namespace E.ephState
abbrev RUNNING : Nat := 0
abbrev RESETTING : Nat := 1
end E.ephState

namespace E.ligBlend
abbrev HARD : Nat := 0
abbrev RAMP : Nat := 1
end E.ligBlend

namespace E.ligState
abbrev STOPPED : Nat := 0
abbrev RUNNING : Nat := 1
abbrev HELD : Nat := 2
end E.ligState

namespace E.spanRole
abbrev FOLLOWER : Nat := 0
abbrev CANDIDATE : Nat := 1
abbrev LEADER : Nat := 2
end E.spanRole

namespace E.spanState
abbrev OFF : Nat := 0
abbrev SEARCH : Nat := 1
abbrev LOCKING : Nat := 2
abbrev LOCKED : Nat := 3
abbrev LEADING : Nat := 4
abbrev LOST : Nat := 5
end E.spanState

namespace E.spanDir
abbrev PRIMARY : Nat := 0
abbrev REDUNDANT : Nat := 1
end E.spanDir

namespace E.spanRing
abbrev CLOSED : Nat := 0
abbrev BROKEN : Nat := 1
end E.spanRing

namespace E.spanRefSrc
abbrev MEMS : Nat := 0
abbrev EXT : Nat := 1
abbrev PORT_A : Nat := 2
abbrev PORT_B : Nat := 3
end E.spanRefSrc

namespace E.qForm
abbrev CIRCULAR : Nat := 0
abbrev PINGPONG : Nat := 1
end E.qForm

namespace E.quillForm
abbrev PACK : Nat := 0
abbrev IMAGE : Nat := 1
end E.quillForm

namespace E.quillState
abbrev IDLE : Nat := 0
abbrev RUN : Nat := 1
abbrev TAIL_WAIT : Nat := 2
abbrev STOPPING : Nat := 3
abbrev STOPPED : Nat := 4
abbrev FETCH_ERROR : Nat := 5
abbrev HELD : Nat := 6
end E.quillState

namespace E.duxOwner
abbrev SCRIBE : Nat := 0
abbrev ALMANAC : Nat := 1
abbrev MERIDIAN : Nat := 2
abbrev HOST : Nat := 3
end E.duxOwner

namespace E.duxClass
abbrev POS : Nat := 0
abbrev ASYNC : Nat := 1
end E.duxClass

namespace E.pwrRailPolicy
abbrev AUTO : Nat := 0
abbrev FIXED : Nat := 1
end E.pwrRailPolicy

namespace E.pwrState
abbrev P0 : Nat := 0
abbrev P1 : Nat := 1
abbrev P2 : Nat := 2
abbrev P3 : Nat := 3
abbrev P4 : Nat := 4
end E.pwrState

namespace E.pwrTarget
abbrev P0 : Nat := 0
abbrev P3 : Nat := 1
abbrev P4 : Nat := 2
end E.pwrTarget

namespace E.secLc
abbrev BLANK : Nat := 0
abbrev OPEN : Nat := 1
abbrev FIELDED : Nat := 2
abbrev LOCKED : Nat := 3
abbrev RETIRED : Nat := 4
end E.secLc

namespace E.secLcPending
abbrev BLANK : Nat := 0
abbrev OPEN : Nat := 1
abbrev FIELDED : Nat := 2
abbrev LOCKED : Nat := 3
abbrev RETIRED : Nat := 4
end E.secLcPending

namespace E.secFwAuth
abbrev NONE : Nat := 0
abbrev VENDOR : Nat := 1
end E.secFwAuth

namespace E.secDebugGrant
abbrev D0 : Nat := 0
abbrev D1 : Nat := 1
abbrev D2 : Nat := 2
abbrev D3 : Nat := 3
end E.secDebugGrant

namespace E.secGrantSource
abbrev LIFECYCLE : Nat := 0
abbrev OWNER : Nat := 1
abbrev VENDOR : Nat := 2
end E.secGrantSource

namespace E.secDebugActive
abbrev D0 : Nat := 0
abbrev D1 : Nat := 1
abbrev D2 : Nat := 2
abbrev D3 : Nat := 3
end E.secDebugActive

namespace E.almFwSlotState
abbrev EMPTY : Nat := 0
abbrev VALID : Nat := 1
abbrev STAGING : Nat := 2
abbrev BAD : Nat := 3
end E.almFwSlotState

namespace E.almFwPreferred
abbrev A : Nat := 0
abbrev B : Nat := 1
end E.almFwPreferred

namespace E.almStoreState
abbrev EMPTY : Nat := 0
abbrev WRITING : Nat := 1
abbrev VALID : Nat := 2
end E.almStoreState

def rows01a : List PRow :=
  [⟨P.modeWord, "mode.word", 1, 1, .u 32, [(0, 4095)], 1, 0, .ro, .none, .none⟩,
   ⟨P.modePending, "mode.pending", 1, 1, .u 32, [(0, 4095)], 1, 0, .ro, .none, .none⟩,
   ⟨P.modeQuietParkUs, "mode.quiet_park_us", 1, 1, .u 16, [(10, 65535)], 1, 100, .rw, .imm, .none⟩,
   ⟨P.modeChangeCount, "mode.change_count", 1, 1, .u 32, [], 1, 0, .ro, .none, .wrap⟩,
   ⟨P.ctlTimeoutDefaultUs, "ctl.timeout_default_us", 1, 1, .u 32, [(1, 4294967294)], 1, 100000, .rw, .imm, .none⟩,
   ⟨P.ctlLateDoneCount, "ctl.late_done_count", 1, 1, .u 16, [], 1, 0, .rc, .none, .sat⟩,
   ⟨P.ctlMbBusyCount, "ctl.mb_busy_count", 20, 1, .u 16, [], 1, 0, .rc, .none, .sat⟩,
   ⟨P.ctlCmdCount, "ctl.cmd_count", 20, 1, .u 32, [], 1, 0, .ro, .none, .wrap⟩,
   ⟨P.ctlTimeoutCount, "ctl.timeout_count", 20, 1, .u 16, [], 1, 0, .rc, .none, .sat⟩,
   ⟨P.rstLastCause, "rst.last_cause", 1, 1, .enum [0, 1, 2, 3, 4, 5, 6, 7, 8], [], 1, 0, .ro, .none, .none⟩,
   ⟨P.rstBootSel, "rst.boot_sel", 1, 1, .u 8, [(0, 3)], 1, 0, .ro, .none, .none⟩,
   ⟨P.rstRefSel, "rst.ref_sel", 1, 1, .u 8, [(0, 3)], 1, 0, .ro, .none, .none⟩,
   ⟨P.rstRefFallback, "rst.ref_fallback", 1, 1, .bool, [], 1, 0, .ro, .none, .none⟩,
   ⟨P.rstBootFallbackCount, "rst.boot_fallback_count", 1, 1, .u 16, [], 1, 0, .rc, .none, .sat⟩,
   ⟨P.rstLaneForce, "rst.lane_force", 4, 1, .bool, [], 1, 0, .rw, .imm, .none⟩,
   ⟨P.rstWaitLockDiscard, "rst.wait_lock_discard", 4, 1, .u 32, [], 1, 0, .rc, .none, .sat⟩,
   ⟨P.rstWarmCount, "rst.warm_count", 1, 1, .u 16, [], 1, 0, .ro, .none, .sat⟩]

def rows02a : List PRow :=
  [⟨P.laneMode, "lane.mode", 32, 1, .enum [0, 1], [], 1, 0, .rw, .imm, .none⟩,
   ⟨P.laneWidth, "lane.width", 32, 1, .enum [1, 2, 4, 8], [], 1, 1, .rw, .imm, .none⟩,
   ⟨P.laneRate, "lane.rate", 32, 1, .enum [0, 1, 2], [], 1, 0, .rw, .imm, .none⟩,
   ⟨P.lanePrecodeRx, "lane.precode_rx", 32, 1, .bool, [], 1, 1, .rw, .imm, .none⟩,
   ⟨P.lanePrecodeTx, "lane.precode_tx", 32, 1, .bool, [], 1, 0, .ro, .none, .none⟩,
   ⟨P.laneEqCtleBoost, "lane.eq.ctle_boost", 32, 1, .u 8, [(0, 15)], 1, 0, .ro, .none, .none⟩,
   ⟨P.laneEqDriftGuard, "lane.eq.drift_guard", 32, 1, .u 8, [(1, 63)], 1, 4, .rw, .imm, .none⟩,
   ⟨P.laneFecRetrainThresh, "lane.fec.retrain_thresh", 32, 1, .u 32, [(1, 4294967295)], 1, 100000, .rw, .imm, .none⟩,
   ⟨P.laneIdleEiUs, "lane.idle_ei_us", 32, 1, .u 16, [(0, 65535)], 1, 0, .rw, .imm, .none⟩,
   ⟨P.laneLoop, "lane.loop", 32, 1, .enum [0, 1, 2, 3], [], 1, 0, .rw, .imm, .none⟩,
   ⟨P.lanePattern, "lane.pattern", 32, 1, .enum [0, 1], [], 1, 0, .rw, .imm, .none⟩,
   ⟨P.laneEmuChannels, "lane.emu_channels", 32, 1, .u 8, [(1, 8)], 1, 1, .rw, .imm, .none⟩,
   ⟨P.laneEmuWidth, "lane.emu_width", 32, 1, .u 16, [(64, 32768)], 1, 8192, .rw, .imm, .none⟩,
   ⟨P.laneState, "lane.state", 32, 1, .enum [0, 1, 2, 3, 4, 5, 6, 7, 8, 9], [], 1, 0, .ro, .none, .none⟩,
   ⟨P.laneAttempt, "lane.attempt", 32, 1, .u 8, [(0, 8)], 1, 0, .ro, .none, .none⟩,
   ⟨P.laneLastFail, "lane.last_fail", 32, 1, .enum [0, 1, 2, 3, 4], [], 1, 0, .ro, .none, .none⟩,
   ⟨P.laneFecCorrCount, "lane.fec_corr_count", 32, 1, .u 16, [], 1, 0, .rc, .none, .sat⟩,
   ⟨P.laneFecUncorrCount, "lane.fec_uncorr_count", 32, 1, .u 16, [], 1, 0, .rc, .none, .sat⟩,
   ⟨P.laneCtlErrCount, "lane.ctl_err_count", 32, 1, .u 16, [], 1, 0, .rc, .none, .sat⟩,
   ⟨P.laneRetrainCount, "lane.retrain_count", 32, 1, .u 16, [], 1, 0, .rc, .none, .sat⟩,
   ⟨P.laneRetrainFailCount, "lane.retrain_fail_count", 32, 1, .u 16, [], 1, 0, .rc, .none, .sat⟩,
   ⟨P.lanePrbsErrCount, "lane.prbs_err_count", 32, 1, .u 32, [], 1, 0, .rc, .none, .sat⟩]

def rows03a : List PRow :=
  [⟨P.headState, "head.state", 32, 1, .enum [0, 1, 2], [], 1, 0, .ro, .none, .none⟩,
   ⟨P.headInfo, "head.info", 32, 8, .u 64, [], 1, 0, .ro, .none, .none⟩,
   ⟨P.headDelayPs, "head.delay_ps", 32, 1, .u 32, [], 1, 0, .ro, .none, .none⟩,
   ⟨P.headAckTimeoutUs, "head.ack_timeout_us", 32, 1, .u 16, [(100, 10000)], 1, 200, .rw, .imm, .none⟩,
   ⟨P.headTemp, "head.temp", 32, 1, .s 16, [], 1, 0, .ro, .none, .none⟩,
   ⟨P.headFault, "head.fault", 32, 1, .u 16, [], 1, 0, .ro, .none, .none⟩,
   ⟨P.headCrcErrCount, "head.crc_err_count", 32, 1, .u 16, [], 1, 0, .rc, .none, .sat⟩,
   ⟨P.headSeqGapCount, "head.seq_gap_count", 32, 1, .u 16, [], 1, 0, .rc, .none, .sat⟩,
   ⟨P.headUnknownCount, "head.unknown_count", 32, 1, .u 16, [], 1, 0, .rc, .none, .sat⟩,
   ⟨P.headDupAckCount, "head.dup_ack_count", 32, 1, .u 16, [], 1, 0, .rc, .none, .sat⟩,
   ⟨P.headUnboundCount, "head.unbound_count", 32, 1, .u 32, [], 1, 0, .rc, .none, .sat⟩,
   ⟨P.headLateExposureCount, "head.late_exposure_count", 32, 1, .u 16, [], 1, 0, .rc, .none, .sat⟩]

def rows04a : List PRow :=
  [⟨P.posEncStandard, "pos.enc.standard", 8, 1, .enum [0, 1, 2, 3], [], 1, 0, .rw, .imm, .none⟩,
   ⟨P.posEncFilterNs, "pos.enc.filter_ns", 8, 1, .u 16, [(0, 1000)], 1, 5, .rw, .imm, .none⟩,
   ⟨P.posEncInvert, "pos.enc.invert", 8, 1, .u 8, [(0, 7)], 1, 0, .rw, .imm, .none⟩,
   ⟨P.posEncSwapAb, "pos.enc.swap_ab", 8, 1, .bool, [], 1, 0, .rw, .imm, .none⟩,
   ⟨P.posEncZPeriod, "pos.enc.z_period", 8, 1, .u 32, [(0, 4294967295)], 1, 0, .rw, .imm, .none⟩,
   ⟨P.posEncZTol, "pos.enc.z_tol", 8, 1, .u 16, [(0, 65535)], 1, 4, .rw, .imm, .none⟩,
   ⟨P.posEncRatioNum, "pos.enc.ratio_num", 8, 1, .u 32, [(1, 4294967295)], 1, 1, .rw, .imm, .none⟩,
   ⟨P.posEncRatioDen, "pos.enc.ratio_den", 8, 1, .u 32, [(1, 4294967295)], 1, 1, .rw, .imm, .none⟩,
   ⟨P.posEncCount, "pos.enc.count", 8, 1, .fix 48 16, [], 1, 0, .ro, .none, .none⟩,
   ⟨P.posEncQerrCount, "pos.enc.qerr_count", 8, 1, .u 16, [], 1, 0, .rc, .none, .sat⟩,
   ⟨P.posEncStatus, "pos.enc.status", 8, 1, .u 8, [], 1, 0, .ro, .none, .none⟩,
   ⟨P.posAxisMembers, "pos.axis.members", 4, 1, .u 8, [(0, 255)], 1, 0, .rw, .imm, .none⟩,
   ⟨P.posAxisMethod, "pos.axis.method", 4, 1, .enum [0, 1, 2], [], 1, 2, .rw, .imm, .none⟩,
   ⟨P.posAxisPrimary, "pos.axis.primary", 4, 1, .u 8, [(0, 7)], 1, 0, .rw, .imm, .none⟩,
   ⟨P.posAxisTol, "pos.axis.tol", 4, 1, .u 32, [(1, 4294967295)], 1, 64, .rw, .imm, .none⟩,
   ⟨P.posAxisTolSpan, "pos.axis.tol_span", 4, 1, .u 32, [(1024, 4294967295)], 1, 65536, .rw, .imm, .none⟩,
   ⟨P.posAxisDir, "pos.axis.dir", 4, 1, .enum [0, 1], [], 1, 0, .rw, .imm, .none⟩,
   ⟨P.posAxisRevHyst, "pos.axis.rev_hyst", 4, 1, .u 16, [(1, 65535)], 1, 16, .rw, .imm, .none⟩,
   ⟨P.posAxisVelWindow, "pos.axis.vel_window", 4, 1, .u 16, [(1, 1000)], 1, 16, .rw, .imm, .none⟩,
   ⟨P.posAxisScaleNum, "pos.axis.scale_num", 4, 1, .u 32, [(1, 4294967295)], 1, 1, .ro, .none, .none⟩,
   ⟨P.posAxisScaleDen, "pos.axis.scale_den", 4, 1, .u 32, [(1, 4294967295)], 1, 1, .ro, .none, .none⟩,
   ⟨P.posAxisPosition, "pos.axis.position", 4, 1, .fix 48 16, [], 1, 0, .ro, .none, .none⟩,
   ⟨P.posAxisVelocity, "pos.axis.velocity", 4, 1, .s 32, [], 1, 0, .ro, .none, .none⟩,
   ⟨P.posAxisStatus, "pos.axis.status", 4, 1, .u 8, [], 1, 0, .ro, .none, .none⟩,
   ⟨P.posAxisEvents, "pos.axis.events", 4, 1, .u 8, [], 1, 0, .w1c, .none, .none⟩,
   ⟨P.trigMode, "trig.mode", 64, 1, .enum [0, 1, 2, 3, 4], [], 1, 0, .rw, .frame, .none⟩,
   ⟨P.trigAxis, "trig.axis", 64, 1, .u 8, [(0, 3)], 1, 0, .rw, .frame, .none⟩,
   ⟨P.trigOrigin, "trig.origin", 64, 1, .fix 48 16, [], 1, 0, .rw, .frame, .none⟩,
   ⟨P.trigPitch, "trig.pitch", 64, 1, .fix 48 16, [(1, 9223372036854775807)], 1, 65536, .rw, .frame, .none⟩,
   ⟨P.trigPeriodNs, "trig.period_ns", 64, 1, .u 32, [(1000, 4294967295)], 1, 100000, .rw, .frame, .none⟩,
   ⟨P.trigInput, "trig.input", 64, 1, .u 8, [(0, 15)], 1, 0, .rw, .frame, .none⟩,
   ⟨P.trigRearm, "trig.rearm", 64, 1, .enum [0, 1], [], 1, 0, .rw, .frame, .none⟩,
   ⟨P.trigRearmHyst, "trig.rearm_hyst", 64, 1, .u 16, [(1, 65535)], 1, 16, .rw, .frame, .none⟩,
   ⟨P.trigLeadNs, "trig.lead_ns", 64, 1, .u 32, [(1000, 100000)], 1, 3000, .rw, .frame, .none⟩,
   ⟨P.trigMinIntervalNs, "trig.min_interval_ns", 64, 1, .u 32, [(0, 4294967295)], 1, 0, .rw, .frame, .none⟩,
   ⟨P.trigFiredCount, "trig.fired_count", 64, 1, .u 32, [], 1, 0, .ro, .none, .wrap⟩,
   ⟨P.trigOverrunCount, "trig.overrun_count", 64, 1, .u 16, [], 1, 0, .rc, .none, .sat⟩,
   ⟨P.trigLateCount, "trig.late_count", 64, 1, .u 16, [], 1, 0, .rc, .none, .sat⟩,
   ⟨P.trigErrMax, "trig.err_max", 64, 1, .u 32, [], 1, 0, .rc, .none, .sat⟩,
   ⟨P.fiDebounceUs, "fi.debounce_us", 16, 1, .u 16, [(0, 10000)], 1, 100, .rw, .imm, .none⟩]

def rows04b : List PRow :=
  [⟨P.fiPolarity, "fi.polarity", 16, 1, .enum [0, 1], [], 1, 0, .rw, .imm, .none⟩,
   ⟨P.fiEvent, "fi.event", 16, 1, .enum [0, 1, 2, 3], [], 1, 0, .rw, .imm, .none⟩,
   ⟨P.fiLatchAxis, "fi.latch_axis", 16, 1, .u 8, [(0, 3)], 1, 0, .rw, .imm, .none⟩,
   ⟨P.fiLatch, "fi.latch", 16, 1, .fix 48 16, [], 1, 0, .ro, .none, .none⟩,
   ⟨P.fiLevel, "fi.level", 16, 1, .bool, [], 1, 0, .ro, .none, .none⟩,
   ⟨P.foElectrical, "fo.electrical", 16, 1, .enum [0, 1], [], 1, 0, .rw, .imm, .none⟩,
   ⟨P.foFunction, "fo.function", 16, 1, .enum [0, 1, 2, 3, 4], [], 1, 0, .rw, .imm, .none⟩,
   ⟨P.foLevel, "fo.level", 16, 1, .bool, [], 1, 0, .rw, .imm, .none⟩,
   ⟨P.foSource, "fo.source", 16, 1, .u 8, [(0, 255)], 1, 0, .rw, .imm, .none⟩,
   ⟨P.foMarkerOrigin, "fo.marker_origin", 16, 1, .fix 48 16, [], 1, 0, .rw, .imm, .none⟩,
   ⟨P.foMarkerPitch, "fo.marker_pitch", 16, 1, .fix 48 16, [(0, 9223372036854775807)], 1, 0, .rw, .imm, .none⟩,
   ⟨P.foWidthNs, "fo.width_ns", 16, 1, .u 32, [(20, 4294967295)], 1, 1000, .rw, .imm, .none⟩,
   ⟨P.foDelayNs, "fo.delay_ns", 16, 1, .u 32, [(0, 1000000)], 1, 0, .rw, .imm, .none⟩,
   ⟨P.foOffLevel, "fo.off_level", 16, 1, .bool, [], 1, 0, .rw, .imm, .none⟩,
   ⟨P.foWarmHoldLimit, "fo.warm_hold_limit", 16, 1, .u 16, [(0, 1000)], 1, 50, .rw, .imm, .none⟩,
   ⟨P.foState, "fo.state", 16, 1, .enum [0, 1, 2, 3], [], 1, 0, .ro, .none, .none⟩]

def rows05a : List PRow :=
  [⟨P.merSealState, "mer.seal.state", 1, 1, .enum [0, 1, 2], [], 1, 0, .ro, .none, .none⟩,
   ⟨P.merEventCounter, "mer.event_counter", 1, 1, .u 32, [(0, 1920)], 1, 0, .ro, .none, .none⟩,
   ⟨P.merFwVersion, "mer.fw.version", 1, 1, .u 16, [], 1, 0, .ro, .none, .none⟩,
   ⟨P.merFwDigest, "mer.fw.digest", 4, 1, .u 64, [], 1, 0, .ro, .none, .none⟩,
   ⟨P.merCalDigest, "mer.cal.digest", 1, 1, .u 64, [], 1, 0, .ro, .none, .none⟩,
   ⟨P.merLenMode, "mer.len.mode", 4, 1, .enum [0, 1, 2, 3], [], 1, 0, .ro, .none, .none⟩,
   ⟨P.merLenAxis, "mer.len.axis", 4, 1, .u 8, [(0, 3)], 1, 0, .ro, .none, .none⟩,
   ⟨P.merLenInput, "mer.len.input", 4, 1, .u 8, [(0, 15)], 1, 0, .ro, .none, .none⟩,
   ⟨P.merLenInterval, "mer.len.interval", 4, 1, .u 32, [(1, 4294967295)], 1, 80000, .ro, .none, .none⟩,
   ⟨P.merStampStreams, "mer.stamp.streams", 1, 1, .u 64, [], 1, 0, .ro, .none, .none⟩,
   ⟨P.merLenPolarity, "mer.len.polarity", 4, 1, .enum [0, 1], [], 1, 0, .ro, .none, .none⟩,
   ⟨P.merLenDebounceUs, "mer.len.debounce_us", 4, 1, .u 16, [(0, 10000)], 1, 100, .ro, .none, .none⟩,
   ⟨P.merQuadIndex, "mer.quad.index", 1, 1, .u 8, [(0, 23), (255, 255)], 1, 255, .ro, .none, .none⟩,
   ⟨P.merQuadWeb, "mer.quad.web", 1, 1, .u 8, [(0, 3)], 1, 0, .ro, .none, .none⟩,
   ⟨P.merQuadDigest, "mer.quad.digest", 4, 1, .u 64, [], 1, 0, .ro, .none, .none⟩,
   ⟨P.merQuadPitchNm, "mer.quad.pitch_nm", 1, 1, .u 32, [(1, 4294967295)], 1, 1000, .ro, .none, .none⟩,
   ⟨P.merQuadState, "mer.quad.state", 1, 1, .enum [0, 1, 2], [], 1, 0, .ro, .none, .none⟩,
   ⟨P.merQuadExtraCount, "mer.quad.extra_count", 1, 1, .u 16, [], 1, 0, .rc, .none, .sat⟩,
   ⟨P.merQuadMissingCount, "mer.quad.missing_count", 1, 1, .u 32, [], 1, 0, .rc, .none, .sat⟩,
   ⟨P.merRecordSeq, "mer.record.seq", 1, 1, .u 32, [], 1, 0, .ro, .none, .none⟩,
   ⟨P.merStoreUnacked, "mer.store.unacked", 1, 1, .u 16, [(0, 1280)], 1, 0, .ro, .none, .none⟩,
   ⟨P.merStoreLost, "mer.store.lost", 1, 1, .u 32, [], 1, 0, .rc, .none, .sat⟩,
   ⟨P.merAuditUsed, "mer.audit.used", 1, 1, .u 16, [(0, 1920)], 1, 0, .ro, .none, .none⟩]

def rows06a : List PRow :=
  [⟨P.plateUnit, "plate.unit", 64, 1, .u 8, [(0, 7)], 1, 0, .rw, .frame, .none⟩,
   ⟨P.plateLineWidth, "plate.line.width", 64, 1, .u 16, [(16, 32768)], 1, 8192, .rw, .frame, .none⟩,
   ⟨P.plateInBits, "plate.in.bits", 64, 1, .u 8, [(8, 16)], 1, 12, .rw, .frame, .none⟩,
   ⟨P.plateFrameMode, "plate.frame.mode", 64, 1, .enum [0, 1, 2], [], 1, 0, .rw, .frame, .none⟩,
   ⟨P.plateFrameLines, "plate.frame.lines", 64, 1, .u 16, [(1, 65535)], 1, 1024, .rw, .frame, .none⟩,
   ⟨P.plateFrameLength, "plate.frame.length", 64, 1, .fix 48 16, [(1, 9223372036854775807)], 1, 5242880000, .rw, .frame, .none⟩,
   ⟨P.plateFrameOrigin, "plate.frame.origin", 64, 1, .fix 48 16, [], 1, 0, .rw, .frame, .none⟩,
   ⟨P.plateFillValue, "plate.fill_value", 64, 1, .u 16, [(0, 65535)], 1, 0, .rw, .frame, .none⟩,
   ⟨P.plateLineTimeoutUs, "plate.line_timeout_us", 64, 1, .u 16, [(10, 65535)], 1, 1000, .rw, .frame, .none⟩,
   ⟨P.plateRingLines, "plate.ring_lines", 64, 1, .u 16, [(16, 4096)], 1, 64, .rw, .frame, .none⟩,
   ⟨P.plateMemUsed, "plate.mem_used", 64, 1, .u 32, [], 1, 0, .ro, .none, .none⟩,
   ⟨P.plateState, "plate.state", 64, 1, .enum [0, 1, 2], [], 1, 0, .ro, .none, .none⟩,
   ⟨P.plateBlackEnable, "plate.black.enable", 64, 1, .bool, [], 1, 0, .rw, .frame, .none⟩,
   ⟨P.plateBlackLevel, "plate.black.level", 256, 1, .u 16, [(0, 65535)], 1, 0, .rw, .frame, .none⟩,
   ⟨P.plateDpcEnable, "plate.dpc.enable", 64, 1, .bool, [], 1, 0, .rw, .frame, .none⟩,
   ⟨P.plateDpcEntries, "plate.dpc.entries", 64, 1, .u 16, [(0, 4096)], 1, 0, .ro, .none, .none⟩,
   ⟨P.plateFfMode, "plate.ff.mode", 64, 1, .enum [0, 1, 2], [], 1, 0, .rw, .frame, .none⟩,
   ⟨P.plateFfEntries, "plate.ff.entries", 64, 1, .u 32, [(0, 4194304)], 1, 0, .ro, .none, .none⟩,
   ⟨P.plateCfaPattern, "plate.cfa.pattern", 64, 1, .enum [0, 1, 2, 3, 4, 5], [], 1, 0, .rw, .frame, .none⟩,
   ⟨P.plateCfaPhase, "plate.cfa.phase", 64, 1, .u 8, [(0, 15)], 1, 0, .rw, .frame, .none⟩,
   ⟨P.plateCcmCoef, "plate.ccm.coef", 768, 1, .fix 4 12, [], 1, 0, .rw, .frame, .none⟩,
   ⟨P.plateCcmOffset, "plate.ccm.offset", 192, 1, .s 16, [], 1, 0, .rw, .frame, .none⟩,
   ⟨P.plateOutPlanes, "plate.out.planes", 64, 1, .enum [1, 3, 4], [], 1, 1, .rw, .frame, .none⟩,
   ⟨P.plateCropX0, "plate.crop.x0", 64, 1, .u 16, [(0, 32767)], 1, 0, .rw, .frame, .none⟩,
   ⟨P.plateCropWidth, "plate.crop.width", 64, 1, .u 16, [(0, 32768)], 1, 0, .rw, .frame, .none⟩,
   ⟨P.plateCropY0, "plate.crop.y0", 64, 1, .u 16, [(0, 65534)], 1, 0, .rw, .frame, .none⟩,
   ⟨P.plateCropHeight, "plate.crop.height", 64, 1, .u 16, [(0, 65535)], 1, 0, .rw, .frame, .none⟩,
   ⟨P.plateScaleX, "plate.scale.x", 64, 1, .enum [1, 2, 4, 8, 16], [], 1, 1, .rw, .frame, .none⟩,
   ⟨P.plateScaleY, "plate.scale.y", 64, 1, .enum [1, 2, 4, 8, 16], [], 1, 1, .rw, .frame, .none⟩,
   ⟨P.plateOutBits, "plate.out.bits", 64, 1, .enum [8, 10, 12, 14, 16], [], 1, 16, .rw, .frame, .none⟩,
   ⟨P.plateOutCompress, "plate.out.compress", 64, 1, .bool, [], 1, 0, .rw, .frame, .none⟩,
   ⟨P.plateTapStream, "plate.tap.stream", 16, 1, .u 8, [(0, 63)], 1, 0, .rw, .frame, .none⟩,
   ⟨P.plateTapPoint, "plate.tap.point", 16, 1, .enum [0, 1, 2, 3, 4, 5, 6], [], 1, 0, .rw, .frame, .none⟩,
   ⟨P.plateTapEvery, "plate.tap.every", 16, 1, .u 16, [(1, 65535)], 1, 1, .rw, .frame, .none⟩,
   ⟨P.plateTapCompress, "plate.tap.compress", 16, 1, .bool, [], 1, 0, .rw, .frame, .none⟩,
   ⟨P.plateSurveyStream, "plate.survey.stream", 64, 1, .u 8, [(0, 63), (255, 255)], 1, 255, .rw, .frame, .none⟩,
   ⟨P.plateSurveyX0, "plate.survey.x0", 64, 1, .u 16, [(0, 32767)], 1, 0, .rw, .frame, .none⟩,
   ⟨P.plateSurveyWidth, "plate.survey.width", 64, 1, .u 16, [(0, 32768)], 1, 0, .rw, .frame, .none⟩,
   ⟨P.plateSurveyScaleX, "plate.survey.scale_x", 64, 1, .enum [1, 2, 4, 8, 16], [], 1, 8, .rw, .frame, .none⟩,
   ⟨P.plateSurveyScaleY, "plate.survey.scale_y", 64, 1, .enum [1, 2, 4, 8, 16], [], 1, 8, .rw, .frame, .none⟩]

def rows06b : List PRow :=
  [⟨P.plateSurveyBits, "plate.survey.bits", 64, 1, .enum [8, 16], [], 1, 8, .rw, .frame, .none⟩,
   ⟨P.plateSurveyEvery, "plate.survey.every", 64, 1, .u 16, [(1, 65535)], 1, 1, .rw, .frame, .none⟩,
   ⟨P.plateStatsPoint, "plate.stats.point", 64, 1, .enum [0, 1, 2, 3], [], 1, 0, .rw, .frame, .none⟩,
   ⟨P.plateStatsX0, "plate.stats.x0", 64, 1, .u 16, [(0, 32767)], 1, 0, .rw, .frame, .none⟩,
   ⟨P.plateStatsWidth, "plate.stats.width", 64, 1, .u 16, [(0, 32768)], 1, 0, .rw, .frame, .none⟩,
   ⟨P.plateStatsProfileBin, "plate.stats.profile_bin", 64, 1, .enum [0, 8, 16, 32, 64], [], 1, 0, .rw, .frame, .none⟩,
   ⟨P.plateStatsProfilePlane, "plate.stats.profile_plane", 64, 1, .u 8, [(0, 3)], 1, 0, .rw, .frame, .none⟩,
   ⟨P.plateExpsetActive, "plate.expset.active", 64, 1, .u 16, [], 1, 0, .ro, .none, .none⟩,
   ⟨P.plateExpsetPending, "plate.expset.pending", 64, 1, .u 16, [], 1, 0, .ro, .none, .none⟩,
   ⟨P.plateLongCount, "plate.long_count", 64, 1, .u 16, [], 1, 0, .rc, .none, .sat⟩,
   ⟨P.plateTruncBytes, "plate.trunc_bytes", 64, 1, .u 32, [], 1, 0, .rc, .none, .sat⟩,
   ⟨P.plateFormatErrCount, "plate.format_err_count", 64, 1, .u 16, [], 1, 0, .rc, .none, .sat⟩,
   ⟨P.plateMissingCount, "plate.missing_count", 64, 1, .u 16, [], 1, 0, .rc, .none, .sat⟩,
   ⟨P.plateLineGapCount, "plate.line_gap_count", 64, 1, .u 32, [], 1, 0, .rc, .none, .sat⟩,
   ⟨P.plateDropCount, "plate.drop_count", 64, 1, .u 32, [], 1, 0, .rc, .none, .sat⟩,
   ⟨P.plateDpcUnresolvedCount, "plate.dpc_unresolved_count", 64, 1, .u 16, [], 1, 0, .rc, .none, .sat⟩,
   ⟨P.plateSurveyDropCount, "plate.survey_drop_count", 64, 1, .u 16, [], 1, 0, .rc, .none, .sat⟩]

def rows07a : List PRow :=
  [⟨P.nibSlot, "nib.slot", 96, 1, .u 8, [(0, 31), (255, 255)], 1, 255, .rw, .tile, .none⟩,
   ⟨P.nibState, "nib.state", 96, 1, .enum [0, 1, 2, 3, 4, 5], [], 1, 2, .ro, .none, .none⟩,
   ⟨P.nibLastFault, "nib.last_fault", 96, 1, .enum [0, 1, 2, 3, 4, 5, 6, 7], [], 1, 0, .ro, .none, .none⟩,
   ⟨P.nibFaultCount, "nib.fault_count", 96, 1, .u 16, [], 1, 0, .rc, .none, .sat⟩,
   ⟨P.nibEccCorrCount, "nib.ecc_corr_count", 96, 1, .u 16, [], 1, 0, .rc, .none, .sat⟩,
   ⟨P.nibTilesDone, "nib.tiles_done", 96, 1, .u 32, [], 1, 0, .ro, .none, .wrap⟩,
   ⟨P.nibWoutIgnored, "nib.wout_ignored", 96, 1, .u 16, [], 1, 0, .rc, .none, .sat⟩,
   ⟨P.nibUtil, "nib.util", 96, 1, .u 16, [], 1, 0, .ro, .none, .none⟩,
   ⟨P.nibStreamSlot, "nib.stream_slot", 64, 1, .u 8, [(0, 31), (255, 255)], 1, 255, .rw, .frame, .none⟩,
   ⟨P.nibWebSlot, "nib.web_slot", 4, 1, .u 8, [(0, 31), (255, 255)], 1, 255, .rw, .frame, .none⟩,
   ⟨P.nibSlotState, "nib.slot_state", 32, 1, .enum [0, 1, 2], [], 1, 0, .ro, .none, .none⟩,
   ⟨P.nibSlotDigest, "nib.slot_digest", 128, 1, .u 64, [], 1, 0, .ro, .none, .none⟩,
   ⟨P.nibSlotBudget, "nib.slot_budget", 32, 1, .u 32, [(0, 4294967295)], 1, 0, .rw, .frame, .none⟩,
   ⟨P.nibArg, "nib.arg", 512, 1, .u 32, [], 1, 0, .rw, .frame, .none⟩,
   ⟨P.nibHangUs, "nib.hang_us", 1, 1, .u 16, [(10, 65535)], 1, 1000, .rw, .imm, .none⟩,
   ⟨P.nibFaultLimit, "nib.fault_limit", 1, 1, .u 8, [(1, 255)], 1, 2, .rw, .imm, .none⟩,
   ⟨P.nibFaultWindowMs, "nib.fault_window_ms", 1, 1, .u 16, [(1, 65535)], 1, 1000, .rw, .imm, .none⟩]

def rows08a : List PRow :=
  [⟨P.ephFolioMib, "eph.folio_mib", 1, 1, .u 8, [(8, 64)], 1, 32, .rw, .imm, .none⟩,
   ⟨P.ephFolioUsed, "eph.folio_used", 1, 1, .u 32, [], 1, 0, .ro, .none, .none⟩,
   ⟨P.ephFolioPeak, "eph.folio_peak", 1, 1, .u 32, [], 1, 0, .rc, .none, .none⟩,
   ⟨P.ephSlotsUsed, "eph.slots_used", 1, 1, .u 16, [(0, 1024)], 1, 0, .ro, .none, .none⟩,
   ⟨P.ephState, "eph.state", 1, 1, .enum [0, 1], [], 1, 0, .ro, .none, .none⟩,
   ⟨P.ephTileW, "eph.tile_w", 68, 1, .u 16, [(0, 32768)], 1, 0, .rw, .frame, .none⟩,
   ⟨P.ephTileH, "eph.tile_h", 68, 1, .u 16, [(0, 65535)], 1, 0, .rw, .frame, .none⟩,
   ⟨P.ephNextSeq, "eph.next_seq", 68, 1, .u 32, [], 1, 0, .ro, .none, .none⟩,
   ⟨P.ephCommitSeq, "eph.commit_seq", 68, 1, .u 32, [], 1, 0, .ro, .none, .none⟩,
   ⟨P.ephInflight, "eph.inflight", 68, 1, .u 16, [(0, 1024)], 1, 0, .ro, .none, .none⟩,
   ⟨P.ephTileTimeoutUs, "eph.tile_timeout_us", 1, 1, .u 32, [(20, 1000000)], 1, 5000, .rw, .imm, .none⟩,
   ⟨P.ephReplayLimit, "eph.replay_limit", 1, 1, .u 8, [(1, 15)], 1, 3, .rw, .imm, .none⟩,
   ⟨P.ephReplayCount, "eph.replay_count", 68, 1, .u 32, [], 1, 0, .rc, .none, .sat⟩,
   ⟨P.ephGapCount, "eph.gap_count", 68, 1, .u 32, [], 1, 0, .rc, .none, .sat⟩,
   ⟨P.ephRevokeCount, "eph.revoke_count", 68, 1, .u 16, [], 1, 0, .rc, .none, .sat⟩,
   ⟨P.ephFaultCommitCount, "eph.fault_commit_count", 68, 1, .u 16, [], 1, 0, .rc, .none, .sat⟩,
   ⟨P.ephSlotStallCount, "eph.slot_stall_count", 1, 1, .u 32, [], 1, 0, .rc, .none, .sat⟩,
   ⟨P.ephFolioStallCount, "eph.folio_stall_count", 1, 1, .u 32, [], 1, 0, .rc, .none, .sat⟩,
   ⟨P.ephLateDoneCount, "eph.late_done_count", 1, 1, .u 16, [], 1, 0, .rc, .none, .sat⟩,
   ⟨P.ephLedgerReclaimCount, "eph.ledger_reclaim_count", 1, 1, .u 32, [], 1, 0, .rc, .none, .sat⟩,
   ⟨P.ephDomainResetCount, "eph.domain_reset_count", 1, 1, .u 16, [], 1, 0, .rc, .none, .sat⟩]

def rows09a : List PRow :=
  [⟨P.ligMember, "lig.member", 64, 1, .u 8, [(0, 63), (255, 255)], 1, 255, .rw, .frame, .none⟩,
   ⟨P.ligXOff, "lig.x_off", 64, 1, .s 32, [], 1, 0, .rw, .frame, .none⟩,
   ⟨P.ligYOff, "lig.y_off", 64, 1, .fix 48 16, [], 1, 0, .rw, .frame, .none⟩,
   ⟨P.ligXTc, "lig.x_tc", 64, 1, .s 16, [], 1, 0, .rw, .frame, .none⟩,
   ⟨P.ligTRef, "lig.t_ref", 64, 1, .s 16, [], 1, 400, .rw, .frame, .none⟩,
   ⟨P.ligXUsed, "lig.x_used", 64, 1, .s 32, [], 1, 0, .ro, .none, .none⟩,
   ⟨P.ligSeam, "lig.seam", 60, 1, .u 32, [(0, 524287)], 1, 0, .rw, .frame, .none⟩,
   ⟨P.ligBlend, "lig.blend", 4, 1, .enum [0, 1], [], 1, 0, .rw, .frame, .none⟩,
   ⟨P.ligBlendPx, "lig.blend_px", 4, 1, .u 16, [(2, 256)], 2, 32, .rw, .frame, .none⟩,
   ⟨P.ligWidth, "lig.width", 4, 1, .u 32, [(0, 524288)], 1, 0, .rw, .frame, .none⟩,
   ⟨P.ligFill, "lig.fill", 4, 1, .u 16, [(0, 65535)], 1, 0, .rw, .frame, .none⟩,
   ⟨P.ligFrameLength, "lig.frame.length", 4, 1, .fix 48 16, [(1, 9223372036854775807)], 1, 5242880000, .rw, .frame, .none⟩,
   ⟨P.ligFrameOrigin, "lig.frame.origin", 4, 1, .fix 48 16, [], 1, 0, .rw, .frame, .none⟩,
   ⟨P.ligRingLines, "lig.ring_lines", 4, 1, .u 16, [(16, 4096)], 1, 64, .rw, .frame, .none⟩,
   ⟨P.ligSeamRec, "lig.seam_rec", 4, 1, .bool, [], 1, 0, .rw, .frame, .none⟩,
   ⟨P.ligState, "lig.state", 4, 1, .enum [0, 1, 2], [], 1, 0, .ro, .none, .none⟩,
   ⟨P.ligMemUsed, "lig.mem_used", 4, 1, .u 32, [], 1, 0, .ro, .none, .none⟩,
   ⟨P.ligDropCount, "lig.drop_count", 4, 1, .u 32, [], 1, 0, .rc, .none, .sat⟩,
   ⟨P.spanRole, "span.role", 1, 1, .enum [0, 1, 2], [], 1, 0, .rw, .imm, .none⟩,
   ⟨P.spanMemberId, "span.member_id", 1, 1, .u 8, [(0, 31)], 1, 0, .rw, .imm, .none⟩,
   ⟨P.spanPriority, "span.priority", 1, 1, .u 8, [(0, 255)], 1, 0, .rw, .imm, .none⟩,
   ⟨P.spanAxisMask, "span.axis_mask", 1, 1, .u 8, [(0, 15)], 1, 1, .rw, .imm, .none⟩,
   ⟨P.spanLossUs, "span.loss_us", 1, 1, .u 16, [(3, 1000)], 1, 10, .rw, .imm, .none⟩,
   ⟨P.spanState, "span.state", 1, 1, .enum [0, 1, 2, 3, 4, 5], [], 1, 0, .ro, .none, .none⟩,
   ⟨P.spanLeaderId, "span.leader_id", 1, 1, .u 8, [(0, 31)], 1, 0, .ro, .none, .none⟩,
   ⟨P.spanEpoch, "span.epoch", 1, 1, .u 16, [], 1, 0, .ro, .none, .none⟩,
   ⟨P.spanHop, "span.hop", 1, 1, .u 8, [(0, 31)], 1, 0, .ro, .none, .none⟩,
   ⟨P.spanDir, "span.dir", 1, 1, .enum [0, 1], [], 1, 0, .ro, .none, .none⟩,
   ⟨P.spanRing, "span.ring", 1, 1, .enum [0, 1], [], 1, 0, .ro, .none, .none⟩,
   ⟨P.spanHopDelayPs, "span.hop_delay_ps", 2, 1, .u 32, [], 1, 0, .ro, .none, .none⟩,
   ⟨P.spanTbErrPs, "span.tb_err_ps", 1, 1, .s 32, [], 1, 0, .ro, .none, .none⟩,
   ⟨P.spanRefSrc, "span.ref_src", 1, 1, .enum [0, 1, 2, 3], [], 1, 0, .ro, .none, .none⟩,
   ⟨P.spanConflict, "span.conflict", 1, 1, .bool, [], 1, 0, .ro, .none, .none⟩,
   ⟨P.spanCrcErrCount, "span.crc_err_count", 2, 1, .u 16, [], 1, 0, .rc, .none, .sat⟩,
   ⟨P.spanSwitchCount, "span.switch_count", 1, 1, .u 16, [], 1, 0, .rc, .none, .sat⟩]

def rows0Aa : List PRow :=
  [⟨P.memScrubPeriodS, "mem.scrub.period_s", 1, 1, .u 32, [(0, 86400)], 1, 600, .rw, .imm, .none⟩,
   ⟨P.memScrubPasses, "mem.scrub.passes", 1, 1, .u 32, [], 1, 0, .ro, .none, .wrap⟩,
   ⟨P.memFreeBytes, "mem.free_bytes", 1, 1, .u 32, [], 1, 0, .ro, .none, .none⟩,
   ⟨P.memBankCorrCount, "mem.bank.corr_count", 16, 1, .u 16, [], 1, 0, .rc, .none, .sat⟩,
   ⟨P.memBankUncorrCount, "mem.bank.uncorr_count", 16, 1, .u 16, [], 1, 0, .rc, .none, .sat⟩,
   ⟨P.memBankPoisoned, "mem.bank.poisoned", 16, 1, .u 32, [(0, 262144)], 1, 0, .ro, .none, .none⟩,
   ⟨P.memBankLastUncorr, "mem.bank.last_uncorr", 16, 1, .u 32, [(0, 262143)], 1, 0, .ro, .none, .none⟩,
   ⟨P.memBankUtil, "mem.bank.util", 16, 1, .u 16, [], 1, 0, .ro, .none, .none⟩,
   ⟨P.memPrivCorrCount, "mem.priv.corr_count", 1, 1, .u 16, [], 1, 0, .rc, .none, .sat⟩,
   ⟨P.memPrivUncorrCount, "mem.priv.uncorr_count", 1, 1, .u 16, [], 1, 0, .rc, .none, .sat⟩,
   ⟨P.qForm, "q.form", 128, 1, .enum [0, 1], [], 1, 0, .rw, .imm, .none⟩,
   ⟨P.qSizeLog2, "q.size_log2", 128, 1, .u 8, [(4, 20)], 1, 10, .rw, .imm, .none⟩,
   ⟨P.qWatermark, "q.watermark", 128, 1, .u 32, [(0, 1048576)], 1, 0, .rw, .imm, .none⟩,
   ⟨P.qWmIrq, "q.wm_irq", 128, 1, .bool, [], 1, 1, .rw, .imm, .none⟩,
   ⟨P.qCutThru, "q.cut_thru", 128, 1, .u 32, [(0, 1048576)], 1, 0, .rw, .frame, .none⟩,
   ⟨P.qLevel, "q.level", 128, 1, .u 32, [(0, 1048576)], 1, 0, .ro, .none, .none⟩,
   ⟨P.qPeak, "q.peak", 128, 1, .u 32, [], 1, 0, .rc, .none, .none⟩,
   ⟨P.qStatus, "q.status", 128, 1, .u 8, [], 1, 0, .ro, .none, .none⟩,
   ⟨P.qEvents, "q.events", 128, 1, .u 8, [], 1, 0, .w1c, .none, .none⟩,
   ⟨P.qWmCrossCount, "q.wm_cross_count", 128, 1, .u 16, [], 1, 0, .rc, .none, .sat⟩,
   ⟨P.qCorrCount, "q.corr_count", 128, 1, .u 16, [], 1, 0, .rc, .none, .sat⟩,
   ⟨P.qUncorrCount, "q.uncorr_count", 128, 1, .u 16, [], 1, 0, .rc, .none, .sat⟩,
   ⟨P.qDropCount, "q.drop_count", 128, 1, .u 16, [], 1, 0, .rc, .none, .sat⟩,
   ⟨P.qOversizeCount, "q.oversize_count", 128, 1, .u 16, [], 1, 0, .rc, .none, .sat⟩,
   ⟨P.qFlushCount, "q.flush_count", 128, 1, .u 16, [], 1, 0, .rc, .none, .sat⟩,
   ⟨P.qTornCount, "q.torn_count", 128, 1, .u 16, [], 1, 0, .rc, .none, .sat⟩]

def rows0Ba : List PRow :=
  [⟨P.quillSrc, "quill.src", 48, 1, .u 16, [(0, 67), (256, 359), (65535, 65535)], 1, 65535, .rw, .imm, .none⟩,
   ⟨P.quillForm, "quill.form", 48, 1, .enum [0, 1], [], 1, 0, .rw, .imm, .none⟩,
   ⟨P.quillMetaChan, "quill.meta_chan", 48, 1, .u 8, [(0, 47), (255, 255)], 1, 255, .rw, .imm, .none⟩,
   ⟨P.quillRate, "quill.rate", 64, 1, .u 8, [(0, 255)], 1, 0, .rw, .imm, .none⟩,
   ⟨P.quillNosnoop, "quill.nosnoop", 48, 1, .bool, [], 1, 0, .rw, .imm, .none⟩,
   ⟨P.quillState, "quill.state", 64, 1, .enum [0, 1, 2, 3, 4, 5, 6], [], 1, 0, .ro, .none, .none⟩,
   ⟨P.quillCurDesc, "quill.cur_desc", 64, 1, .u 64, [], 1, 0, .ro, .none, .none⟩,
   ⟨P.quillBytes, "quill.bytes", 64, 1, .u 64, [], 1, 0, .ro, .none, .wrap⟩,
   ⟨P.quillBadCount, "quill.bad_count", 64, 1, .u 16, [], 1, 0, .rc, .none, .sat⟩,
   ⟨P.quillBusErrCount, "quill.bus_err_count", 64, 1, .u 16, [], 1, 0, .rc, .none, .sat⟩,
   ⟨P.quillTruncCount, "quill.trunc_count", 48, 1, .u 32, [], 1, 0, .rc, .none, .sat⟩,
   ⟨P.quillPoisonCount, "quill.poison_count", 48, 1, .u 16, [], 1, 0, .rc, .none, .sat⟩,
   ⟨P.quillTornCount, "quill.torn_count", 48, 1, .u 16, [], 1, 0, .rc, .none, .sat⟩,
   ⟨P.quillLinkMbps, "quill.link_mbps", 1, 1, .u 32, [], 1, 121000, .ro, .none, .none⟩,
   ⟨P.quillMps, "quill.mps", 1, 1, .u 16, [(128, 128), (256, 256), (512, 512)], 1, 128, .ro, .none, .none⟩]

def rows0Ca : List PRow :=
  [⟨P.duxSrc, "dux.src", 512, 1, .u 16, [(0, 255), (256, 256), (65535, 65535)], 1, 65535, .rw, .imm, .none⟩,
   ⟨P.duxDiv, "dux.div", 256, 1, .u 16, [(1, 65535)], 1, 1, .rw, .imm, .none⟩,
   ⟨P.duxOwner, "dux.owner", 256, 1, .enum [0, 1, 2, 3], [], 1, 0, .ro, .none, .none⟩,
   ⟨P.duxSecure, "dux.secure", 256, 1, .bool, [], 1, 0, .rw, .imm, .none⟩,
   ⟨P.duxClass, "dux.class", 256, 1, .enum [0, 1], [], 1, 0, .ro, .none, .none⟩,
   ⟨P.duxFire, "dux.fire", 256, 1, .bool, [], 1, 0, .wo, .imm, .none⟩,
   ⟨P.duxFiredCount, "dux.fired_count", 256, 1, .u 32, [], 1, 0, .ro, .none, .wrap⟩,
   ⟨P.duxLoopCount, "dux.loop_count", 256, 1, .u 16, [], 1, 0, .rc, .none, .sat⟩,
   ⟨P.duxHevSrc, "dux.hev_src", 32, 1, .u 16, [(0, 255), (65535, 65535)], 1, 65535, .rw, .imm, .none⟩,
   ⟨P.duxTapArm, "dux.tap_arm", 16, 1, .u 16, [(0, 255), (65535, 65535)], 1, 65535, .rw, .frame, .none⟩,
   ⟨P.duxSinkIgnored, "dux.sink_ignored", 64, 1, .u 16, [], 1, 0, .rc, .none, .sat⟩]

def rows0Da : List PRow :=
  [⟨P.pwrRailPolicy, "pwr.rail_policy", 1, 1, .enum [0, 1], [], 1, 0, .rw, .imm, .none⟩,
   ⟨P.pwrRailFixedMv, "pwr.rail_fixed_mv", 1, 1, .u 16, [(700, 850)], 5, 750, .rw, .imm, .none⟩,
   ⟨P.pwrRailMv, "pwr.rail_mv", 1, 1, .u 16, [(650, 850)], 1, 750, .ro, .none, .none⟩,
   ⟨P.pwrSpeedIndex, "pwr.speed_index", 1, 1, .u 16, [], 1, 0, .ro, .none, .none⟩,
   ⟨P.paceDroopMv, "pace.droop_mv", 1, 1, .u 8, [(10, 100)], 1, 30, .rw, .imm, .none⟩,
   ⟨P.paceCeiling, "pace.ceiling", 1, 1, .u 16, [(0, 0), (32, 256)], 1, 0, .rw, .imm, .none⟩,
   ⟨P.paceLevel, "pace.level", 106, 1, .u 8, [(1, 8)], 1, 8, .ro, .none, .none⟩,
   ⟨P.paceTripCount, "pace.trip_count", 64, 1, .u 16, [], 1, 0, .rc, .none, .sat⟩,
   ⟨P.paceMinMv, "pace.min_mv", 64, 1, .u 16, [], 1, 0, .rc, .none, .none⟩,
   ⟨P.pwrState, "pwr.state", 1, 1, .enum [0, 1, 2, 3, 4], [], 1, 0, .ro, .none, .none⟩,
   ⟨P.pwrTarget, "pwr.target", 1, 1, .enum [0, 1, 2], [], 1, 0, .rw, .imm, .none⟩,
   ⟨P.pwrWakeFi, "pwr.wake_fi", 1, 1, .u 8, [(0, 15), (255, 255)], 1, 255, .rw, .imm, .none⟩]

def rows0Ea : List PRow :=
  [⟨P.secLc, "sec.lc", 1, 1, .enum [0, 1, 2, 3, 4], [], 1, 0, .ro, .none, .none⟩,
   ⟨P.secLcPending, "sec.lc_pending", 1, 1, .enum [0, 1, 2, 3, 4], [], 1, 0, .ro, .none, .none⟩,
   ⟨P.secOwnerKeys, "sec.owner_keys", 1, 1, .u 8, [(0, 7)], 1, 0, .ro, .none, .none⟩,
   ⟨P.secSvnFused, "sec.svn_fused", 1, 1, .u 8, [(0, 64)], 1, 0, .ro, .none, .none⟩,
   ⟨P.secSvnRunning, "sec.svn_running", 1, 1, .u 16, [(0, 64)], 1, 0, .ro, .none, .none⟩,
   ⟨P.secFwAuth, "sec.fw_auth", 1, 1, .enum [0, 1], [], 1, 0, .ro, .none, .none⟩,
   ⟨P.secDebugGrant, "sec.debug_grant", 1, 1, .enum [0, 1, 2, 3], [], 1, 3, .ro, .none, .none⟩,
   ⟨P.secGrantSource, "sec.grant_source", 1, 1, .enum [0, 1, 2], [], 1, 0, .ro, .none, .none⟩,
   ⟨P.secGrantRemainingS, "sec.grant_remaining_s", 1, 1, .u 32, [], 1, 0, .ro, .none, .none⟩,
   ⟨P.secDebugActive, "sec.debug_active", 1, 1, .enum [0, 1, 2, 3], [], 1, 0, .ro, .none, .none⟩,
   ⟨P.secUnlockFailCount, "sec.unlock_fail_count", 1, 1, .u 16, [], 1, 0, .rc, .none, .sat⟩]

def rows0Fa : List PRow :=
  [⟨P.almTimeS, "alm.time_s", 1, 1, .u 64, [], 1, 0, .ro, .none, .none⟩,
   ⟨P.almTemp, "alm.temp", 11, 1, .s 16, [], 1, 0, .ro, .none, .none⟩,
   ⟨P.almTempMax, "alm.temp_max", 11, 1, .s 16, [], 1, 0, .rc, .none, .none⟩,
   ⟨P.almTempWarn, "alm.temp_warn", 1, 1, .s 16, [(0, 1680)], 1, 1440, .rw, .imm, .none⟩,
   ⟨P.almTempCrit, "alm.temp_crit", 1, 1, .s 16, [(1280, 1680)], 1, 1600, .rw, .imm, .none⟩,
   ⟨P.almVinMv, "alm.vin_mv", 1, 1, .u 16, [], 1, 0, .ro, .none, .none⟩,
   ⟨P.almVfieldMv, "alm.vfield_mv", 1, 1, .u 16, [], 1, 0, .ro, .none, .none⟩,
   ⟨P.almRailMeasMv, "alm.rail_meas_mv", 1, 1, .u 16, [], 1, 0, .ro, .none, .none⟩,
   ⟨P.almSupplyStatus, "alm.supply_status", 1, 1, .u 8, [], 1, 0, .ro, .none, .none⟩,
   ⟨P.almLaneEyeHMv, "alm.lane.eye_h_mv", 32, 1, .u 16, [], 1, 0, .ro, .none, .none⟩,
   ⟨P.almLaneEyeW, "alm.lane.eye_w", 32, 1, .u 8, [(0, 64)], 1, 0, .ro, .none, .none⟩,
   ⟨P.almLaneMarginWarnMv, "alm.lane.margin_warn_mv", 1, 1, .u 16, [(0, 500)], 1, 20, .rw, .imm, .none⟩,
   ⟨P.almWdScribeMs, "alm.wd.scribe_ms", 1, 1, .u 16, [(0, 0), (100, 10000)], 1, 500, .rw, .imm, .none⟩,
   ⟨P.almWdCount, "alm.wd.count", 1, 1, .u 16, [], 1, 0, .rc, .none, .sat⟩,
   ⟨P.almFwSlotState, "alm.fw.slot_state", 2, 1, .enum [0, 1, 2, 3], [], 1, 0, .ro, .none, .none⟩,
   ⟨P.almFwSlotVersion, "alm.fw.slot_version", 2, 1, .u 32, [], 1, 0, .ro, .none, .none⟩,
   ⟨P.almFwPreferred, "alm.fw.preferred", 1, 1, .enum [0, 1], [], 1, 0, .ro, .none, .none⟩,
   ⟨P.almFwTrial, "alm.fw.trial", 1, 1, .bool, [], 1, 0, .ro, .none, .none⟩,
   ⟨P.almFwTrialS, "alm.fw.trial_s", 1, 1, .u 16, [(0, 65535)], 1, 600, .rw, .imm, .none⟩,
   ⟨P.almFwStageCounter, "alm.fw.stage_counter", 1, 1, .u 64, [], 1, 0, .ro, .none, .none⟩,
   ⟨P.almStoreState, "alm.store.state", 64, 1, .enum [0, 1, 2], [], 1, 0, .ro, .none, .none⟩,
   ⟨P.almLogNextSeq, "alm.log.next_seq", 1, 1, .u 32, [], 1, 0, .ro, .none, .none⟩,
   ⟨P.almLogOldestSeq, "alm.log.oldest_seq", 1, 1, .u 32, [], 1, 0, .ro, .none, .none⟩,
   ⟨P.almLogSuppressed, "alm.log.suppressed", 1, 1, .u 32, [], 1, 0, .rc, .none, .sat⟩]

/-- Every parameter of the manual. -/
def paramTable : List PRow :=
  rows01a ++ rows02a ++ rows03a ++ rows04a ++ rows04b ++ rows05a ++ rows06a ++ rows06b ++ rows07a ++ rows08a ++ rows09a ++ rows0Aa ++ rows0Ba ++ rows0Ca ++ rows0Da ++ rows0Ea ++ rows0Fa

/-- The row of an ID, if it is defined. -/
def paramRow (id : Nat) : Option PRow := paramTable.find? (fun r => r.id == id)

/-- The owner of each Ductus channel (R302): 0 SCRIBE, 1 ALMANAC, 2 MERIDIAN, 3 HOST. -/
def duxOwnerOf (c : Nat) : Nat :=
  if c < 64 then 0 else if c < 72 then 2 else if c < 88 then 0 else if c < 91 then 2
  else if c < 100 then 0 else if c < 128 then 1 else if c < 224 then 3 else 1

/-- The default of one instance (the Default column; R302 for the Ductus attributes). DESIGN CHOICE, entry 1. -/
def paramDefault (id inst : Nat) : Nat :=
  if id = P.plateUnit then inst % 8
  else if id = P.plateCcmCoef then (if inst % 12 / 4 = inst % 4 then 4096 else 0)
  else if id = P.duxOwner then duxOwnerOf inst
  else if id = P.duxSecure then
    b2n ((64 ≤ inst && inst < 72) || (88 ≤ inst && inst < 128) || 224 ≤ inst)
  else if id = P.duxClass then b2n (72 ≤ inst)
  else if id = P.almFwSlotState then b2n (inst == 0)
  else match paramRow id with
    | some r => r.dflt
    | none => 0

/-- The key of one word of one instance in the parameter store. -/
def pkey (id inst word : Nat) : Nat := (id * 1024 + inst) * 16 + word

end Sys2Proof.Machine
end

