-- ==== Sys2Proof/Machine/State.lean ====
section
/-! DEFINITION. The state of the OG-9640: the parameter store, the direct registers, and what the rules imply beside
them, as plain data. Positions are integers in 1/65,536 count; instants are picoseconds. -/
namespace Sys2Proof.Machine

/-- No command stops the model: a nib fault ends a tile (R186), a failed command answers a status code (R326).
The type has no constructor, so no step answers a fault. -/
inductive Fault
  deriving DecidableEq, Repr

/-- Why a step has no meaning. -/
inductive Refusal where
  /-- Raised by an arm of `exec` that has no meaning yet, by its mnemonic. Safe: nothing is claimed of it. -/
  | notModelled (mnemonic : String)
  deriving DecidableEq, Repr

/-- An addressed RAM of bytes; an unlisted byte reads 0 (R248). -/
abbrev Mem := FMap Byte

/-- What leaves the device, newest first in `Dev.out`. DESIGN CHOICE, entry 8. -/
inductive Output where
  /-- a host memory write, and whether it has No-Snoop set (R285, R289, R297, R330) -/
  | hostWrite (addr : Nat) (data : Bytes) (noSnoop : Bool)
  /-- an MSI-X message of a function's vector, with the address and data of its table entry (R272, R276) -/
  | msix (fn : Fn) (vector addr data : Nat)
  /-- data answered to a register or parameter read -/
  | readData (value : Nat)
  /-- a packet or control block given to the transmitter of a head's link (R114) -/
  | up (head : Nat) (pkt : Bytes)
  | block (lane : Nat) (payload : Bytes)
  /-- training frames, with the symbols of the first; 0 frames: from now on one after another, until the lane sends
  something else (R100, R102, R106, R109) -/
  | burst (lane : Nat) (frames : Nat) (symbols : List Nat)
  /-- a codeword on a lane, as symbols (R94) -/
  | codeword (lane : Nat) (symbols : List Nat)
  /-- one symbol stream of a lane going idle (R109) -/
  | elecIdle (lane : Nat)
  /-- a frame or slot on a Collimator output, 0 = A, 1 = B (R232) -/
  | sync (port : Nat) (frame : Bytes)
  | slot (port : Nat) (frame : Bytes)
  /-- the idle symbols that end a period of an output, each with whether it is a control symbol (R232) -/
  | idle (port : Nat) (symbols : List (Bool × Nat))
  /-- what an output's ball shows: 0 driven low, 1 driven high, 2 pulled low, 3 pulled high, 4 neither (R58) -/
  | drive (o : Nat) (level : Nat)
  /-- a response on the service USB port (R397) -/
  | usb (data : Bytes)
  | usbAttach (on : Bool)
  | jtag (data : Bytes)
  /-- the PCI Express link trains (R370) -/
  | linkTrain
  deriving DecidableEq, Repr

/-! ## Mailboxes (R316 to R323) -/

/-- MBm_STATUS STATE (R317). -/
inductive MbSt where
  | idle | queued | running | complete | timeout
  deriving DecidableEq, Repr

/-- What a running command waits for before its final status (R324, "Completes when"). -/
inductive Wait where
  | none
  | ack (head tag : Nat)
  | slotFree (head : Nat)
  | streams (mask : Nat)
  | webs (mask : Nat)
  | nib (n : Nat)
  | chan (c : Nat)
  deriving DecidableEq, Repr

structure Mailbox where
  /-- request window, 256 bytes (R274) -/
  req : Mem
  /-- copy taken at the doorbell (R316) -/
  snap : Mem
  /-- response window -/
  rsp : Mem
  /-- STATE of MBm_STATUS (R317) -/
  st : MbSt
  /-- EFFECT of MBm_STATUS (R317, R321) -/
  effect : Bool
  /-- CODE of MBm_STATUS (R317, R326) -/
  code : Nat
  /-- TAG of MBm_STATUS (R317) -/
  tag : Nat
  /-- instant the timeout falls due (R321) -/
  deadline : Option Nat
  /-- what the running command waits for (R320) -/
  wait : Wait
  /-- number of the accepted doorbell (R323) -/
  order : Nat
  deriving DecidableEq, Repr

def Mailbox.reset : Mailbox := ⟨.empty, .empty, .empty, .idle, false, 0, 0, none, .none, 0⟩

/-! ## Encoders, axes, triggers, field I/O (R30 to R62) -/

structure Enc where
  /-- decoder inputs after invert and swap -/
  a : Bool
  /-- decoder input B (R30) -/
  b : Bool
  /-- decoder input Z (R30, R33) -/
  z : Bool
  /-- counted steps -/
  count : Int
  /-- instants of the last edge and the edge before it (R34) -/
  t1 : Nat
  /-- instant of the edge before the last (R34) -/
  t0 : Nat
  /-- signs of the last step and the step before it, 0 before the first -/
  d1 : Int
  /-- sign of the step before the last (R34) -/
  d0 : Int
  /-- count at the last Z edge (R33) -/
  zAt : Option Int
  /-- instant of the last quadrature error, and of the ends of OVERSPEED and LOS (R32) -/
  qAt : Nat
  /-- instant at which OVERSPEED's condition ended (R32) -/
  fastEnd : Option Nat
  /-- instant at which LOS's condition ended (R32) -/
  losEnd : Option Nat
  /-- the steps before the last within 10 ms and one older, newest first: t1, count, t0, d1, d0 (R54, R76) -/
  past : List (Nat × Int × Nat × Int × Int)
  deriving DecidableEq, Repr

def Enc.reset : Enc := ⟨false, false, false, 0, 0, 0, 0, 0, none, 0, none, none, []⟩

/-- The latest sync frame (R232): TB_TX in 1/256 ns, axes. -/
structure SyncInfo where
  /-- TB_TX, 1/256 ns -/
  tbTx : Nat
  /-- axis positions -/
  pos : List Int
  /-- axis velocities -/
  vel : List Int
  /-- axis accelerations -/
  acc : List Int
  /-- axis status bits -/
  status : Nat
  /-- frame number -/
  frameNo : Nat
  deriving DecidableEq, Repr

/-- How an axis output follows from its inputs at an instant: what a later reading of a past instant needs (R54, R76).
-/
structure AxisView where
  /-- the output it holds while off or DEAD (R38, R41) -/
  hold : Option Int
  /-- the sync frame a follower reads it from, and TB less uptime, ps (R237) -/
  frame : Option SyncInfo
  /-- TB less uptime, ps -/
  tbOff : Int
  /-- single encoder followed, with its offset (R39, R41) -/
  src : Option (Nat × Int)
  /-- reference output B and the members' u_i there (R36) -/
  base : Int
  /-- u_i of each member at the reference (R36) -/
  refs : FMap Int
  /-- members, method and primary (R37) -/
  members : List Nat
  /-- fusion method (R37) -/
  method : Nat
  /-- primary encoder (R37) -/
  primary : Nat
  /-- ratio of each encoder (R36) -/
  ratios : List (Nat × Nat)
  deriving DecidableEq, Repr

structure Axis where
  /-- output held while off or DEAD, and the reference output B (R36, R38) -/
  held : Int
  /-- reference output B (R36) -/
  base : Int
  /-- u_i of each member at the reference (R36) and at the start of the span (R39) -/
  refs : FMap Int
  /-- u_i of each member at the start of the span (R39) -/
  spanRefs : FMap Int
  /-- primary travel since the span began, 1/65,536 count (R39) -/
  travel : Nat
  /-- the last ended span, begun after the last SLIP, found every member in tolerance (R40) -/
  spanOk : Bool
  /-- SLIP came within the present span, which therefore does not count for R40 -/
  spanCut : Bool
  /-- single encoder the output follows, with its offset (R39, R41); none while fused -/
  src : Option (Nat × Int)
  /-- extreme reached in the present direction (R43) -/
  ext : Int
  /-- velocity and acceleration, counts/s and counts/s² (R44) -/
  v : Int
  /-- acceleration, counts/s² (R44) -/
  a : Int
  /-- instants and outputs of counted edges, newest first (R44) -/
  hist : List (Nat × Int)
  /-- a span axis that SPAN or the span's loss holds (R340, R241) -/
  spanDead : Bool
  /-- how the output followed from its inputs up to an instant, newest first, for 20 ms (R54, R76) -/
  past : List (Nat × AxisView)
  deriving DecidableEq, Repr

def Axis.reset : Axis := ⟨0, 0, .empty, .empty, 0, false, false, none, 0, 0, 0, [], false, []⟩

structure Trig where
  /-- highest point fired in the forward direction (R46); none before the first entry to a mode -/
  high : Int
  /-- points fired and not re-armed under ON_REVERSAL, with whether the axis has come near since (R46) -/
  disarmed : List (Int × Bool)
  /-- target instant of the last fired point (R49), 0 if none -/
  lastTarget : Option Nat
  /-- points skipped since the last fired one (R49) -/
  skipped : Nat
  /-- firings whose error is not yet checked: target instant, grid point, axis and mode of the firing (R50) -/
  checks : List (Nat × Int × Nat × Nat)
  /-- nothing fired yet since the generator entered its mode or resumed (R46) -/
  first : Bool
  /-- next TIME instant, ps of TB, 0 while the phase is open (R47) -/
  nextTime : Nat
  /-- generators stop at a warm reset or FLR until configured again (R53, R377) -/
  stopped : Bool
  /-- axis output up to which crossings have been noted (R46) -/
  seen : Int
  /-- points crossed and not yet fired under ON_REVERSAL (R46) -/
  due : List Int
  /-- a mode entered by the writes now being applied, whose first-point reference is taken after the last of them
  (R46) -/
  entered : Bool
  deriving DecidableEq, Repr

def Trig.reset : Trig := ⟨0, [], none, 0, [], true, 0, false, 0, [], false⟩

structure FieldIn where
  /-- debounced physical level (R54) -/
  level : Bool
  deriving DecidableEq, Repr

def FieldIn.reset : FieldIn := ⟨false⟩

/-- The state the field die keeps for an output (R58, R59, R61). -/
inductive Kept where
  | heldOff | holding | released
  deriving DecidableEq, Repr

structure FieldOut where
  /-- state the field die keeps: HELD_OFF, HOLDING or RELEASED (R58, R59, R61) -/
  kept : Kept
  /-- level held through a warm reset -/
  holdLevel : Bool
  /-- rt at which the warm-hold count expires (R59) -/
  holdEnd : Nat
  /-- rt in which it expired: a release in that rt is taken as arriving before it (R59) -/
  expired : Option Nat
  /-- end of the pulse in progress (R56) -/
  pulse : Option Nat
  /-- highest marker point passed (R46), none before the first -/
  high : Option Int
  /-- thermal shutdown (R422) -/
  shut : Bool
  /-- under HOLD, what the output drove before its written function takes effect (R344) -/
  frozen : Option Bool
  /-- STROBE: starts of pulses due, exposure instants plus `fo.delay_ns` (R56) -/
  due : List Nat
  deriving DecidableEq, Repr

def FieldOut.reset : FieldOut := ⟨.heldOff, false, 0, none, none, none, false, none, []⟩

/-! ## Meridian (R63 to R92) -/

/-- An open LENGTH record: start position and flags gathered (R74, R76). -/
structure OpenLen where
  /-- start position (R76) -/
  start : Int
  /-- flags gathered (R74) -/
  flags : Nat
  deriving DecidableEq, Repr

/-- A frame of a web: its first and last stamp so far and the WIDTH flags gathered (R73, R74). -/
structure WebSpan where
  /-- the web -/
  web : Nat
  /-- number of the frame (R85) -/
  frame : Nat
  /-- its first stamp so far -/
  first : Int
  /-- its last stamp so far -/
  last : Int
  /-- uptime at the exposure of its last line so far, ps (R73) -/
  lastAt : Nat
  /-- WIDTH flags gathered (R74) -/
  flags : Nat
  deriving DecidableEq, Repr

/-- The staging session (R403). -/
structure Session where
  /-- 0 main image, 1 Meridian image (R403) -/
  target : Nat
  /-- path that began the session (R403) -/
  path : Path
  /-- slot being staged (R403) -/
  slot : Nat
  /-- size named at BEGIN (R403) -/
  size : Nat
  /-- bytes staged (R403) -/
  data : Mem
  /-- bytes written, by offset -/
  got : FMap Bool
  /-- FW_READY has been fired for what is staged now (R404) -/
  verified : Bool
  deriving DecidableEq, Repr

/-- A LENGTH or WIDTH record that has ended and has not taken its number: an edge seen earlier on another channel may
yet end one before it (R79). -/
structure DueRec where
  /-- TYPE -/
  ty : Nat
  /-- flags gathered (R74) -/
  flags : Nat
  /-- INDEX -/
  index : Nat
  /-- SOURCE -/
  source : Nat
  /-- START -/
  start : Int
  /-- END -/
  fin : Int
  /-- VALUE -/
  value : Int
  /-- FRAME -/
  frame : Nat
  /-- uptime at END, ps (R73, R79) -/
  at' : Nat
  deriving DecidableEq, Repr

structure Mer where
  /-- debounced SEAL_ADJ_N asserted (R67) -/
  sealPin : Bool
  /-- audit entries of 64 bytes, oldest first (R72) -/
  audit : List Bytes
  /-- records of 96 bytes by RECORD_SEQ modulo 1,280 (R79) -/
  records : FMap Bytes
  /-- earliest unacknowledged RECORD_SEQ (R80) -/
  acked : Nat
  /-- debounced level of each length input -/
  lenLevel : FMap Bool
  /-- raw edges seen on the length inputs and not yet held for the debounce: level and instant (R76) -/
  lenRaw : FMap (Option (Bool × Nat))
  /-- records that wait to take their number (R79) -/
  due : List DueRec
  /-- open LENGTH records by channel -/
  openLen : FMap (Option OpenLen)
  /-- channels whose last record was not made for want of a slot, and wait for one (R80) -/
  starved : FMap Bool
  /-- axis output last seen by an INTERVAL channel (R76); none before LEGAL set -/
  lenPrev : FMap (Option Int)
  /-- edge values received, by web frame: frame, left, right (R167) -/
  edges : List (Nat × Option Int × Option Int)
  /-- frames of the webs whose tiles have not all settled -/
  webFrames : List WebSpan
  /-- the two calibration copies (R440); empty until first written -/
  calA : Bytes
  /-- second copy of the calibration block (R440) -/
  calB : Bytes
  /-- keys erased at RETIRED (R384) -/
  erased : Bool
  /-- Meridian image activated after the shipped one: version and digest (R86) -/
  image : Option (Nat × Bytes)
  /-- attestation: a check is due once no nib of the quad is LOADING (R182); instant of the last check -/
  attestDue : Bool
  /-- instant of the last attestation check (R82) -/
  attestAt : Nat
  deriving DecidableEq, Repr

def Mer.reset : Mer :=
  ⟨false, [], .empty, 0, .empty, .empty, [], .empty, .empty, .empty, [], [], [], [], false, none, false, 0⟩

/-! ## Lanes, links and heads (R93 to R125) -/

structure Lane where
  /-- bring-up phase: 0 none, 1 TX_TRAIN, 2 EQ, 3 ALIGN_LOCK, 4 DELAY, 5 IDENT, 6 UP (R102) -/
  phase : Nat
  /-- consecutive good training frames, ready frames, or good codewords, in the phase -/
  good : Nat
  /-- ALIGN lock with deskew; instant of the last ALIGN (R111) -/
  aligned : Bool
  /-- instant of the last ALIGN (R104, R111) -/
  alignAt : Nat
  /-- consecutive uncorrectable codewords (R104) -/
  bad : Nat
  /-- ALIGN blocks sent -/
  alignCount : Nat
  /-- instant the phase, backoff or ABSENT interval began -/
  since : Nat
  /-- `lane.last_fail` that a WIDTH or PROTO disagreement gives this attempt (R103) -/
  eqFail : Nat
  /-- saved CTLE and DFE values (R106) -/
  saved : List Nat
  /-- low power of the partner's transmitter and of the own one: 0 active, 1 EI, 2 SLEEP; SLEEP blocks seen (R109) -/
  downPower : Nat
  /-- low power of the own transmitter: 0 active, 1 EI, 2 SLEEP (R109) -/
  upPower : Nat
  /-- SLEEP blocks of one kind received in a row (R109) -/
  sleepSeen : Nat
  /-- byte 1 of the last of them (R109) -/
  sleepKind : Nat
  /-- own transmitter's taps, pre and post in -1/64, and COEF_LIMIT (R101) -/
  pre : Nat
  /-- own transmitter's post tap, in -1/64 (R101) -/
  post : Nat
  /-- COEF_LIMIT of the own transmitter (R101) -/
  limit : Nat
  /-- request number of the next RETRAIN_REQ -/
  reqNum : Nat
  /-- FRAME_SEQ of the next training frame (R100) -/
  frameSeq : Nat
  /-- scrambler and precoder of the down direction (R96, R97) -/
  rx : Coder
  /-- scrambler and precoder of the up direction (R96, R97) -/
  tx : Coder
  /-- the partner precodes: PRECODE_REQ of the last training frames sent (R96) -/
  rxPre : Bool
  /-- codewords received since the last ALIGN (R98) -/
  rxNo : Nat
  /-- codewords sent, modulo 200 (R98) -/
  txNo : Nat
  /-- blocks received and not yet taken by the link, ALIGN blocks apart; none for a block of a discarded codeword (R99,
  R111) -/
  blocks : List (Option Blk)
  /-- control blocks received that await their handling -/
  ctl : List Bytes
  /-- the ALIGN block that the next codeword begins with (R98) -/
  align : Option Bytes
  /-- register of the PRBS31 source, none until it starts (R124) -/
  prbs : Option Nat
  /-- corrected FEC symbols with their instants, newest first, for 2 ms (R106) -/
  corr : List (Nat × Nat)
  /-- instant of the last drift check, or of UP (R106) -/
  driftAt : Nat
  deriving DecidableEq, Repr

def Lane.reset : Lane where
  phase := 0
  good := 0
  aligned := false
  alignAt := 0
  bad := 0
  alignCount := 0
  since := 0
  eqFail := 0
  saved := []
  downPower := 0
  upPower := 0
  sleepSeen := 0
  sleepKind := 0
  pre := 4
  post := 8
  limit := 0
  reqNum := 0
  frameSeq := 0
  rx := ⟨0, 0⟩
  tx := ⟨0, 0⟩
  rxPre := false
  rxNo := 0
  txNo := 0
  blocks := []
  ctl := []
  align := none
  prbs := none
  corr := []
  driftAt := 0

/-- A message that awaits its ACK (R121). -/
structure Msg where
  /-- TAG (R121) -/
  tag : Nat
  /-- TYPE of the message (R116) -/
  ty : Nat
  /-- type fields and payload, to send again (R121) -/
  pkt : Bytes
  /-- mailbox whose command waits (R121) -/
  mb : Nat
  /-- times sent again (R121) -/
  resends : Nat
  /-- instant last sent (R121) -/
  sentAt : Nat
  /-- EXPOSE_SET: its set ID and streams -/
  set : Nat
  /-- EXPOSE_SET: the streams it names (R152) -/
  streams : Nat
  deriving DecidableEq, Repr

structure Head where
  /-- messages awaiting ACK, oldest first -/
  waiting : List Msg
  /-- tags already answered, newest first (R121) -/
  done : List Nat
  /-- TAG of the next message (R121) -/
  nextTag : Nat
  /-- next expected SEQ of each channel (R119), none before the first packet -/
  seqs : FMap (Option Nat)
  /-- up SEQ by channel -/
  upSeq : FMap Nat
  /-- probe sent: number and instant; probes answered in DELAY; number of probes (R112) -/
  probe : Option (Nat × Nat)
  /-- probes answered in DELAY (R112) -/
  echoes : Nat
  /-- sum of the delays measured in DELAY (R112) -/
  delaySum : Nat
  /-- number of the next DELAY_PROBE (R112) -/
  probeNum : Nat
  /-- instant of the last up traffic, for `lane.idle_ei_us` (R110) -/
  lastUp : Nat
  /-- HEAD_STATUS TEMP seen since link-up (R222) -/
  temp : Option Int
  /-- head's RETRAIN_REQ pending since (R107) -/
  upRetrain : Option Nat
  /-- instant of the last periodic probe, or of UP (R112) -/
  probeAt : Nat
  /-- blocks of the link that wait for a codeword, in the order of their numbers j (R111) -/
  txq : List Blk
  /-- number j, modulo the width, of the next block received (R111) -/
  rxj : Nat
  /-- blocks of the packet that is being received; none for one of a discarded codeword (R99, R114) -/
  part : List (Option Bytes)
  /-- packets received whole that await their handling -/
  arrived : List Bytes
  /-- LINE of the emulator's next line, by channel (R124) -/
  emuLine : FMap Nat
  deriving DecidableEq, Repr

def Head.reset : Head where
  waiting := []
  done := []
  nextTag := 0
  seqs := .empty
  upSeq := .empty
  probe := none
  echoes := 0
  delaySum := 0
  probeNum := 0
  lastUp := 0
  temp := none
  upRetrain := none
  probeAt := 0
  txq := []
  rxj := 0
  part := []
  arrived := []
  emuLine := .empty

/-! ## Plate (R126 to R156) -/

/-- A fired trigger whose line is expected (R131). -/
structure Expect where
  /-- TRIG_ID (R131) -/
  trigId : Nat
  /-- grid point, or position at the target instant (R50) -/
  stamp : Int
  /-- target instant, ps (R47) -/
  target : Nat
  /-- points skipped before it (R49) -/
  skipped : Nat
  /-- its message left late (R48) -/
  late : Bool
  deriving DecidableEq, Repr

/-- A line in assembly: the pieces received (R130). -/
structure Asm where
  /-- FRAME, LINE and TAG of its packets -/
  frame : Nat
  /-- LINE of its packets (R116) -/
  line : Nat
  /-- TAG of its packets (R116) -/
  tag : Nat
  /-- stamp of the line (R21, R50) -/
  stamp : Int
  /-- byte ranges received: offset and bytes (R130) -/
  pieces : List (Nat × Bytes)
  /-- EXPSET of its packets (R116) -/
  exp : Nat
  /-- flags known at the first packet: GAP, TRIG_LATE, LINE_JUMP; then HEAD_LATE -/
  flags : Nat
  /-- TRIG_ID of its trigger (R131) -/
  trigId : Nat
  /-- points skipped before its trigger (R49) -/
  skipped : Nat
  /-- packing of its packets -/
  packing : Nat
  /-- HEAD_STATUS TEMP that came before its first packet, since link-up (R222) -/
  temp : Option Int
  /-- uptime at its exposure, ps (R73) -/
  at' : Nat
  /-- its place among the 8 lines of the assembly buffer (R127) -/
  slot : Nat
  /-- errors that the words of its place are read with: the word's place in the line, the pattern (R250) -/
  errs : List (Nat × Bytes)
  deriving DecidableEq, Repr

/-- A line's metadata (R135). -/
structure LineMeta where
  /-- frame number (R135) -/
  frame : Nat
  /-- line index in the frame (R135) -/
  index : Nat
  /-- stamp (R135) -/
  stamp : Int
  /-- line flags (R136) -/
  flags : Nat
  /-- EXPSET (R135) -/
  exp : Nat
  /-- TRIG_ID (R135) -/
  trigId : Nat
  /-- points skipped (R135) -/
  skipped : Nat
  /-- head temperature before its first packet (R222) -/
  temp : Option Int
  /-- uptime at its exposure, ps: its trigger's target, or the arrival of a free-running line (R73) -/
  at' : Nat
  /-- its place in the output ring (R127, R229) -/
  slot : Nat
  deriving DecidableEq, Repr

/-- A line at some stage: its metadata and samples by plane. -/
structure PLine where
  /-- the line's metadata (R135) -/
  info : LineMeta
  /-- pixel values by plane -/
  planes : List (List Nat)
  deriving DecidableEq, Repr

/-- A statistics block being gathered (R150). -/
structure Stats where
  /-- lines counted (R150) -/
  lines : Nat
  /-- pixels counted (R150) -/
  pixels : Nat
  /-- per plane: min, max, zeros, saturated, sum, sum of squares -/
  sums : List (List Nat)
  /-- per plane histogram of 256 bins -/
  hist : List (List Nat)
  /-- sum by column (R151) -/
  profile : List Nat
  deriving DecidableEq, Repr

/-- The parameters a frame runs on, as in force when it opened (R330). -/
structure PlateCfg where
  /-- `plate.frame.mode` -/
  mode : Nat
  /-- `plate.width` -/
  width : Nat
  /-- `plate.in_bits` -/
  inBits : Nat
  /-- `plate.frame.height` -/
  height : Nat
  /-- `plate.fill_value` -/
  fill : Nat
  /-- black level on -/
  blackOn : Bool
  /-- black levels -/
  levels : List Nat
  /-- defect correction on -/
  dpcOn : Bool
  /-- `plate.ff.mode` -/
  ff : Nat
  /-- `plate.cfa.pattern` -/
  pattern : Nat
  /-- `plate.cfa.phase` -/
  phase : Nat
  /-- colour matrix coefficients -/
  coef : List Int
  /-- colour matrix offsets -/
  offs : List Int
  /-- output planes -/
  planes : Nat
  /-- crop, first column -/
  cropX : Nat
  /-- crop, width -/
  cropW : Nat
  /-- crop, first row -/
  cropY : Nat
  /-- crop, height -/
  cropH : Nat
  /-- column scaling -/
  sx : Nat
  /-- row scaling -/
  sy : Nat
  /-- `plate.out_bits` -/
  outBits : Nat
  /-- `plate.out.compress` -/
  compress : Bool
  /-- `plate.stats.point` -/
  statPoint : Nat
  /-- statistics, first column -/
  statX : Nat
  /-- statistics, width -/
  statW : Nat
  /-- histogram bin setting -/
  bin : Nat
  /-- histogram plane -/
  binPlane : Nat
  /-- `plate.unit` -/
  unit : Nat
  deriving DecidableEq, Repr

/-- A tap's copy of one frame (R148, R312, R313). -/
structure FTap where
  /-- number of the tap (R148) -/
  tap : Nat
  /-- tap point (R148) -/
  point : Nat
  /-- compressed output (R145) -/
  compress : Bool
  /-- 0 not decided, 1 copying, 2 not copied -/
  st : Nat
  /-- lines held at the tap point until the decision -/
  held : List PLine
  /-- first sample of each plane of the line before, for compression (R145) -/
  prev0 : List (Option Nat)
  /-- lines written -/
  lines : Nat
  deriving DecidableEq, Repr

/-- A preview of one frame (R149). -/
structure FPrev where
  /-- number of the preview (R149) -/
  idx : Nat
  /-- first column (R149) -/
  x0 : Nat
  /-- columns (R149) -/
  width : Nat
  /-- column reduction (R149) -/
  sx : Nat
  /-- row reduction (R149) -/
  sy : Nat
  /-- output depth (R149) -/
  bits : Nat
  /-- lines gathered for the next output line (R149) -/
  group : List PLine
  /-- records of the frame so far -/
  recs : Bytes
  /-- lines written -/
  lines : Nat
  deriving DecidableEq, Repr

/-- A frame of a stream from its first line to its last output line (R128, R136). -/
structure Frame where
  /-- frame number (R128) -/
  no : Nat
  /-- frame flags so far (R136) -/
  flags : Nat
  /-- input lines formed, and of these MISSING -/
  lines : Nat
  /-- lines missing -/
  missing : Nat
  /-- output lines made -/
  outLines : Nat
  /-- stamp of its first line -/
  firstStamp : Int
  /-- stamp of its last line -/
  lastStamp : Int
  /-- uptime at the exposure of its last line, ps (R73) -/
  lastAt : Nat
  /-- EXPSET of its first line (R154) -/
  exp : Nat
  /-- TB of its first line -/
  tbFirst : Nat
  /-- line stamps in order, for the STAMP record (R78) -/
  stamps : List Int
  /-- its first line has begun to enter plate memory (R88) -/
  entered : Bool
  /-- a STAMP record is due (R88), and the flags of R74 gathered for it -/
  legal : Bool
  /-- flags for Meridian's records (R73) -/
  recFlags : Nat
  /-- delivered under ACQUIRE (R337) -/
  acquire : Bool
  /-- no further line enters -/
  closed : Bool
  /-- FRAME_START has been made -/
  started : Bool
  /-- configuration of the frame (R128) -/
  cfg : PlateCfg
  /-- taps that take it (R148) -/
  taps : List FTap
  /-- previews that take it (R149) -/
  prevs : List FPrev
  /-- statistics so far; none where the frame has none (R150) -/
  stats : Option Stats
  /-- rows for the statistics whose output line is not yet decided: line index, flags, rows (R150) -/
  statWait : List (Nat × Nat × List (List Nat))
  /-- lines waiting for their vertical group (R144) -/
  group : List PLine
  /-- first stamp of the frame before, none for the stream's first (R312) -/
  prevFirst : Option Int
  deriving DecidableEq, Repr

/-- An item of an output or web ring (R145, R229, R295). -/
inductive RingItem where
  | start (frame planes sampleBytes : Nat) (coded : Bool) (width : Nat)
  | line (l : PLine) (bits : Nat) (coded : Bool) (needTile needHost : Bool)
  | fin (frame : Nat) (rec : Bytes)
  deriving DecidableEq, Repr

/-- The two tables of R147. -/
structure Tables where
  /-- defect map (R139) -/
  defect : List Nat
  /-- flat-field table (R140) -/
  flat : List Nat
  deriving DecidableEq, Repr

structure Stream where
  /-- running or STOPPED (R127) -/
  running : Bool
  /-- HOLD has placed itself on the stream (R134) -/
  held : Bool
  /-- HOLD or a stop waits for the triggered lines (R134): 0 none, 1 HOLD, 2 stop -/
  ending : Nat
  /-- frame F at which a waiting HOLD places itself (R345) -/
  holdAt : Option Nat
  /-- next frame number -/
  frameNo : Nat
  /-- frames not yet output whole, oldest first; the last may be open -/
  frames : List Frame
  /-- line in assembly (R130) -/
  asm : Option Asm
  /-- triggers whose lines are expected, oldest first (R131) -/
  expect : List Expect
  /-- AREA: the trigger that exposed the frame in progress -/
  areaExp : Option Expect
  /-- head LINE of the last line (R132) -/
  lastLine : Option Nat
  /-- EXPSET and stamp of the last line received -/
  lastExp : Nat
  /-- stamp of the last line received -/
  lastStamp : Int
  /-- row counter y of the next line (R141) -/
  rowY : Nat
  /-- rows of the present run after flat-field with their y, oldest first; next row to output; first row of the run;
  the next line begins a run (R142) -/
  rows : List (Nat × PLine)
  /-- next row to output (R142) -/
  nextRow : Nat
  /-- first row of the run (R142) -/
  runTop : Nat
  /-- the next line begins a run (R142) -/
  newRun : Bool
  /-- output ring: records and lines not yet read, oldest first (R133, R145) -/
  ring : List RingItem
  /-- tables in force (R147) -/
  active : Tables
  /-- defect map loaded, not yet in force (R147) -/
  pendDefect : Option (List Nat)
  /-- flat-field table loaded, not yet in force (R147) -/
  pendFlat : Option (List Nat)
  /-- modes in force on the stream (R336) -/
  modes : Nat
  /-- plate memory allocated, bytes (R127) -/
  mem : Nat
  /-- first stamp of the last closed frame -/
  prevFirst : Option Int
  /-- lines still due in the frame that a HOLD, cleared since, ends (R134) -/
  toHold : Nat
  /-- lines begun in the assembly buffer (R127) -/
  asmNo : Nat
  /-- lines stored in the output ring (R127) -/
  ringNo : Nat
  /-- exposure sets sent and not yet seen in a line, oldest first (R154) -/
  sets : List Nat
  deriving DecidableEq, Repr

def Stream.reset : Stream :=
  ⟨false, false, 0, none, 0, [], none, [], none, none, 0, 0, 0, [], 0, 0, true, [], ⟨[], []⟩, none, none, 0, 0, none, 0,
    0, 0, []⟩

/-- Arming of a tap (R312, R313). -/
structure Tap where
  /-- an ASYNC event selected the next frame; it is being copied -/
  armed : Bool
  /-- the frame selected is being copied (R312) -/
  busy : Bool
  /-- POS tags accepted, with their axes -/
  tags : List (Nat × Int)
  deriving DecidableEq, Repr

def Tap.reset : Tap := ⟨false, false, []⟩

/-! ## Nibs (R157 to R189) -/

/-- A program container: header, code, constant section, signature block (R176). -/
structure Prog where
  /-- header, 128 bytes (R176) -/
  hdr : Bytes
  /-- code (R176) -/
  code : Bytes
  /-- constant section (R176) -/
  const : Bytes
  /-- signature block (R176) -/
  sig : Bytes
  deriving DecidableEq, Repr

/-- One loop of the loop stack: first and last instruction, iterations left (R171). -/
structure LoopEnt where
  /-- first instruction of the body -/
  first : Nat
  /-- last instruction of the body -/
  last : Nat
  /-- iterations left -/
  left : Nat
  deriving DecidableEq, Repr

structure Nib where
  /-- vector registers v0 to v31 (R157) -/
  v : FMap (BitVec 1024)
  /-- scalar registers s0 to s31 (R157) -/
  sreg : FMap W32
  /-- mask registers m0 to m7 (R157) -/
  m : FMap (BitVec 64)
  /-- lane e of bank b at key 64 b + e; signed 40-bit values -/
  acc : FMap Int
  /-- program counter (R157) -/
  pc : Nat
  /-- loop stack, innermost first (R157, R171) -/
  loops : List LoopEnt
  /-- tile status word (R174) -/
  status : Nat
  /-- local store (R159), region by region: result and scratch bytes stored since the tile started (none = not
  stored) -/
  store : FMap (Option Byte)
  /-- the constant section as this nib holds it (R159, R180) -/
  const : Bytes
  /-- descriptors and input buffers A and B as copied at dispatch (R196) -/
  descA : Bytes
  /-- descriptor B (R196) -/
  descB : Bytes
  /-- input buffer A (R159, R196) -/
  inA : Bytes
  /-- input buffer B (R159, R196) -/
  inB : Bytes
  /-- scratch granules stored since the tile started (R160) -/
  granules : FMap Bool
  /-- uncorrectable words of the store, by 32-byte word index (R252) -/
  poison : FMap Bool
  /-- current buffer: false A, true B; a tile has been started and has not ended -/
  curB : Bool
  /-- a tile has been started and has not ended (R185) -/
  running : Bool
  /-- tiles in buffers A and B, by tile number -/
  bufA : Option Nat
  /-- tile in buffer B -/
  bufB : Option Nat
  /-- records and edge values emitted (R165, R167); left is true -/
  recs : List Bytes
  /-- edge values emitted; left is true (R167) -/
  wouts : List (Bool × Int)
  /-- instructions executed by the tile (R186) -/
  icount : Nat
  /-- the program loaded, and the load it came from -/
  prog : Option Prog
  /-- slot whose program it holds; 255 none (R178) -/
  slot : Nat
  /-- number of the load it holds (R178) -/
  loadNo : Nat
  /-- a reload waits until the nib holds no tile (R178) -/
  reload : Bool
  /-- NIB_RESET's march test is under way (R188) -/
  marching : Bool
  /-- halted by a debugger (R391) -/
  halted : Bool
  /-- instructions a debugger lets it step (R391) -/
  steps : Nat
  /-- breakpoints (R391) -/
  breaks : List Nat
  /-- instants of hardware faults (R188), of the last instruction, of becoming IDLE, of the dispatches of A and B -/
  faults : List Nat
  /-- instant of the last completed instruction (R186) -/
  lastInstr : Nat
  /-- instant since which it is idle (R341) -/
  idleSince : Nat
  /-- instant the tile in buffer A was dispatched (R205) -/
  sentA : Nat
  /-- instant the tile in buffer B was dispatched (R205) -/
  sentB : Nat
  /-- bytes of the program region as they were before the present program was loaded (R159, R248) -/
  old : Bytes
  deriving DecidableEq, Repr

def Nib.reset : Nib :=
  ⟨.empty, .empty, .empty, .empty, 0, [], 0, .empty, [], [], [], [], [], .empty, .empty, false, false, none, none,
   [], [], 0, none, 255, 0, false, false, false, 0, [], [], 0, 0, 0, 0, []⟩

structure Slot where
  /-- content in effect (R178) -/
  active : Option Prog
  /-- content loaded and not yet in effect; frame F if the command named one (R178) -/
  pending : Option (Prog × Option Nat)
  /-- sequences that have reached the boundary at which the new content applies -/
  passed : List Nat
  /-- contents loaded between these two that took effect on some sequences, oldest first, with the sequences (R178) -/
  mid : List (Prog × List Nat)
  /-- number of loads, to tell contents apart (R178) -/
  loadNo : Nat
  deriving DecidableEq, Repr

def Slot.reset : Slot := ⟨none, none, [], [], 0⟩

/-! ## Ephemeris (R190 to R217) -/

/-- Where a tile stands. -/
inductive TileSt where
  | waiting | replay
  | inNib (n : Nat)
  | done
  | gap (cause : Nat)
  deriving DecidableEq, Repr

/-- What a nib hands over at TDONE (R165), or the fault the tile commits with (R200). -/
structure TileResult where
  /-- outcome of the commit status word (R201) -/
  outcome : Nat
  /-- image bytes (R165) -/
  image : Bytes
  /-- records (R165) -/
  recs : List Bytes
  /-- edge values (R167) -/
  wouts : List (Bool × Int)
  /-- tile status word (R174) -/
  status : Nat
  deriving DecidableEq, Repr

structure Tile where
  /-- number of the tile in the device -/
  no : Nat
  /-- sequence 0–67 and SEQ (R193) -/
  q : Nat
  /-- SEQ (R193) -/
  seq : Nat
  /-- program slot (R178) -/
  slot : Nat
  /-- number of the program load it was cut for (R178) -/
  load : Nat
  /-- frame number -/
  frame : Nat
  /-- first core column (R190) -/
  x0 : Nat
  /-- first core line (R190) -/
  y0 : Nat
  /-- core width (R190) -/
  coreW : Nat
  /-- core height (R190) -/
  coreH : Nat
  /-- stamp of its first line (R192) -/
  stamp0 : Int
  /-- stamps of the core lines, for defect records (R166) -/
  stamps : List Int
  /-- `nib.slot_budget` in force at its frame (R186) -/
  budget : Nat
  /-- descriptor and input buffer in Folio (R194) -/
  desc : Bytes
  /-- input buffer contents (R191) -/
  input : Bytes
  /-- Folio pages held (R191) -/
  pages : Nat
  /-- first of them, counted within Folio (R194, R247) -/
  page0 : Nat
  /-- where it stands -/
  st : TileSt
  /-- instant since which it waits for a nib, or for its commit (R215) -/
  since : Nat
  /-- nibs that failed it (R206) -/
  failed : List Nat
  /-- times replayed (R206) -/
  replays : Nat
  /-- result handed over (R165) -/
  result : Option TileResult
  /-- input lines dropped (R201) -/
  dropped : Bool
  /-- input poisoned (R201) -/
  poison : Bool
  /-- last tile of its frame (R199) -/
  lastOfFrame : Bool
  /-- image bytes released under CUTTHRU (R212) -/
  released : Nat
  deriving DecidableEq, Repr

/-- A grant of the ownership ledger (R209): 0 input buffer, 1 staging, 2 queue reservation, 3 credits. -/
structure Grant where
  /-- nib that holds the grant (R209) -/
  nib : Nat
  /-- 0 input buffer, 1 staging, 2 queue reservation, 3 port credits (R209) -/
  kind : Nat
  /-- how much (R209) -/
  amount : Nat
  /-- number of its tile (R209) -/
  tile : Nat
  deriving DecidableEq, Repr

/-- An output line kept for cutting. -/
structure SLine where
  /-- the line -/
  line : PLine
  /-- its depth -/
  bits : Nat
  /-- first and last output line of its frame, of its run -/
  frameFirst : Bool
  /-- last line of its frame -/
  frameLast : Bool
  /-- first line of its run -/
  runFirst : Bool
  /-- last line of its run -/
  runLast : Bool
  /-- a line of an AREA frame, whose margins stay inside the frame (R164) -/
  area : Bool
  /-- its place among the output lines of its frame (R162) -/
  row : Nat
  deriving DecidableEq, Repr

/-- A gap of a compute domain reset not yet written (R216): first SEQ, its frame and the last frame with tiles in
flight; the frame whose rest is lost with it, whose extent is awaited. -/
structure GapDue where
  /-- FIRST_SEQ (R216) -/
  first : Nat
  /-- FIRST_FRAME (R216) -/
  firstFrame : Nat
  /-- LAST_FRAME so far (R216) -/
  lastFrame : Nat
  /-- tiles of the frame still to be counted, none until its extent is known (R216) -/
  rest : Option Nat
  deriving DecidableEq, Repr

/-- What the tiles of one frame run on, taken when the frame begins (R162, R178, R190, R330). -/
structure TileCfg where
  /-- the frame -/
  frame : Nat
  /-- program slot of the frame (R178) -/
  slot : Nat
  /-- its program (R178) -/
  prog : Option Prog
  /-- number of its load -/
  load : Nat
  /-- TILE_W (R190) -/
  tileW : Nat
  /-- TILE_H (R190) -/
  tileH : Nat
  /-- arguments of the descriptor (R162) -/
  args : List Nat
  /-- budget (R186) -/
  budget : Nat
  deriving DecidableEq, Repr

/-- The cut state of one sequence (R192, R193). -/
structure Seqn where
  /-- lines kept for cutting, oldest first; how many of them stand before the present band; its next column -/
  lines : List SLine
  /-- first line of the present band (R192) -/
  pos : Nat
  /-- first column of the next tile (R192) -/
  col : Nat
  /-- frames with tiles not all settled: frame and first SEQ -/
  frames : List (Nat × Nat)
  /-- settings of the frames not yet cut whole, oldest first -/
  cfgs : List TileCfg
  /-- argument values that stay in force for the sequence up to frame F: key, value, frame F (R330) -/
  hold : List (Nat × Nat × Option Nat)
  /-- the wait of R195 has been counted -/
  stalled : Bool
  /-- gap of a compute domain reset not yet written (R216) -/
  gap : Option GapDue
  /-- records that wait for room in the commit queue, oldest first (R258) -/
  late : List Bytes
  deriving DecidableEq, Repr

def Seqn.reset : Seqn := ⟨[], 0, 0, [], [], [], false, none, []⟩

/-! ## Webs and span (R218 to R245) -/

/-- A web frame in progress (R228). -/
structure WFrame where
  /-- frame number (R228) -/
  no : Nat
  /-- frame flags so far (R228) -/
  flags : Nat
  /-- lines so far (R228) -/
  lines : Nat
  /-- stamp of its first line -/
  firstStamp : Int
  /-- stamp of its last line -/
  lastStamp : Int
  /-- EXPSET of its first line -/
  exp : Nat
  /-- ACQUIRE in force for it (R337) -/
  acquire : Bool
  /-- its FRAME_START is in the ring (R229) -/
  started : Bool
  /-- X_m of each member for the frame (R221) -/
  xs : List Int
  /-- seam sums by seam: lines, columns, nine SADs (R226) -/
  seams : List (Nat × Nat × List Nat)
  /-- member frames that its lines come from: stream and number (R228) -/
  drawn : List (Nat × Nat)
  deriving DecidableEq, Repr

/-- A member's output line as Ligature's line buffer holds it, with its frame's flags (R228). -/
structure WLine where
  /-- the line -/
  line : PLine
  /-- stream it comes from -/
  from' : Nat
  /-- flags of its frame, as they stand or stood at its end (R228) -/
  frameFlags : Nat
  /-- its place in the member's line buffer (R229) -/
  slot : Nat
  deriving DecidableEq, Repr

structure Web where
  /-- running or STOPPED (R219) -/
  running : Bool
  /-- HOLD has placed itself on the web (R345) -/
  held : Bool
  /-- HOLD or a stop waits for its lines: 0 none, 1 HOLD, 2 stop -/
  ending : Nat
  /-- frame F at which a waiting HOLD places itself (R345) -/
  holdAt : Option Nat
  /-- next frame number (R228) -/
  frameNo : Nat
  /-- frame in progress (R228) -/
  frame : Option WFrame
  /-- grid points slot 0 fired and not yet formed (R227) -/
  points : List Int
  /-- lines of each member, oldest first -/
  lines : FMap (List WLine)
  /-- last grid point fired by each member slot, none before the first -/
  fired : FMap (Option Int)
  /-- web ring: records and lines not yet read, oldest first (R229) -/
  ring : List RingItem
  /-- modes in force on the web (R336) -/
  modes : Nat
  /-- plate memory allocated, bytes (R218) -/
  mem : Nat
  /-- points still to form in the frame that a HOLD, cleared since, ends (R134, R228) -/
  toHold : Nat
  /-- lines stored in the web ring (R229) -/
  ringNo : Nat
  /-- lines stored in each member's line buffer (R229) -/
  fed : FMap Nat
  deriving DecidableEq, Repr

def Web.reset : Web := ⟨false, false, 0, none, 0, none, [], .empty, .empty, [], 0, 0, 0, 0, .empty⟩

structure Span where
  /-- latest frame taken (R232) -/
  last : Option SyncInfo
  /-- consecutive valid frames of one leader and epoch; consecutive frames with small e; TB has been stepped (R241) -/
  validRun : Nat
  /-- consecutive frames with a small error (R241) -/
  settled : Nat
  /-- TB has been stepped (R235) -/
  stepped : Bool
  /-- leader and epoch in use; last epoch seen (R239) -/
  leader : Option (Nat × Nat)
  /-- last epoch seen (R239) -/
  seenEpoch : Option Nat
  /-- instant of the last valid frame, and of the last primary copy (R240, R241) -/
  lastValid : Nat
  /-- instant of the last primary copy (R240) -/
  primaryAt : Option Nat
  /-- frames sent, consecutive frames not returned, whether the last one has returned (R240) -/
  frameNo : Nat
  /-- own frames that have not returned in a row (R233) -/
  missed : Nat
  /-- the last own frame has returned (R233) -/
  returned : Bool
  /-- probe outstanding per port, number and instant; next probe number; per port, echoes and their sum up to 16 (R234) -/
  probes : FMap (Option (Nat × Nat))
  /-- number of the next PROBE (R234) -/
  probeNum : Nat
  /-- samples and their sum by port (R234) -/
  hops : FMap (Nat × Int)
  /-- 8 valid frames in a row have come since the lock sequence began (R241) -/
  counted : Bool
  /-- instant of the last steering of TB (R235) -/
  steerAt : Nat
  /-- a redundant copy whose primary copy has not come, and the instant it came (R240) -/
  spare : Option (Bytes × Nat)
  /-- a primary copy came bad, and no other copy of its frame has come yet (R240) -/
  primaryBad : Bool
  /-- instant of the last frame of its own (R233) -/
  sentAt : Option Nat
  /-- per port, instant of the last PROBE (R234) -/
  probeAt : FMap (Option Nat)
  /-- per port, a frame has been sent and its service slot not yet (R232) -/
  frameOpen : FMap (Option Bool)
  /-- per port, instant of the last service slot (R232) -/
  slotAt : FMap (Option Nat)
  /-- per port, service slots that wait for their turn: TYPE, PROBE_NUM, instant they were asked for (R232, R234) -/
  slots : FMap (List (Nat × Nat × Nat))
  deriving DecidableEq, Repr

def Span.reset : Span :=
  { last := none, validRun := 0, settled := 0, stepped := false, leader := none, seenEpoch := none, lastValid := 0
    primaryAt := none, frameNo := 0, missed := 0, returned := true, probes := .empty, probeNum := 0, hops := .empty
    counted := false, steerAt := 0, spare := none, primaryBad := false, sentAt := none, probeAt := .empty
    frameOpen := .empty, slotAt := .empty, slots := .empty }

/-! ## Queues and Quill (R257 to R301) -/

/-- One 32-byte queue word with its marks (R260). -/
structure QWord where
  /-- 32 data bytes -/
  data : Bytes
  /-- LAST mark -/
  last : Bool
  /-- POISON mark -/
  poison : Bool
  /-- TORN mark -/
  torn : Bool
  /-- its place among the queue's words of storage -/
  at' : Nat
  deriving DecidableEq, Repr

structure Queue where
  /-- words written and not yet read, oldest first -/
  words : List QWord
  /-- pointers, k + 1 bits (R260) -/
  wp : Nat
  /-- read pointer, k + 1 bits (R260) -/
  rp : Nat
  /-- words written of the open item, those already read included; 0 for no open item (R262) -/
  openLen : Nat
  /-- the item being written is being discarded (R258, R262) -/
  discard : Bool
  /-- what the producer is owed: 0 nothing, 1 FLUSHED, 2 OVERSIZE (R262, R266) -/
  owed : Nat
  /-- the consumer has taken part of the item at the head (R266) -/
  partRead : Bool
  /-- a TORN marker is due at the next read (R266) -/
  tornDue : Bool
  /-- PINGPONG: bank being filled, bank being read (R261) -/
  bankW : Bool
  /-- PINGPONG: banks handed over and not yet empty (R261) -/
  fullBanks : Nat
  /-- the item in part taken has ended with the last word taken (R213, R299) -/
  cutOff : Bool
  /-- words reserved by Ephemeris (R258) -/
  reserved : Nat
  /-- cut-through threshold in force for the item at the head (R339) -/
  cut : Nat
  deriving DecidableEq, Repr

def Queue.reset : Queue := ⟨[], 0, 0, 0, false, 0, false, false, false, 0, false, 0, 0⟩

/-- A descriptor a channel holds (R281). -/
structure Desc where
  /-- its address -/
  addr : Nat
  /-- its 64 bytes -/
  words : Bytes
  /-- bytes moved so far -/
  moved : Nat
  deriving DecidableEq, Repr

/-- What a channel does next. -/
inductive ChPhase where
  | none
  | fetch (addr : Nat)
  | fill
  | link (addr : Nat)
  deriving DecidableEq, Repr

structure Chan where
  /-- QCn_STATUS STATE: 0 IDLE, 1 RUN, 2 TAIL_WAIT, 3 STOPPING, 4 STOPPED, 5 FETCH_ERROR, 6 HELD (R274) -/
  state : Nat
  /-- state to return to when HELD ends -/
  heldFrom : Nat
  /-- QCn_EVENTS (R274) -/
  events : Nat
  /-- LAST_CODE (R274) -/
  lastCode : Nat
  /-- DONE_COUNT (R274) -/
  doneCount : Nat
  /-- what it does next (R281, R287) -/
  phase : ChPhase
  /-- descriptor held (R281) -/
  desc : Option Desc
  /-- a doorbell rang while it ran (R287) -/
  pendFlag : Bool
  /-- credit in 1/256 byte and the rt it was last brought up (R291) -/
  credit : Int
  /-- instant of the last credit step, rt (R292) -/
  creditAt : Nat
  /-- bytes of the record in progress not yet written, its TYPE; more of its words are to come from the queue; its line
  still stands in the ring (R280, R297) -/
  rest : Bytes
  /-- type of the record in progress -/
  restType : Nat
  /-- the record in progress goes on -/
  more : Bool
  /-- a ring line is held until written (R280) -/
  ringHeld : Bool
  /-- records waiting on a metadata channel (R298) -/
  metas : List Bytes
  /-- IMAGE: frame in progress, excess discarded -/
  image : Option Nat
  /-- the frame in progress is truncated (R298) -/
  truncated : Bool
  /-- first samples of the previous line of the frame, by plane (R146) -/
  prev0 : List (Option Nat)
  /-- bytes of the record in progress still in its queue (R297, R299) -/
  left : Nat
  /-- SRC_KIND and SRC_INDEX of the record in progress (R293) -/
  restSrc : Nat × Nat
  /-- rate in force since its last request (R291) -/
  rate : Nat
  /-- IMAGE: bytes written of the ring's next line (R298) -/
  lineAt : Nat
  /-- host-to-device bytes read and not yet in the queue (R258) -/
  feed : Bytes
  deriving DecidableEq, Repr

def Chan.reset : Chan :=
  ⟨0, 0, 0, 0, 0, .none, none, false, 0, 0, [], 0, false, false, [], none, false, [], 0, (0, 0), 0, 0, []⟩

structure Quill where
  /-- shared credits: previews, and the partner credit of rule a (R292, R346, R347) -/
  survey : Int
  /-- shared ACQUIRE credit (R347) -/
  acq : Int
  /-- shared TAP credit (R347) -/
  tap : Int
  /-- instant of the last credit step, rt (R292) -/
  at' : Nat
  /-- MSI-X: masked and pending vectors of each function; Bus Master Enable -/
  masked0 : FMap Bool
  /-- PF1 vectors masked (R272) -/
  masked1 : FMap Bool
  /-- PF0 messages pending (R276) -/
  pend0 : FMap Bool
  /-- PF1 messages pending (R276) -/
  pend1 : FMap Bool
  /-- Bus Master Enable of PF0 (R280) -/
  bme0 : Bool
  /-- Bus Master Enable of PF1 (R272) -/
  bme1 : Bool
  /-- address and data words of PF0's MSI-X table: word k of entry v at 4 v + k (R272) -/
  table0 : FMap Nat
  /-- the same of PF1 -/
  table1 : FMap Nat
  /-- largest read request, bytes (R270) -/
  mrrs : Nat
  deriving DecidableEq, Repr

def Quill.reset : Quill := ⟨0, 0, 0, 0, .empty, .empty, .empty, .empty, false, false, .empty, .empty, 512⟩

/-! ## Ductus (R302 to R315) -/

structure Dux where
  /-- events accepted, for identities (R303) -/
  epoch : Nat
  /-- accepted events since the divider restarted -/
  div : Nat
  deriving DecidableEq, Repr

def Dux.reset : Dux := ⟨0, 0⟩

/-! ## Pacing, reset, security, Almanac -/

structure Gate where
  /-- instant of the last change of the level -/
  since : Nat
  /-- instant of the last halving by a trip, for coinciding trips; level before a restore step at `since` (R358) -/
  tripAt : Option Nat
  /-- level before a restore step at `since` (R358) -/
  before : Option Nat
  deriving DecidableEq, Repr

def Gate.reset : Gate := ⟨0, none, none⟩

/-- A droop sensor: tripped, and the instant it last cleared (R356, R358). -/
structure Droop where
  /-- tripped (R356) -/
  tripped : Bool
  /-- instant it last cleared (R358) -/
  clearAt : Option Nat
  deriving DecidableEq, Repr

def Droop.reset : Droop := ⟨false, none⟩

/-- Reset, boot and power (R362 to R381). -/
structure Rst where
  /-- READY of ID_STATE (R274) -/
  ready : Bool
  /-- 0 flash A, 1 flash B, 2 host load, 3 service USB (R274) -/
  image : Nat
  /-- ID_FW (R274) -/
  fwVersion : Nat
  /-- the loader of R372 serves mailbox 0; a started image has yet to set READY, since; flash slots this boot has tried,
  one bit each -/
  loader : Bool
  /-- instant the image that starts was started (R371) -/
  starting : Option Nat
  /-- slots tried in this boot, bit by slot (R371) -/
  tried : Nat
  /-- length of the host-loaded or USB image checked last, and whether it has set READY (R374) -/
  runLen : Nat
  /-- a warm reset starts the kept image again (R372) -/
  kept : Bool
  /-- image buffer of BOOT_LOAD, kept in private memory (R374) -/
  buffer : Mem
  /-- PLL lock of tiles 0–3 and the PCIe edge 4; forced out of reset early -/
  unlocked : FMap Bool
  /-- tiles in WAIT_LOCK (R370) -/
  waitLock : FMap Bool
  /-- a reset due: instant and 0 cold, 1 warm, with its cause (R365, R383, R409) -/
  due : Option (Nat × Nat × Nat)
  /-- the warm reset that FATAL announced: instant and cause (R365) -/
  fatalAt : Option (Nat × Nat)
  /-- a power transition under way: target; a later pwr.target write (R380) -/
  moving : Option Nat
  /-- power state asked for during a transition (R379) -/
  nextTarget : Option Nat
  /-- BAR writes held in P3 (R379) -/
  heldWrites : List (Bar × Nat × Nat × Nat)
  /-- PE_PERST_N is low (R365) -/
  perstLow : Bool
  /-- PCI Express generation and width (R274) -/
  gen : Nat
  /-- WIDTH of ID_LINK (R274) -/
  width : Nat
  /-- USB VBUS above 4 V (R397) -/
  vbus : Bool
  /-- the service port is attached (R397) -/
  attached : Bool
  /-- VFIELD within its range for 1 ms (R61, R423) -/
  vfieldOk : Bool
  /-- VFIELD, mV (R423) -/
  vfieldMv : Nat
  /-- the cold release is under way: a cold reset has come and COLD_RESET has not run -/
  coldPending : Bool
  /-- a warm reset stands (R365) -/
  warmPending : Bool
  /-- the boot ROM waits for a download (R373) -/
  dfu : Bool
  deriving DecidableEq, Repr

def Rst.reset : Rst :=
  ⟨false, 0, 0, false, none, 0, 0, false, .empty, .empty, .empty, none, none, none, none, [], false, 6, 16, false,
   false, false, 0, true, false, false⟩

/-- Security and debug (R382 to R396). -/
structure Sec where
  /-- hashes of fused owner keys: program, debug, lifecycle (R385) -/
  keys : FMap Bytes
  /-- challenge: number, instant, used (R392) -/
  chalNo : Nat
  /-- instant of the open challenge (R392) -/
  chalAt : Option Nat
  /-- consecutive failures; DEBUG_CHALLENGE refused until -/
  fails : Nat
  /-- instant until which DEBUG_CHALLENGE is closed (R392) -/
  lockUntil : Nat
  /-- end of the grant's lifetime -/
  grantEnd : Option Nat
  /-- trace ring, newest first, 16-byte entries (R391) -/
  trace : List Bytes
  /-- number of trace records written (R342) -/
  traceNo : Nat
  /-- Scribe is halted by a debugger (R391) -/
  scribeHalted : Bool
  /-- Scribe's breakpoints (R391) -/
  scribeBreaks : List Nat
  /-- active level signalled to Meridian (R89) -/
  merLevel : Nat
  /-- pending flash-key erasure (R384) -/
  flashKeyErased : Bool
  /-- TAP instruction: 0 BYPASS, 1 IDCODE, 2 SAMPLE/PRELOAD, 3 EXTEST, 4 internal scan (R391, R393) -/
  tapIr : Nat
  deriving DecidableEq, Repr

def Sec.reset : Sec := ⟨.empty, 0, none, 0, 0, none, [], 0, false, [], 0, false, 0⟩

/-- A flash image slot as the boot ROM checks it (R389, R390). -/
structure FwSlot where
  /-- stored image: header, ciphertext, tag, signature block; none for the factory image -/
  stored : Option (Bytes × Bytes × Bytes × Bytes)
  /-- it holds the factory image -/
  factory : Bool
  /-- stage counter stored with it (R389) -/
  stage : Nat
  deriving DecidableEq, Repr

def FwSlot.empty : FwSlot := ⟨none, false, 0⟩

/-- Almanac (R397 to R410). -/
structure Alm where
  /-- firmware slot A (R401) -/
  slotA : FwSlot
  /-- firmware slot B (R401) -/
  slotB : FwSlot
  /-- staging session (R403) -/
  session : Option Session
  /-- boot record sequence number (R402) -/
  bootSeq : Nat
  /-- boot count (R401) -/
  bootCount : Nat
  /-- nib program store entries (R409) -/
  store : FMap (FMap (Option Byte))
  /-- length of each entry of the program store (R409) -/
  storeLen : FMap Nat
  /-- log records, newest first, 64 bytes (R408) -/
  log : List Bytes
  /-- when log records were written, by kind (R408) -/
  logTimes : List (Nat × Nat)
  /-- log records held back, by kind (R408) -/
  logHeld : FMap Nat
  /-- calendar at an instant: seconds and instant (R408) -/
  calAt : Nat
  /-- the calendar has been set (R409) -/
  calSet : Bool
  /-- event armed again after its hysteresis, by INT_MGMT bit and source (R399) -/
  disarmed : FMap Bool
  /-- sensors sampled since `alm.temp_max` was last read (R399) -/
  fresh : FMap Bool
  /-- P4 was entered on TEMP_CRIT and `pwr.target` not yet written back (R400) -/
  hot : Bool
  /-- last Scribe progress report, last Almanac report; trial since (R406, R407) -/
  scribeAt : Nat
  /-- instant at which the image on trial set READY (R406) -/
  trialAt : Option Nat
  deriving DecidableEq, Repr

def Alm.reset : Alm :=
  ⟨⟨none, true, 0⟩, .empty, none, 0, 0, .empty, .empty, [], [], .empty, 0, false, .empty, .empty, false, 0, none⟩

/-- A write that waits for its boundary (R330, R344): for a frame boundary of sequence 0–67, or frame F of it; 100 waits
for HOLD to clear, 101 for a reset. -/
structure PendWrite where
  /-- what it waits for: 0 to 67 a sequence's boundary, 100 HOLD, 101 a reset (R8, R344) -/
  owner : Nat
  /-- parameter -/
  id : Nat
  /-- its instance -/
  inst : Nat
  /-- its word -/
  word : Nat
  /-- value accepted -/
  value : Nat
  /-- frame F, if the batch named one (R330) -/
  frame : Option Nat
  deriving DecidableEq, Repr

/-- A mode change with AT_FRAME: masks and frame (R336). -/
structure ModeAt where
  /-- SET mask -/
  setM : Nat
  /-- CLEAR mask -/
  clrM : Nat
  /-- frame F -/
  frame : Nat
  deriving DecidableEq, Repr

/-- The whole device but for the stored words of the SRAM. -/
structure Dev where
  /-- parameter values last accepted (R330) -/
  acc : FMap Nat
  /-- parameter values in force, and every read-only value (R328, R330) -/
  frc : FMap Nat
  /-- values accepted that wait for their boundary (R330) -/
  writes : List PendWrite
  /-- mode changes placed at a frame F (R336) -/
  modeAt : List ModeAt
  /-- Meridian uptime, ps, and TB less uptime, ps (R10, R235) -/
  now : Nat
  /-- TB less uptime, ps (R235) -/
  tbOff : Int
  /-- what has left the block, newest first -/
  out : List Output
  /-- interrupt causes by source number (R277); PF1 causes: INT_MB 0–3, INT_MGMT 4–14 (R275) -/
  int0 : FMap Bool
  /-- PF1 interrupt causes: INT_MB 0 to 3, INT_MGMT 4 to 14 (R275) -/
  int1 : FMap Bool
  /-- vectors written to INT_MAP (R277) -/
  intMap : FMap Nat
  /-- upper halves latched by lower-half reads, by offset, PF1's from 2^18 (R5) -/
  latch : FMap (Option Nat)
  /-- mailboxes: PF0 0 to 15, PF1 16 to 19, service USB 20 (R274, R275, R397) -/
  mbs : FMap Mailbox
  /-- accepted doorbells, for their order (R323) -/
  doorbells : Nat
  /-- encoders (R30) -/
  encs : FMap Enc
  /-- position axes (R35) -/
  axes : FMap Axis
  /-- trigger generators (R45) -/
  trigs : FMap Trig
  /-- field inputs (R54) -/
  ins : FMap FieldIn
  /-- field outputs (R56) -/
  outs : FMap FieldOut
  /-- Meridian (R63) -/
  mer : Mer
  /-- lanes (R93) -/
  lanes : FMap Lane
  /-- heads (R114) -/
  heads : FMap Head
  /-- stream, head, sensor channel (R17) -/
  binds : List (Nat × Nat × Nat)
  /-- streams (R126) -/
  streams : FMap Stream
  /-- taps (R312) -/
  taps : FMap Tap
  /-- nibs (R157) -/
  nibs : FMap Nib
  /-- program slots (R178) -/
  slots : FMap Slot
  /-- tiles in flight, in the order cut (R194) -/
  tiles : List Tile
  /-- tiles cut since reset -/
  tileNo : Nat
  /-- tile sequences: streams 0 to 63, webs 64 to 67 (R193) -/
  seqs : FMap Seqn
  /-- Ephemeris's ledger of grants (R209) -/
  ledger : List Grant
  /-- instant of the last dispatch, hand-over, commit or gap (R215) -/
  ephAt : Nat
  /-- Folio size in force, MiB (R24) -/
  folioMib : Nat
  /-- webs (R218) -/
  webs : FMap Web
  /-- Collimator (R232) -/
  span : Span
  /-- poison marks of the words of the banks and the private region, by region and index (R252) -/
  poison : FMap Bool
  /-- pages of plate memory that a block has written since every word was last zeroed (R248) -/
  dirty : FMap Bool
  /-- words read in the present pass (R255) -/
  scrubbed : Nat
  /-- hardware queues (R257) -/
  queues : FMap Queue
  /-- Quill channels (R278) -/
  chans : FMap Chan
  /-- Quill's shared state (R272) -/
  quill : Quill
  /-- Ductus channels (R303) -/
  dux : FMap Dux
  /-- events fired or passed on and not yet delivered: channel and event (R308) -/
  flight : List (Nat × Event)
  /-- sinks that are busy (R311) -/
  sinks : FMap Bool
  /-- pace gates (R355) -/
  gates : FMap Gate
  /-- droop sensors (R356) -/
  droops : FMap Droop
  /-- reset, boot and power (R362) -/
  rst : Rst
  /-- security (R382) -/
  sec : Sec
  /-- Almanac (R397) -/
  alm : Alm
  deriving DecidableEq, Repr

/-- The device right after a power-on reset (R362, R363): nothing released yet, READY clear.
DESIGN CHOICE, entry 1. -/
def Dev.reset : Dev where
  acc := .empty
  frc := .empty
  writes := []
  modeAt := []
  now := 0
  tbOff := 0
  out := []
  int0 := .empty
  int1 := .empty
  intMap := .empty
  latch := .empty
  mbs := .empty
  doorbells := 0
  encs := .empty
  axes := .empty
  trigs := .empty
  ins := .empty
  outs := .empty
  mer := .reset
  lanes := .empty
  heads := .empty
  binds := (List.range 64).map (fun i => (i, i / 2, i % 2))
  streams := .empty
  taps := .empty
  nibs := .empty
  slots := .empty
  tiles := []
  tileNo := 0
  seqs := .empty
  ledger := []
  ephAt := 0
  folioMib := 32
  webs := .empty
  span := .reset
  poison := .empty
  dirty := .empty
  scrubbed := 0
  queues := .empty
  chans := .empty
  quill := .reset
  dux := .empty
  flight := []
  sinks := .empty
  gates := .empty
  droops := .empty
  rst := .reset
  sec := .reset
  alm := .reset

/-- The block: the commands that wait, the SRAM, the device. -/
structure State where
  /-- commands waiting, first in, first out -/
  pending : List Instr
  /-- stored words of the banks and the private region that differ from a zero word with valid check bytes, by region
  and index (R248, R249) -/
  sram : FMap Bytes
  /-- everything else -/
  dev : Dev
  deriving DecidableEq, Repr

/-- After a power-on reset: no command waits, memory is zero. DESIGN CHOICE, entry 1. -/
def State.reset : State := ⟨[], .empty, .reset⟩

end Sys2Proof.Machine
end

