-- ==== Sys2Proof/Machine/Ops.lean ====
section
/-! DEFINITION. The named operations over the state: memories, parameters, counters, interrupts, records of the log and
the trace, outputs. -/
namespace Sys2Proof.Machine

/-- What a meaning answers. -/
abbrev Out := Host.Outcome State Fault Refusal

/-- A command that reaches neither the queue nor the stored words of the SRAM: its effect on the device. -/
def State.onDev (s : State) (f : Dev → Dev) : Out := .next { s with dev := f s.dev }

/-! ## Byte memories -/

def Mem.rd (m : Mem) (a : Nat) : Byte := m.get 0 a

def Mem.read (m : Mem) (a n : Nat) : Bytes := (List.range n).map (fun i => m.rd (a + i))

def Mem.write (m : Mem) (a : Nat) : Bytes → Mem
  | [] => m
  | b :: r => Mem.write (m.set 0 a b) (a + 1) r

def Mem.ofBytes (b : Bytes) : Mem := Mem.write .empty 0 b

/-! ## Parameters (R328 to R330) -/

/-- The default of the word a key names. -/
def pdef (k : Nat) : Nat := if k % 16 = 0 then paramDefault (k / 16 / 1024) (k / 16 % 1024) else 0

/-- A value in force, by key. -/
def Dev.pk (s : Dev) (k : Nat) : Nat := s.frc.get (pdef k) k

def Dev.setK (s : Dev) (k v : Nat) : Dev := { s with frc := s.frc.set (pdef k) k v }

/-- The value last accepted, by key. -/
def Dev.ak (s : Dev) (k : Nat) : Nat := s.acc.get (pdef k) k

def Dev.setA (s : Dev) (k v : Nat) : Dev := { s with acc := s.acc.set (pdef k) k v }

/-- The value of a parameter in force. -/
def Dev.pv (s : Dev) (id inst : Nat) : Nat := s.pk (pkey id inst 0)

/-- The same as a signed number, for a type of `w` bits. -/
def Dev.ps (s : Dev) (w id inst : Nat) : Int := ofTwos w (s.pv id inst)

def Dev.setP (s : Dev) (id inst v : Nat) : Dev := s.setK (pkey id inst 0) v

/-- Whether a VALUE of 64 bits is the extension of the type and within the ranges of a row (R328). -/
def PRow.accepts (r : PRow) (v : Nat) : Bool :=
  let inRange := fun (x : Int) =>
    (r.ranges.isEmpty || r.ranges.any (fun p => decide (p.1 ≤ x) && decide (x ≤ p.2))) && decide (x % (Nat.max r.step 1 : Nat) = 0)
  let signed := fun (w : Nat) => ofTwos 64 v == ofTwos w v && inRange (ofTwos 64 v)
  match r.ty with
  | .u w => decide (v < 2 ^ w) && inRange v
  | .s w => signed w
  | .fix m n => signed (m + n)
  | .bool => decide (v < 2)
  | .enum l => l.contains v

/-- Width of a parameter's value. -/
def PType.width : PType → Nat
  | .u w => w
  | .s w => w
  | .bool => 1
  | .enum _ => 8
  | .fix m n => m + n

/-- A count that stops at its end or wraps there (R439). -/
def countTo (id v : Nat) : Nat :=
  match paramRow id with
  | none => v
  | some r =>
    match r.ends with
    | .sat => Nat.min v (2 ^ r.ty.width - 1)
    | .wrap => v % 2 ^ r.ty.width
    | .none => v

/-- Add `n` to a count (R439). -/
def Dev.bump (s : Dev) (id inst n : Nat) : Dev := s.setP id inst (countTo id (s.pv id inst + n))

/-- Keep the larger value. -/
def Dev.peak (s : Dev) (id inst v : Nat) : Dev :=
  if s.pv id inst < v then s.setP id inst (countTo id v) else s

/-! ## Time (R10) -/

/-- The instant a command happens at; time does not run back. DESIGN CHOICE, entry 5. -/
def Dev.at' (s : Dev) (t : Nat) : Dev := { s with now := Nat.max s.now t }

def psPerRt : Nat := 6400

/-- Meridian uptime in rt. -/
def Dev.rt (s : Dev) : Nat := s.now / psPerRt

/-- TB in ps and in ns. -/
def Dev.tbPs (s : Dev) : Nat := ((s.now : Int) + s.tbOff).toNat

def Dev.tb (s : Dev) : Nat := s.tbPs / 1000

/-- TB in ns at an instant. -/
def Dev.tbAt (s : Dev) (t : Nat) : Nat := ((t : Int) + s.tbOff).toNat / 1000

def us (n : Nat) : Nat := n * 1000000
def ms (n : Nat) : Nat := n * 1000000000
def secs (n : Nat) : Nat := n * 1000000000000

/-! ## Outputs -/

/-- Something leaves the block. DESIGN CHOICE, entry 8. -/
def Dev.emit (s : Dev) (o : Output) : Dev := { s with out := o :: s.out }

/-! ## Objects -/

def Dev.mb (s : Dev) (m : Nat) : Mailbox := s.mbs.get .reset m
def Dev.setMb (s : Dev) (m : Nat) (x : Mailbox) : Dev := { s with mbs := s.mbs.set .reset m x }
def Dev.enc (s : Dev) (e : Nat) : Enc := s.encs.get .reset e
def Dev.setEnc (s : Dev) (e : Nat) (x : Enc) : Dev := { s with encs := s.encs.set .reset e x }
def Dev.axis (s : Dev) (x : Nat) : Axis := s.axes.get .reset x
def Dev.setAxis (s : Dev) (x : Nat) (a : Axis) : Dev := { s with axes := s.axes.set .reset x a }
def Dev.trig (s : Dev) (i : Nat) : Trig := s.trigs.get .reset i
def Dev.setTrig (s : Dev) (i : Nat) (x : Trig) : Dev := { s with trigs := s.trigs.set .reset i x }
def Dev.fin (s : Dev) (i : Nat) : FieldIn := s.ins.get .reset i
def Dev.setFin (s : Dev) (i : Nat) (x : FieldIn) : Dev := { s with ins := s.ins.set .reset i x }
def Dev.fout (s : Dev) (i : Nat) : FieldOut := s.outs.get .reset i
def Dev.setFout (s : Dev) (i : Nat) (x : FieldOut) : Dev := { s with outs := s.outs.set .reset i x }
def Dev.lane (s : Dev) (i : Nat) : Lane := s.lanes.get .reset i
def Dev.setLane (s : Dev) (i : Nat) (x : Lane) : Dev := { s with lanes := s.lanes.set .reset i x }
def Dev.head (s : Dev) (i : Nat) : Head := s.heads.get .reset i
def Dev.setHead (s : Dev) (i : Nat) (x : Head) : Dev := { s with heads := s.heads.set .reset i x }
def Dev.stream (s : Dev) (i : Nat) : Stream := s.streams.get .reset i
def Dev.setStream (s : Dev) (i : Nat) (x : Stream) : Dev := { s with streams := s.streams.set .reset i x }
def Dev.tap (s : Dev) (i : Nat) : Tap := s.taps.get .reset i
def Dev.setTap (s : Dev) (i : Nat) (x : Tap) : Dev := { s with taps := s.taps.set .reset i x }
def Dev.nib (s : Dev) (i : Nat) : Nib := s.nibs.get .reset i
def Dev.setNib (s : Dev) (i : Nat) (x : Nib) : Dev := { s with nibs := s.nibs.set .reset i x }
def Dev.slot (s : Dev) (i : Nat) : Slot := s.slots.get .reset i
def Dev.setSlot (s : Dev) (i : Nat) (x : Slot) : Dev := { s with slots := s.slots.set .reset i x }
def Dev.seqn (s : Dev) (i : Nat) : Seqn := s.seqs.get .reset i
def Dev.setSeqn (s : Dev) (i : Nat) (x : Seqn) : Dev := { s with seqs := s.seqs.set .reset i x }
def Dev.web (s : Dev) (i : Nat) : Web := s.webs.get .reset i
def Dev.setWeb (s : Dev) (i : Nat) (x : Web) : Dev := { s with webs := s.webs.set .reset i x }
def Dev.queue (s : Dev) (i : Nat) : Queue := s.queues.get .reset i
def Dev.setQueue (s : Dev) (i : Nat) (x : Queue) : Dev := { s with queues := s.queues.set .reset i x }
def Dev.chan (s : Dev) (i : Nat) : Chan := s.chans.get .reset i
def Dev.setChan (s : Dev) (i : Nat) (x : Chan) : Dev := { s with chans := s.chans.set .reset i x }
def Dev.duct (s : Dev) (i : Nat) : Dux := s.dux.get .reset i
def Dev.setDuct (s : Dev) (i : Nat) (x : Dux) : Dev := { s with dux := s.dux.set .reset i x }
def Dev.gate (s : Dev) (i : Nat) : Gate := s.gates.get .reset i
def Dev.setGate (s : Dev) (i : Nat) (x : Gate) : Dev := { s with gates := s.gates.set .reset i x }

/-- Apply a change at each index of a list. -/
def Dev.forEach (s : Dev) (l : List Nat) (f : Dev → Nat → Dev) : Dev := l.foldl f s

/-! ## The mode word (R334) -/

abbrev M.acquire : Nat := 0
abbrev M.survey : Nat := 1
abbrev M.tap : Nat := 2
abbrev M.cutthru : Nat := 3
abbrev M.span : Nat := 4
abbrev M.legal : Nat := 5
abbrev M.replay : Nat := 6
abbrev M.loop : Nat := 7
abbrev M.trace : Nat := 8
abbrev M.quiet : Nat := 9
abbrev M.update : Nat := 10
abbrev M.hold : Nat := 11

def Dev.mode (s : Dev) (i : Nat) : Bool := bit (s.pv P.modeWord 0) i

/-- Put a new mode word; a change is counted (R348). -/
def Dev.putMode (s : Dev) (w : Nat) : Dev :=
  if s.pv P.modeWord 0 = w then s else (s.setP P.modeWord 0 w).bump P.modeChangeCount 0 1

def Dev.putModeBit (s : Dev) (i : Nat) (b : Bool) : Dev := s.putMode (putBit (s.pv P.modeWord 0) i b)

/-! ## Interrupts (R276, R277) -/

/-- Vector of a PF0 interrupt source at reset (R277). -/
def vectorAtReset (src : Nat) : Nat :=
  if src < 64 then src
  else if src < 128 then 64 + (src - 64) % 16
  else if src < 144 then 80 + (src - 128)
  else if src < 272 then 96 + (src - 144)
  else if src < 304 then 224 + (src - 272)
  else 64

def Dev.vectorOf (s : Dev) (src : Nat) : Nat := s.intMap.get (vectorAtReset src) src

/-- An MSI-X message: its table entry gives address and data (R272, R276). PRESUMED, entry 78. -/
def Quill.msg (q : Quill) (fn : Fn) (v : Nat) : Output :=
  let t := match fn with | .pf0 => q.table0 | .pf1 => q.table1
  .msix fn v (t.get 0 (4 * v) + 2 ^ 32 * t.get 0 (4 * v + 1)) (t.get 0 (4 * v + 2))

/-- A message of a PF0 vector: sent, or pending while masked or Bus Master Enable is clear (R272, R276). After reset
every vector is masked. -/
def Dev.message0 (s : Dev) (v : Nat) : Dev :=
  if s.quill.bme0 && !(s.quill.masked0.get true v) then s.emit (s.quill.msg .pf0 v)
  else { s with quill := { s.quill with pend0 := s.quill.pend0.set false v true } }

def Dev.message1 (s : Dev) (v : Nat) : Dev :=
  if s.quill.bme1 && !(s.quill.masked1.get true v) then s.emit (s.quill.msg .pf1 v)
  else { s with quill := { s.quill with pend1 := s.quill.pend1.set false v true } }

/-- Source numbers of the two bits of INT_GLOBAL: 304 FATAL, 305 DOMAIN; both use the vector of source 304. -/
def srcVector (src : Nat) : Nat := if src = 305 then 304 else src

/-- A cause bit of PF0 is set: one message when it goes from 0 to 1 (R276). -/
def Dev.raise0 (s : Dev) (src : Nat) : Dev :=
  if s.int0.get false src then s
  else { s with int0 := s.int0.set false src true }.message0 (s.vectorOf (srcVector src))

/-- A cause bit of PF1: 0–3 INT_MB, 4–14 INT_MGMT bits 0–10; the vector has the same number (R275). -/
def Dev.raise1 (s : Dev) (src : Nat) : Dev :=
  if s.int1.get false src then s
  else { s with int1 := s.int1.set false src true }.message1 src

/-! ## Ductus firing (R303) -/

/-- Whether some sink or relay names a channel. -/
def Dev.listened (s : Dev) (c : Nat) : Bool :=
  (List.range 256).any (fun i => s.pv P.duxSrc (256 + i) == c)
    || (List.range 16).any (fun o => s.pv P.foFunction o == E.foFunction.EVENT && s.pv P.foSource o == c)
    || (List.range 32).any (fun h => s.pv P.duxHevSrc h == c)
    || (List.range 16).any (fun k => s.pv P.duxTapArm k == c)

/-- A channel passes an event on: it is on its way to the sinks and relays that name the channel. -/
def Dev.passOn (s : Dev) (c : Nat) (ev : Event) : Dev :=
  let s := s.bump P.duxFiredCount c 1
  if s.listened c then { s with flight := s.flight ++ [(c, ev)] } else s

/-- A fixed channel fires: an origin firing with the next EPOCH (R303). -/
def Dev.fire (s : Dev) (c : Nat) (pos : Bool) (axis : Nat) (tag : Int) : Dev :=
  let d := s.duct c
  (s.setDuct c { d with epoch := (d.epoch + 1) % 65536 }).passOn c ⟨c, d.epoch, 0, pos, axis, tag⟩

/-- An asynchronous origin firing: its tag is the TB instant (R303). -/
def Dev.fireAsync (s : Dev) (c : Nat) : Dev := s.fire c false 0 (s.tb : Int)

/-! ## The Almanac log (R408) and the trace (R391) -/

/-- Write a log record of a TYPE and SOURCE with the items it carries: at most 16 of one TYPE within one second, the
rest counted and reported in one record (R408). DESIGN CHOICE, entry 65. -/
def Dev.addLog (s : Dev) (ty src item1 item2 : Nat) : Dev :=
  let recent := s.alm.logTimes.filter (fun p => p.1 == ty && decide (s.now < p.2 + secs 1))
  if 16 ≤ recent.length then
    { s.bump P.almLogSuppressed 0 1 with
      alm := { s.alm with logHeld := s.alm.logHeld.set 0 ty (s.alm.logHeld.get 0 ty + 1) } }
  else
    let seq := s.pv P.almLogNextSeq 0
    let cal := if s.alm.calSet then s.pv P.almTimeS 0 + (s.now - s.alm.calAt) / secs 1 else 0
    let mk := fun (q ty a b : Nat) =>
      let body := le 4 q ++ le 2 ty ++ [Config.logSeverity ty] ++ le 1 src ++ le 8 s.tb ++ le 8 cal
        ++ le 4 s.alm.bootCount ++ (List.range 32).map (Config.logData ty a b)
      body ++ le 4 (crc32c body)
    let held := s.alm.logHeld.get 0 ty
    let recs := if held = 0 then [mk seq ty item1 item2] else [mk (seq + 1) ty item1 item2, mk seq 15 held ty]
    let s := { s with alm := { s.alm with
      log := recs ++ (if 65536 < recs.length + s.alm.log.length then s.alm.log.take 64512 else s.alm.log)
      logTimes := (ty, s.now) :: s.alm.logTimes.filter (fun p => decide (s.now < p.2 + secs 1))
      logHeld := s.alm.logHeld.set 0 ty 0 } }
    let s := s.setP P.almLogNextSeq 0 ((seq + recs.length) % 2 ^ 32)
    s.setP P.almLogOldestSeq 0 ((seq + recs.length - s.alm.log.length) % 2 ^ 32)

/-- Add a trace entry of 16 bytes to the ring of 4,096 (R391). -/
def Dev.addTrace (s : Dev) (kind num : Nat) : Dev :=
  let e := (List.range 16).map (Config.traceData s.tb kind num)
  { s with sec := { s.sec with trace := (e :: s.sec.trace).take 4096, traceNo := s.sec.traceNo + 1 } }

/-! ## Debug level (R342, R391) -/

/-- The active level: the grant while TRACE is set, D0 otherwise (R342). -/
def Dev.activeLevel (s : Dev) : Nat := if s.mode M.trace then s.pv P.secDebugGrant 0 else 0

/-! ## Power state (R378) -/

def Dev.inP (s : Dev) (p : Nat) : Bool := s.pv P.pwrState 0 == p

end Sys2Proof.Machine
end

