-- ==== Sys2Proof/Machine/Operands.lean ====
section
/-! DEFINITION. Operand forms of the nib instructions: lanes, masks, scalars, accumulators, the instruction word, and
the local store with its access rules (R157 to R161, R165, R168, R169). -/
namespace Sys2Proof.Machine

/-! ## Registers -/

/-- A scalar register; s0 reads zero (R157). An index above 31 reads as zero (R166). -/
def Nib.s (n : Nib) (r : Nat) : W32 := if r = 0 then 0 else if r < 32 then n.sreg.get 0 r else 0

/-- Write a scalar register; s0 ignores writes (R157). -/
def Nib.setS (n : Nib) (r : Nat) (v : W32) : Nib := if r = 0 then n else { n with sreg := n.sreg.set 0 r v }

def Nib.vr (n : Nib) (r : Nat) : BitVec 1024 := n.v.get 0 r
def Nib.mr (n : Nib) (r : Nat) : BitVec 64 := n.m.get 0 r
def Nib.setM (n : Nib) (r : Nat) (v : BitVec 64) : Nib := { n with m := n.m.set 0 r v }

/-- Lane `e` of accumulator bank `b`. -/
def Nib.ar (n : Nib) (b e : Nat) : Int := n.acc.get 0 (64 * b + e)
def Nib.setA (n : Nib) (b e : Nat) (v : Int) : Nib := { n with acc := n.acc.set 0 (64 * b + e) v }

/-- Width of a lane for EW (R169). -/
def laneWidth (ew : Nat) : Nat := if ew = 1 then 8 else 16

/-- The lanes of width `w`, lane 0 first. -/
def lanes (w : Nat) (v : BitVec 1024) : List Nat := (List.range (1024 / w)).map (fun i => v.toNat / 2 ^ (w * i) % 2 ^ w)

def ofLanes (w : Nat) (l : List Nat) : BitVec 1024 := BitVec.ofNat 1024 (l.foldr (fun x a => x % 2 ^ w + 2 ^ w * a) 0)

/-- Whether PRED enables mask bit `e` (R168). -/
def Nib.enabled (n : Nib) (f : NibF) (e : Nat) : Bool := if f.pred.val = 0 then true else bit (n.mr f.pred.val).toNat e

/-- Whether PRED enables lane `i` of width `w`: in I8P bit e governs lanes 2e and 2e + 1 (R157, R169). -/
def Nib.laneOn (n : Nib) (f : NibF) (w i : Nat) : Bool := n.enabled f (if w = 8 then i / 2 else i)

/-- Write lanes of width `w` to DST; excluded lanes keep their values (R169). -/
def Nib.putV (n : Nib) (f : NibF) (w : Nat) (vals : List Nat) : Nib :=
  let old := lanes w (n.vr f.dst.val)
  let new := (vals.zip old).zipIdx.map (fun p => if n.laneOn f w p.2 then p.1.1 else p.1.2)
  { n with v := n.v.set 0 f.dst.val (ofLanes w new) }

/-- Lane-wise over v[A] and v[B] with lanes of `w` bits. -/
def Nib.zipAt (n : Nib) (f : NibF) (w : Nat) (op : Nat → Nat → Nat → Nat) : Nib :=
  n.putV f w (((lanes w (n.vr f.a.val)).zip (lanes w (n.vr f.b.val))).map (fun p => op w p.1 p.2))

/-- Lane-wise over v[A] with lanes of `w` bits. -/
def Nib.mapAt (n : Nib) (f : NibF) (w : Nat) (op : Nat → Nat → Nat) : Nib :=
  n.putV f w ((lanes w (n.vr f.a.val)).map (op w))

/-- The same at the width EW selects. -/
def Nib.zipV (n : Nib) (f : NibF) (op : Nat → Nat → Nat → Nat) : Nib := n.zipAt f (laneWidth f.ew.val) op
def Nib.mapV (n : Nib) (f : NibF) (op : Nat → Nat → Nat) : Nib := n.mapAt f (laneWidth f.ew.val) op

/-! ## The instruction word (R168) -/

/-- CLASS and OP with the fields, as the 64-bit word. -/
def nibWord (cls op : Nat) (f : NibF) : Nat :=
  cls * 2 ^ 60 + op * 2 ^ 52 + f.dst.val * 2 ^ 47 + f.a.val * 2 ^ 42 + f.b.val * 2 ^ 37 + f.ew.val * 2 ^ 35
    + f.pred.val * 2 ^ 32 + f.imm.toNat

/-- IMM as a signed number (R168). -/
def simm (f : NibF) : Int := f.imm.toInt

/-- Rounding mode IMM[7:6] and shift IMM[4:0] or IMM[5:0] (R172). -/
def roundMode (f : NibF) : Nat := f.imm.toNat / 64 % 4
def shift5 (f : NibF) : Nat := f.imm.toNat % 32
def shift6 (f : NibF) : Nat := f.imm.toNat % 64

/-! ## The local store (R159, R160, R165) -/

def Nib.imageMax (n : Nib) : Nat := match n.prog with | some p => fld p.hdr 32 4 | none => 0
def Nib.recordMax (n : Nib) : Nat := match n.prog with | some p => fld p.hdr 36 4 | none => 0

/-- Whether an address lies in the record area (R165). -/
def Nib.inRecords (n : Nib) (a : Nat) : Bool :=
  decide (0x54000 + n.imageMax ≤ a) && decide (a < 0x54000 + n.imageMax + 32 * n.recordMax)

/-- What the program region holds: the container loaded, and beyond it what was there before. -/
def Nib.region0 (n : Nib) : Bytes :=
  let b := match n.prog with | some p => p.hdr ++ p.code | none => []
  b ++ n.old.drop b.length

/-- The stored byte at a nib address. What nothing has written reads 0: R248 leaves zeros, and by R175 no reading depends
on the tiles or programs before. DEDUCED, entry 41. -/
def Nib.byteAt (n : Nib) (a : Nat) : Byte :=
  if a < 0x10000 then n.region0.getD a 0
  else if a < 0x13E00 then n.const.getD (a - 0x10000) 0
  else if a < 0x13F00 then n.descA.getD (a - 0x13E00) 0
  else if a < 0x14000 then n.descB.getD (a - 0x13F00) 0
  else if a < 0x34000 then n.inA.getD (a - 0x14000) 0
  else if a < 0x54000 then n.inB.getD (a - 0x34000) 0
  else if n.inRecords a then n.recs.flatten.getD (a - (0x54000 + n.imageMax)) 0
  else (n.store.get none a).getD 0

/-- A byte of a run of bytes, which grows where it ends before. -/
def putAt (l : Bytes) (i : Nat) (b : Byte) : Bytes :=
  (if i < l.length then l else l ++ List.replicate (i + 1 - l.length) 0).set i b

/-- Put a stored byte, wherever it lies (a correction, a debugger's write). -/
def Nib.putByte (n : Nib) (a : Nat) (b : Byte) : Nib :=
  if a < 0x10000 then
    match n.prog with
    | some p =>
      if a < p.hdr.length then { n with prog := some { p with hdr := putAt p.hdr a b } }
      else if a < p.hdr.length + p.code.length then
        { n with prog := some { p with code := putAt p.code (a - p.hdr.length) b } }
      else { n with old := putAt n.old a b }
    | none => { n with old := putAt n.old a b }
  else if a < 0x13E00 then { n with const := putAt n.const (a - 0x10000) b }
  else if a < 0x13F00 then { n with descA := putAt n.descA (a - 0x13E00) b }
  else if a < 0x14000 then { n with descB := putAt n.descB (a - 0x13F00) b }
  else if a < 0x34000 then { n with inA := putAt n.inA (a - 0x14000) b }
  else if a < 0x54000 then { n with inB := putAt n.inB (a - 0x34000) b }
  else if n.inRecords a then
    let i := a - (0x54000 + n.imageMax)
    { n with recs := n.recs.modify (i / 32) (fun r => putAt r (i % 32) b) }
  else { n with store := n.store.set none a (some b) }

def Nib.putBytes (n : Nib) (a : Nat) : Bytes → Nib
  | [] => n
  | b :: r => Nib.putBytes (n.putByte a b) (a + 1) r

/-- Whether the program may load a byte: constants, the current descriptor and buffer, result and scratch (R159). -/
def Nib.loadable (n : Nib) (a : Nat) : Bool :=
  (decide (0x10000 ≤ a) && decide (a < 0x13E00))
  || (decide (0x13E00 ≤ a) && decide (a < 0x13F00) && !n.curB)
  || (decide (0x13F00 ≤ a) && decide (a < 0x14000) && n.curB)
  || (decide (0x14000 ≤ a) && decide (a < 0x34000) && !n.curB)
  || (decide (0x34000 ≤ a) && decide (a < 0x54000) && n.curB)
  || (decide (0x54000 ≤ a) && decide (a < 0x80000))

/-- Whether the program may store to a byte: result but for the record area, and scratch (R159, R160, R165). -/
def Nib.storable (n : Nib) (a : Nat) : Bool :=
  decide (0x54000 ≤ a) && decide (a < 0x80000) && !n.inRecords a

/-- Whether an address lies in a scratch granule not stored since the tile started (R160). -/
def Nib.blankGranule (n : Nib) (a : Nat) : Bool :=
  decide (0x74000 ≤ a) && !n.granules.get false ((a - 0x74000) / 64)

/-- What a program's load of one byte finds. -/
def Nib.progByte (n : Nib) (a : Nat) : Byte := if n.blankGranule a then 0 else n.byteAt a

/-- The error pattern given for a stored word; none: no error. -/
def errOf (errs : List (Nat × Bytes)) (k : Nat) : Bytes :=
  match errs.find? (fun p => p.1 == k) with | some p => slice p.2 0 35 | none => List.replicate 35 0

/-- One 32-byte word read under R250 to R252: the nib after, the number corrected, whether it came as poison, whether
the poison is new. -/
def Nib.checkWord (n : Nib) (w : Nat) (err : Bytes) : Nib × Nat × Bool × Bool :=
  if n.blankGranule (32 * w) then (n, 0, false, false)
  else if n.poison.get false w then (n, 0, true, false)
  else if err.all (· == 0) then (n, 0, false, false)
  else
    let d := (List.range 32).map (fun i => n.byteAt (32 * w + i))
    let c := (d ++ rsCheck d).zipWith (· ^^^ ·) err
    match rsRead c with
    | .good => (n.putBytes (32 * w) (slice c 0 32), 0, false, false)
    | .corrected _ _ => (n.putBytes (32 * w) (slice (rsFix c) 0 32), 1, false, false)
    | .uncorrectable => ({ n with poison := n.poison.set false w true }, 0, true, true)

/-- The words a load of `len` bytes meets, in order. -/
def wordsOf (a len : Nat) : List Nat := (List.range ((a + len - 1) / 32 - a / 32 + 1)).map (· + a / 32)

/-- Read the words of a load: the nib, corrected words, poison met, new poison. -/
def Nib.checkWords (n : Nib) (base : Nat) (errs : List (Nat × Bytes)) (ws : List Nat) : Nib × Nat × Bool × Nat :=
  ws.foldl (fun r w =>
    let (m, c, p, new) := r.1.checkWord w (errOf errs (base + w))
    (m, r.2.1 + c, r.2.2.1 || p, r.2.2.2 + b2n new)) (n, 0, false, 0)

/-- Store bytes: a partial write to a poisoned word is lost, a full write clears its poison (R252); the granule of a
scratch byte counts as stored (R160). -/
def Nib.store1 (n : Nib) (lo len a : Nat) (b : Byte) : Nib :=
  let w := a / 32
  let full := decide (lo ≤ 32 * w) && decide (32 * w + 32 ≤ lo + len)
  let n := if full then { n with poison := n.poison.set false w false } else n
  if n.poison.get false w then n
  else { n with
    store := n.store.set none a (some b)
    granules := if 0x74000 ≤ a then n.granules.set false ((a - 0x74000) / 64) true else n.granules }

def Nib.storeBytes (n : Nib) (a : Nat) (d : Bytes) : Nib :=
  d.zipIdx.foldl (fun n p => n.store1 a d.length (a + p.2) p.1) n

/-- Little-endian bytes of a vector register, a mask or a scalar. -/
def bytesOfLanes (l : List Nat) : Bytes := (l.map (le 2)).flatten

end Sys2Proof.Machine
end

