-- ==== Sys2Proof/Machine/Flags.lean ====
section
/-! DEFINITION. Status words and saturation: the tile status word, the commit status word, lane and accumulator limits,
rounded shifts (R172, R174, R201). -/
namespace Sys2Proof.Machine

/-! ## Rounding and saturation (R172) -/

/-- `x` shifted right by `k` with rounding mode 0 floor, 1 half up, 2 half to even. -/
def roundShift (x : Int) (k mode : Nat) : Int :=
  let d : Int := 2 ^ k
  if k = 0 ∨ mode = 0 then x.fdiv d
  else if mode = 1 then (x + 2 ^ (k - 1)).fdiv d
  else roundEven x d

def satS (w : Nat) (x : Int) : Nat := toTwos w (clampI (-(2 ^ (w - 1) : Int)) (2 ^ (w - 1) - 1) x)
def satU (w : Nat) (x : Int) : Nat := (clampI 0 (2 ^ w - 1) x).toNat

/-! ## The tile status word (R174) -/

def stAccSat : Nat := 0
def stBfInvalid : Nat := 1
def stRecTrunc : Nat := 2
def stWoutExtra : Nat := 3

def Nib.flag (n : Nib) (b : Nat) : Nib := { n with status := setBit n.status b }

/-- Put an accumulator lane within `±2^(w-1)`; a clamp sets ACC_SAT (R172, R173). -/
def Nib.putAcc (n : Nib) (w b e : Nat) (x : Int) : Nib :=
  let c := clampI (-(2 ^ (w - 1) : Int)) (2 ^ (w - 1) - 1) x
  let n := n.setA b e c
  if c = x then n else n.flag stAccSat

/-! ## The commit status word (R201) -/

/-- Outcomes of R201. -/
def outDone : Nat := 0
def outAccess : Nat := 1
def outStack : Nat := 2
def outBudget : Nat := 3

def commitStatus (outcome : Nat) (dropped poison : Bool) (status replays : Nat) : Nat :=
  outcome + 16 * b2n dropped + 32 * b2n poison + 64 * (status % 16) + 65536 * Nat.min replays 255

/-! ## Line and frame flags (R135, R136) -/

def Tile.inputDropped (t : Tile) : Bool := t.dropped
def Tile.inputPoison (t : Tile) : Bool := t.poison

end Sys2Proof.Machine
end

