-- ==== Sys2Proof/Machine/MemOps.lean ====
section
/-! DEFINITION. Plate memory and the private region as words: pages and banks, reads under the code, poison (R246 to
R254). -/
namespace Sys2Proof.Machine

/-- Keys of stored words: bank b, word w; the private region follows. -/
def bankKey (b w : Nat) : Nat := b * 262144 + w
def privKey (w : Nat) : Nat := 16 * 262144 + w

/-- The private region's place among the pages that blocks have written: after those of plate memory. -/
abbrev privPage : Nat := 32768

/-! ## Poison (R252, R254) -/

/-- The poison bit of a word of a bank sets, with what R252 records beside the count of its holder. -/
def Dev.poisonWord (s : Dev) (b w : Nat) : Dev :=
  let s := { s with poison := s.poison.set false (bankKey b w) true }.setP P.memBankLastUncorr b w
  (s.setP P.memBankPoisoned b (s.pv P.memBankPoisoned b + 1)).fireAsync 95

/-- A read finds word `w` of bank `b` uncorrectable: poisoned, counted once, MEM_UNCORR fires (R252). -/
def Dev.bankBad (s : Dev) (b w : Nat) : Dev :=
  if s.poison.get false (bankKey b w) then s else (s.bump P.memBankUncorrCount b 1).poisonWord b w

/-- The same for the private region (R254). -/
def Dev.privBad (s : Dev) (w : Nat) : Dev :=
  if s.poison.get false (privKey w) then s
  else ({ s with poison := s.poison.set false (privKey w) true }.bump P.memPrivUncorrCount 0 1).fireAsync 95

/-- A full-word write clears the poison bit (R252). -/
def Dev.bankWrite (s : Dev) (b w : Nat) : Dev :=
  if s.poison.get false (bankKey b w) then
    { s with poison := s.poison.set false (bankKey b w) false }.setP P.memBankPoisoned b (s.pv P.memBankPoisoned b - 1)
  else s

/-! ## Pages (R127, R194, R229, R247, R259) -/

/-- What holds a run of pages of plate memory. -/
inductive Holder where
  | queue (q : Nat)
  | web (w : Nat)
  | stream (st : Nat)
  | folio
  deriving DecidableEq, Repr

/-- Pages of a queue of 2^k words of 32 bytes. -/
def Dev.qPages (s : Dev) (q : Nat) : Nat := (32 * 2 ^ s.pv P.qSizeLog2 q + 4095) / 4096

def sumTo (n : Nat) (f : Nat → Nat) : Nat := ((List.range n).map f).foldl (· + ·) 0

/-- First page of a run: the queues in their order, then the webs, then the streams; Folio's last page is the memory's
last. DESIGN CHOICE, entry 81. -/
def Dev.firstPage (s : Dev) : Holder → Nat
  | .queue q => sumTo q s.qPages
  | .web w => sumTo 128 s.qPages + sumTo w (fun i => (s.web i).mem / 4096)
  | .stream st =>
    sumTo 128 s.qPages + sumTo 4 (fun i => (s.web i).mem / 4096) + sumTo st (fun i => (s.stream i).mem / 4096)
  | .folio => 32768 - 256 * s.folioMib

/-- Page of word `w` of a run. -/
def Dev.pageOf (s : Dev) (h : Holder) (w : Nat) : Nat := s.firstPage h + w / 128

/-- Bank and index in it of word `w` of a run: page p lies in bank p mod 16 (R247). -/
def Dev.wordOf (s : Dev) (h : Holder) (w : Nat) : Nat × Nat :=
  let p := s.pageOf h w
  (p % 16, p / 16 * 128 + w % 128)

/-- Words that bytes `a` to `a + n - 1` of a run touch: the first and how many. -/
def wordSpan (a n : Nat) : Nat × Nat := (a / 32, if n = 0 then 0 else (a + n - 1) / 32 + 1 - a / 32)

/-! ## Reads and writes by the blocks (R250 to R253) -/

/-- One read of a word of a run whose 35 stored bytes have the errors `err`: POISON as none, or what is left of the
errors in its data. The code being linear, the syndromes of a stored word are those of its errors (R249, R250). -/
def Dev.readAt (s : Dev) (h : Holder) (w : Nat) (err : Bytes) : Dev × Option Bytes :=
  let (b, i) := s.wordOf h w
  if s.poison.get false (bankKey b i) then (s, none)
  else
    let e := slice err 0 35
    match rsRead e with
    | .good => (s, some (slice e 0 32))
    | .corrected _ _ => (s.bump P.memBankCorrCount b 1, some (slice (rsFix e) 0 32))
    | .uncorrectable => (s.bankBad b i, none)

/-- The `n` words of a run from word `w` on are read, `errs` naming errors by the word's place among them: whether
POISON came, and what is left of the errors (R250, R253). -/
def Dev.readRun (s : Dev) (h : Holder) (w n : Nat) (errs : List (Nat × Bytes)) : Dev × Bool × List (Nat × Bytes) :=
  let (s, bad, left) := (errs.filter (fun e => decide (e.1 < n))).foldl
    (fun (a : Dev × Bool × List (Nat × Bytes)) e =>
      match a.1.readAt h (w + e.1) e.2 with
      | (s, none) => (s, true, a.2.2)
      | (s, some r) => (s, a.2.1, if r.all (· == 0) then a.2.2 else a.2.2 ++ [(e.1, r)])) (s, false, [])
  if bad || s.poison.cells.isEmpty then (s, bad, left)
  else
    (s, (List.range n).any (fun i => let p := s.wordOf h (w + i); s.poison.get false (bankKey p.1 p.2)), left)

/-- A block writes the `n` words of a run from word `w` on whole: their poison bits clear (R252). -/
def Dev.rewrite (s : Dev) (h : Holder) (w n : Nat) : Dev :=
  if n = 0 then s
  else
    let p0 := s.pageOf h w
    let s := s.forEach (List.range (s.pageOf h (w + n - 1) + 1 - p0)) (fun s i =>
      { s with dirty := s.dirty.set false (p0 + i) true })
    if s.poison.cells.isEmpty then s
    else s.forEach (List.range n) (fun s i => let p := s.wordOf h (w + i); s.bankWrite p.1 p.2)

/-- What is left of the errors of a read at byte `i` of it; its first byte stands at byte `a` of the first word read. -/
def residue (left : List (Nat × Bytes)) (a i : Nat) : Byte :=
  match left.find? (fun e => e.1 == (a + i) / 32) with
  | some e => e.2.getD ((a + i) % 32) 0
  | none => 0

/-- Bytes read with what is left of their errors. -/
def withErrors (left : List (Nat × Bytes)) (a : Nat) (b : Bytes) : Bytes :=
  if left.isEmpty then b else b.zipIdx.map (fun p => p.1 ^^^ residue left a p.2)

/-- One read of a word of the private region (R254). -/
def Dev.readPriv (s : Dev) (w : Nat) (err : Bytes) : Dev × Option Bytes :=
  if s.poison.get false (privKey w) then (s, none)
  else
    let e := slice err 0 35
    match rsRead e with
    | .good => (s, some (slice e 0 32))
    | .corrected _ _ => (s.bump P.memPrivCorrCount 0 1, some (slice (rsFix e) 0 32))
    | .uncorrectable => (s.privBad w, none)

end Sys2Proof.Machine
end

