-- ==== Sys2Proof/Machine/QueueOps.lean ====
section
/-! DEFINITION. Hardware queues Q0–Q127: policies, forms, watermark, flush, and the commands that write, read and
flush them (R257 to R268). -/
namespace Sys2Proof.Machine

/-- Full policies (R257, R258). -/
inductive QPolicy where
  | reserve | drop | wait
  deriving DecidableEq, Repr

def qPolicy (q : Nat) : QPolicy := if q < 68 then .reserve else if q < 104 then .drop else .wait

/-- Words a queue holds (R259). -/
def Dev.qCap (s : Dev) (q : Nat) : Nat := 2 ^ s.pv P.qSizeLog2 q

def Dev.qPing (s : Dev) (q : Nat) : Bool := s.pv P.qForm q == E.qForm.PINGPONG

/-- Longest item of the queue's form (R262). -/
def Dev.qLimit (s : Dev) (q : Nat) : Nat := if s.qPing q then 2 ^ (s.pv P.qSizeLog2 q - 1) else s.qCap q

/-- Words free for an item that begins (R258, R261). -/
def Dev.qFree (s : Dev) (q : Nat) : Nat :=
  if s.qPing q then (if (s.queue q).fullBanks < 2 then s.qLimit q - (s.queue q).openLen else 0)
  else s.qCap q - (s.queue q).words.length

/-- A sticky bit of `q.events`. -/
def Dev.qEvent (s : Dev) (q b : Nat) : Dev := s.setP P.qEvents q (setBit (s.pv P.qEvents q) b)

/-- q.status: EMPTY, FULL, ABOVE_WM, ITEM_OPEN (R269). -/
def qStatusOf (level cap wm openLen : Nat) (full : Bool) : Nat :=
  b2n (level == 0) + 2 * b2n (full || level == cap) + 4 * b2n (decide (0 < wm) && decide (wm ≤ level))
    + 8 * b2n (decide (0 < openLen))

/-- Put a queue's new contents: `q.level`, `q.peak`, `q.status`, and the watermark crossing (R264). -/
def Dev.putQueue (s : Dev) (q : Nat) (x : Queue) : Dev :=
  let old := (s.queue q).words.length
  let lvl := x.words.length
  let wm := s.pv P.qWatermark q
  let s := s.setQueue q x
  let s := s.setP P.qLevel q lvl
  let s := s.peak P.qPeak q lvl
  let s := s.setP P.qStatus q (qStatusOf lvl (s.qCap q) wm x.openLen (s.qPing q && x.fullBanks == 2))
  if 0 < wm ∧ old < wm ∧ wm ≤ lvl then
    let s := (s.qEvent q 0).bump P.qWmCrossCount q 1
    if s.pv P.qWmIrq q = 1 then s.raise0 (144 + q) else s
  else s

def qMod (k x : Nat) : Nat := x % 2 ^ (k + 1)

/-- Place of the next word written: wp in the ring, or the next of the bank being filled (R260, R261). -/
def Queue.nextAt (x : Queue) (ping : Bool) (k : Nat) : Nat :=
  if ping then b2n x.bankW * 2 ^ (k - 1) + x.openLen else x.wp % 2 ^ k

/-- Words of the open item that stand in the queue. -/
def Queue.openHere (x : Queue) : Nat := (x.words.reverse.takeWhile (fun w => !w.last)).length

/-- Append one word and advance wp (R260, R261). -/
def Queue.push (x : Queue) (k : Nat) (w : QWord) : Queue :=
  { x with
    words := x.words ++ [w]
    wp := qMod k (x.wp + 1)
    openLen := if w.last then 0 else x.openLen + 1
    fullBanks := if w.last then x.fullBanks + 1 else x.fullBanks
    bankW := if w.last then !x.bankW else x.bankW }

/-- Remove the open item: the words it has in the queue go; a consumer that took part of it is owed a marker (R262,
R267). -/
def Queue.removeOpen (x : Queue) (k : Nat) : Queue :=
  let left := x.words.take (x.words.length - x.openHere)
  let gone := x.words.length - left.length
  let torn := x.partRead && left.isEmpty
  { x with
    words := left
    wp := qMod k (x.wp + 2 ^ (k + 1) - gone)
    openLen := 0
    tornDue := x.tornDue || torn
    partRead := if torn then false else x.partRead }

/-- The threshold an item that opens now is read under (R263, R339); 0 for none. -/
def Dev.qCutNow (s : Dev) (q : Nat) : Nat := if s.mode M.cutthru then s.pv P.qCutThru q else 0

/-- Append a producer's word: a write of the whole word it is stored in (R252). -/
def Dev.qPush (s : Dev) (q : Nat) (x : Queue) (data : Bytes) (last : Bool) : Dev :=
  let k := s.pv P.qSizeLog2 q
  let a := x.nextAt (s.qPing q) k
  (s.putQueue q (x.push k ⟨slice data 0 32, last, false, false, a⟩)).rewrite (.queue q) a 1

/-- One word from a producer under the queue's policy (R258, R262, R266). `itemWords` is the length the producer's
item will have. DESIGN CHOICE, entry 49. -/
def Dev.qWrite (s : Dev) (q : Nat) (data : Bytes) (last : Bool) (itemWords : Nat) : Dev :=
  let x := s.queue q
  let k := s.pv P.qSizeLog2 q
  if x.owed ≠ 0 then s.putQueue q { x with owed := 0 }
  else if x.discard then s.putQueue q { x with discard := !last }
  else
    let starting := x.openLen == 0
    let x := if starting then { x with cut := s.qCutNow q } else x
    let tooBig := decide (s.qLimit q < itemWords)
    match qPolicy q with
    | .drop =>
      if starting && tooBig then
        ((s.putQueue q { x with discard := !last }).bump P.qOversizeCount q 1).qEvent q 2
      else if starting && decide (s.qFree q < itemWords) then
        ((s.putQueue q { x with discard := !last }).bump P.qDropCount q 1).qEvent q 4
      else if s.qLimit q ≤ x.openLen then
        ((s.putQueue q { x.removeOpen k with discard := !last }).bump P.qOversizeCount q 1).qEvent q 2
      else s.qPush q x data last
    | .wait | .reserve =>
      if s.qLimit q ≤ x.openLen then
        let y := x.removeOpen k
        let s := ((s.putQueue q { y with discard := !last }).bump P.qOversizeCount q 1).qEvent q 2
        if y.tornDue && !x.tornDue then (s.bump P.qTornCount q 1).qEvent q 1 else s
      else if s.qFree q = 0 then s
      else s.qPush q x data last

/-- Write a whole item word by word. -/
def Dev.qItem (s : Dev) (q : Nat) (item : Bytes) : Dev :=
  let n := ceilDiv item.length 32
  s.forEach (List.range n) (fun s i => s.qWrite q (slice item (32 * i) 32) (i + 1 == n) n)

/-- Whether an item of `n` words, or what of it a queue can hold, finds room now (R258, R261). -/
def Dev.qTakes (s : Dev) (q n : Nat) : Bool := decide (Nat.min n (s.qLimit q) ≤ s.qFree q)

/-- Whether cut-through lets the consumer read an open item: the threshold in force when it opened is reached (R263,
R339). -/
def Dev.qCutReady (s : Dev) (q : Nat) : Bool :=
  let x := s.queue q
  decide (0 < x.cut) && decide (x.cut ≤ x.openLen)

/-- Whether a consumer may take the next word (R263). -/
def Dev.qReadable (s : Dev) (q : Nat) : Bool :=
  let x := s.queue q
  x.tornDue || (!x.words.isEmpty && (x.words.any QWord.last || x.partRead || s.qCutReady q))

/-- The word a read finds, with the error pattern `err` of its 35 stored bytes (R250 to R252). -/
def readWord (w : QWord) (err : Bytes) : QWord × RsRead :=
  let c := (w.data ++ rsCheck w.data).zipWith (· ^^^ ·) (slice err 0 35)
  match rsRead c with
  | .good => ({ w with data := slice c 0 32 }, .good)
  | .corrected i v => ({ w with data := slice (rsFix c) 0 32 }, .corrected i v)
  | .uncorrectable => ({ w with data := List.replicate 32 0, poison := true }, .uncorrectable)

/-- Word `i` of a queue is read with the errors `err`: corrected in place, or poisoned, counted by the queue (R250 to
R252). -/
def Dev.qCheck (s : Dev) (q i : Nat) (err : Bytes) : Dev :=
  let x := s.queue q
  match x.words[i]? with
  | none => s
  | some w =>
    let p := s.wordOf (.queue q) w.at'
    let (w', how) := if w.poison || s.poison.get false (bankKey p.1 p.2) then
        ({ w with data := List.replicate 32 0, poison := true }, RsRead.good)
      else readWord w err
    let s := s.setQueue q { x with words := x.words.set i w' }
    match how with
    | .good => s
    | .corrected _ _ => s.bump P.qCorrCount q 1
    | .uncorrectable => (s.bump P.qUncorrCount q 1).poisonWord p.1 p.2

/-- One word to the consumer, or none while it stalls (R263, R266). DESIGN CHOICE, entry 49. -/
def Dev.qRead (s : Dev) (q : Nat) (err : Bytes) : Dev × Option QWord :=
  let x := s.queue q
  let k := s.pv P.qSizeLog2 q
  if x.tornDue then
    (s.putQueue q { x with tornDue := false, partRead := false }, some ⟨List.replicate 32 0, false, false, true, 0⟩)
  else if s.qReadable q then
    let s := s.qCheck q 0 err
    let x := { s.queue q with cutOff := false }
    match x.words with
    | [] => (s, none)
    | w :: r =>
      let s := if w.poison then s.qEvent q 3 else s
      let s := s.putQueue q { x with
        words := r
        rp := qMod k (x.rp + 1)
        partRead := !w.last
        fullBanks := if w.last then x.fullBanks - 1 else x.fullBanks }
      (s, some w)
  else (s, none)

/-- A flush at the commit point (R265, R266). DESIGN CHOICE, entry 49. -/
def Dev.qFlush (s : Dev) (q : Nat) : Dev :=
  let x := s.queue q
  let torn := x.partRead
  let s := s.putQueue q { x with
    words := [], rp := x.wp, openLen := 0, discard := false, fullBanks := 0, partRead := false
    owed := if 0 < x.openLen ∨ x.discard = true then 1 else x.owed
    tornDue := x.tornDue || torn }
  let s := s.bump P.qFlushCount q 1
  if torn then (s.bump P.qTornCount q 1).qEvent q 1 else s

/-- A warm reset empties a queue with its producer and consumer (R268). -/
def Dev.qClear (s : Dev) (q : Nat) : Dev :=
  s.putQueue q { Queue.reset with reserved := (s.queue q).reserved }

/-- A producer writes one word (R258). -/
def runQueueWrite (q : Fin 128) (data : Bytes) (last : Bool) (itemWords t : Nat) (s : Dev) : Dev :=
  ((s.at' t).qWrite q data last itemWords)

/-- A consumer reads one word, or stalls until one it may take is present (R263). -/
def runQueueRead (q : Fin 128) (err : Bytes) (t : Nat) (s : Dev) : Dev :=
  let (s, w) := (s.at' t).qRead q err
  match w with
  | none => s
  | some w =>
    (s.emit (.readData (ofLE w.data + 2 ^ 256 * (b2n w.last + 2 * b2n w.poison + 4 * b2n w.torn))))

/-! ## The commands -/

/-- QUEUE_WRITE. -/
def execQueueWrite (q : Fin 128) (data : Bytes) (last : Bool) (itemWords t : Nat) (s : State) : Out := s.onDev (runQueueWrite q data last itemWords t)

/-- QUEUE_READ. -/
def execQueueRead (q : Fin 128) (err : Bytes) (t : Nat) (s : State) : Out := s.onDev (runQueueRead q err t)

end Sys2Proof.Machine
end

