-- ==== Sys2Proof/Machine/Records.lean ====
section
/-! DEFINITION. The records Quill delivers (R293 to R296): the header and the bodies. TB is written when Quill begins
the record, and stands as zero until then. -/
namespace Sys2Proof.Machine

/-- Zero bytes up to a multiple of `n`. -/
def padTo (n : Nat) (b : Bytes) : Bytes := b ++ List.replicate (roundUp b.length n - b.length) 0

/-- A record of R293 with its body padded to a multiple of 32 bytes. -/
def recordOf (ty flags kind index frame : Nat) (stamp : Int) (body : Bytes) : Bytes :=
  let b := padTo 32 body
  le 1 ty ++ le 1 1 ++ le 2 flags ++ le 4 (32 + b.length) ++ le 1 kind ++ le 1 index ++ le 2 0 ++ le 4 frame
    ++ le 8 (toTwos 64 stamp) ++ le 8 0 ++ b

/-- TB written into a record header (R293). -/
def stampTb (rec : Bytes) (tb : Nat) : Bytes := rec.take 24 ++ le 8 tb ++ rec.drop 32

/-- A record of the output of a sequence: SRC_KIND and SRC_INDEX (R293, R217). -/
def seqKind (q : Nat) : Nat := if q < 64 then 0 else 1
def seqIndex (q : Nat) : Nat := if q < 64 then q else q - 64

/-- FRAME_START (R295). -/
def recFrameStart (kind index frame planes sampleBytes coded point width : Nat) : Bytes :=
  recordOf 0x01 0 kind index frame 0
    (le 1 planes ++ le 1 sampleBytes ++ le 1 coded ++ le 1 point ++ le 4 width ++ le 24 0)

/-- The 32 bytes of LINE metadata (R295). -/
def lineMetaBytes (m : LineMeta) (pixelBytes : Nat) : Bytes :=
  le 2 m.flags ++ le 2 m.exp ++ le 4 m.index ++ le 4 m.trigId ++ le 2 m.skipped ++ le 2 0 ++ le 4 pixelBytes ++ le 12 0

/-- LINE: with its pixels, or DETACHED (R295, R298). -/
def recLine (kind index : Nat) (m : LineMeta) (pixels : Bytes) (detached : Bool) : Bytes :=
  recordOf 0x02 (if detached then 2 else 0) kind index m.frame m.stamp
    (lineMetaBytes m pixels.length ++ (if detached then [] else pixels))

/-- FRAME_END, with the STAMP record when there is one (R295, R78). -/
def recFrameEndOf (kind index no flags lines : Nat) (first last : Int) (exp : Nat) (stampRec : Bytes) : Bytes :=
  recordOf 0x03 0 kind index no first
    (le 4 flags ++ le 4 lines ++ le 8 (toTwos 64 last) ++ le 2 exp ++ le 1 (b2n (!stampRec.isEmpty))
      ++ le 13 0 ++ stampRec)

def recFrameEnd (kind index : Nat) (f : Frame) (stampRec : Bytes) : Bytes :=
  recFrameEndOf kind index f.no f.flags f.lines f.firstStamp f.lastStamp f.exp stampRec

/-- FRAME_DONE (R199, R294). -/
def recFrameDone (q frame firstSeq lastSeq : Nat) : Bytes :=
  recordOf 0x11 0 (seqKind q) (seqIndex q) frame 0 (le 4 firstSeq ++ le 4 lastSeq ++ le 24 0)

/-- GAP (R216). -/
def recGap (q firstSeq count cause firstFrame lastFrame tb : Nat) : Bytes :=
  recordOf 0x12 0 (seqKind q) (seqIndex q) firstFrame 0
    (le 4 firstSeq ++ le 4 count ++ le 1 (seqKind q) ++ le 1 (seqIndex q) ++ le 1 cause ++ le 1 0 ++ le 4 firstFrame
      ++ le 4 lastFrame ++ le 8 tb ++ le 4 0)

/-- REVOKE (R213). -/
def recRevoke (q seq released frame tb : Nat) : Bytes :=
  recordOf 0x13 0 (seqKind q) (seqIndex q) frame 0
    (le 4 seq ++ le 1 (seqKind q) ++ le 1 (seqIndex q) ++ le 2 0 ++ le 4 released ++ le 4 frame ++ le 8 tb ++ le 8 0)

/-- The stamp of a core line of a tile; a line outside the tile's rows has no stamp the manual states, and reads
`Config.noStamp`. -/
def Tile.stampAt (t : Tile) (y : Nat) : Int :=
  if h : y < t.stamps.length then t.stamps[y] else Config.noStamp y

/-- A delivered defect record (R296). -/
def recDefect (t : Tile) (r : Bytes) : Bytes :=
  let x := fld r 0 2
  let y := fld r 2 2
  le 1 (seqKind t.q) ++ le 1 (seqIndex t.q) ++ le 2 0 ++ le 4 t.frame ++ le 4 t.seq ++ le 4 (t.x0 + x)
    ++ le 8 (toTwos 64 (t.stampAt y)) ++ le 8 0 ++ r

/-- RESULT (R296) with a commit status word. -/
def recResult (t : Tile) (status : Nat) (image : Bytes) (recs : List Bytes) : Bytes :=
  recordOf 0x10 0 (seqKind t.q) (seqIndex t.q) t.frame t.stamp0
    (le 4 t.seq ++ le 4 status ++ le 4 image.length ++ le 4 recs.length ++ le 4 t.x0 ++ le 4 t.y0 ++ le 2 t.coreW
      ++ le 2 t.coreH ++ le 4 0 ++ padTo 32 image ++ (recs.map (recDefect t)).flatten)

end Sys2Proof.Machine
end

