-- ==== Sys2Proof/Machine/EphOps.lean ====
section
/-! DEFINITION. Shared operations of the nib array and Ephemeris: tiles, the ledger, fencing and reclaim, replay and
gaps, nib faults (R180, R186, R188, R194, R205 to R211). -/
namespace Sys2Proof.Machine

/-! ## Tiles -/

def Dev.tile (s : Dev) (no : Nat) : Option Tile := s.tiles.find? (fun t => t.no == no)

def Dev.modTile (s : Dev) (no : Nat) (f : Tile → Tile) : Dev :=
  { s with tiles := s.tiles.map (fun t => if t.no = no then f t else t) }

def Nib.cur (n : Nib) : Option Nat := if n.curB then n.bufB else n.bufA

/-- Tiles a nib holds. -/
def Nib.held (n : Nib) : List Nat := n.bufA.toList ++ n.bufB.toList

/-- Empty the buffer that holds a tile. -/
def Nib.drop (n : Nib) (no : Nat) : Nib :=
  { n with
    bufA := if n.bufA = some no then none else n.bufA
    bufB := if n.bufB = some no then none else n.bufB }

/-- Bytes of Folio a tile holds (R194). -/
def Tile.bytes (t : Tile) : Nat := 4096 * t.pages

/-- `eph.folio_used`, its peak, `eph.slots_used` and `eph.inflight` follow the tiles in flight. -/
def Dev.countTiles (s : Dev) : Dev :=
  let used := (s.tiles.map Tile.bytes).foldl (· + ·) 0
  let s := (s.setP P.ephFolioUsed 0 used).peak P.ephFolioPeak 0 used
  let s := s.setP P.ephSlotsUsed 0 s.tiles.length
  s.forEach (List.range 68) (fun s q => s.setP P.ephInflight q (s.tiles.filter (fun t => t.q == q)).length)

/-- Ephemeris has made progress (R215). -/
def Dev.progress (s : Dev) : Dev := { s with ephAt := s.now }

/-! ## Slots, states and eligibility (R179, R180, R185) -/

/-- The state of a nib (R185). DESIGN CHOICE, entry 41. -/
def Dev.nibSt (s : Dev) (n : Nat) : Nat := s.pv P.nibState n
def Dev.setNibSt (s : Dev) (n v : Nat) : Dev := s.setP P.nibState n v

/-- POOL_SPLIT of a program. -/
def Prog.split (p : Prog) : Bool := bit (fld p.hdr 6 2) 0

/-- Program slot of a sequence (R179, R217); 255 none. -/
def Dev.seqSlot (s : Dev) (q : Nat) : Nat :=
  if q < 64 then s.pv P.nibStreamSlot q else s.pv P.nibWebSlot (q - 64)

def Dev.seqRunning (s : Dev) (q : Nat) : Bool :=
  if q < 64 then (s.stream q).running else (s.web (q - 64)).running

/-- The program a sequence takes for a frame that begins, with the number of its load: the new content once the
sequence has reached its boundary (R178). -/
def Dev.progFor (s : Dev) (q : Nat) : Option (Prog × Nat) :=
  let k := s.slot (s.seqSlot q)
  let last := match k.pending with
    | some (p, _) => if k.passed.contains q then some (p, k.loadNo + 1 + k.mid.length) else none
    | none => none
  let mid := ((k.mid.zipIdx.filter (fun m => m.1.2.contains q)).getLast?).map (fun m => (m.1.1, k.loadNo + 1 + m.2))
  (last.or mid).or (k.active.map (fun a => (a, k.loadNo)))

/-- The content of a slot that a load number names: the present one, or the new one that some sequence runs on. -/
def Dev.progOfLoad (s : Dev) (k load : Nat) : Option Prog :=
  let x := s.slot k
  if load = x.loadNo then x.active
  else if load = x.loadNo + 1 + x.mid.length then
    (match x.pending with | some (p, _) => if x.passed.isEmpty then none else some p | none => none)
  else if x.loadNo < load then (x.mid[load - x.loadNo - 1]?).map Prod.fst
  else none

/-- Whether a load of a slot is a POOL_SPLIT container. -/
def Dev.loadSplit (s : Dev) (k load : Nat) : Bool :=
  match s.progOfLoad k load with | some p => p.split | none => false

/-- A tile that waits for a nib. -/
def Tile.waits (t : Tile) : Bool := decide (t.st = .waiting) || decide (t.st = .replay)

/-- The load a nib should hold: the one it has while tiles of it wait, else that of the slot's first waiting tile, else
the slot's present one unless the nib holds it or the new one already (R178). -/
def Dev.wantLoad (s : Dev) (n : Nat) : Nat :=
  let k := s.ak (pkey P.nibSlot n 0)
  let x := s.nib n
  let mine := s.tiles.filter (fun t => t.waits && t.slot == k)
  let here := k == x.slot && (s.progOfLoad k x.loadNo).isSome
  if here && mine.any (fun t => t.load == x.loadNo) then x.loadNo
  else
    match mine.head? with
    | some t => t.load
    | none => if here then x.loadNo else (s.slot k).loadNo

/-- Whether a nib has a reload due: its binding changed, its store failed, or it should hold another load (R178, R179,
R256). -/
def Dev.needsReload (s : Dev) (n : Nat) : Bool :=
  let x := s.nib n
  let k := s.ak (pkey P.nibSlot n 0)
  k != x.slot || x.reload || (decide (k < 32) && x.loadNo != s.wantLoad n)

def quadOf (n : Nat) : List Nat := [4 * (n / 4), 4 * (n / 4) + 1, 4 * (n / 4) + 2, 4 * (n / 4) + 3]

/-- A quad whose four members hold one load of the slot, none FENCED, none LOADING (R180). -/
def Dev.quadEligible (s : Dev) (n k load : Nat) : Bool :=
  (quadOf n).all (fun m => s.pv P.nibSlot m == k && (s.nib m).loadNo == load && s.nibSt m != E.nibState.FENCED
    && s.nibSt m != E.nibState.LOADING && !s.needsReload m)

/-- Whether a nib may take tiles of a load of slot `k`: bound to the slot and holding that load, PARKED, IDLE or BUSY,
and the quad eligible for a POOL_SPLIT container (R178 to R180). -/
def Dev.nibTakes (s : Dev) (n k load : Nat) : Bool :=
  let st := s.nibSt n
  s.pv P.nibSlot n == k && !s.needsReload n && (s.nib n).prog.isSome && (s.nib n).loadNo == load
    && (st == E.nibState.PARKED || st == E.nibState.IDLE || st == E.nibState.BUSY)
    && (!s.loadSplit k load || s.quadEligible n k load)

def Nib.freeBuf (n : Nib) : Bool := n.bufA.isNone || n.bufB.isNone

/-- The registered quad and web (R81). -/
def Dev.regQuad (s : Dev) : Option Nat :=
  let q := s.pv P.merQuadIndex 0
  if q < 24 then some q else none

def Dev.inRegQuad (s : Dev) (n : Nat) : Bool := s.regQuad == some (n / 4)

/-- Whether a sequence is the registered web's. -/
def Dev.isRegSeq (s : Dev) (q : Nat) : Bool := s.regQuad.isSome && q == 64 + s.pv P.merQuadWeb 0

/-- Under LEGAL and QUIET no nib of the registered quad is parked (rule k of R346). -/
def Dev.wakeQuad (s : Dev) : Dev :=
  if s.mode M.quiet && s.mode M.legal then
    s.forEach (List.range 96) (fun s n =>
      if s.inRegQuad n && s.nibSt n == E.nibState.PARKED then
        (s.setNibSt n E.nibState.IDLE).setNib n { s.nib n with idleSince := s.now }
      else s)
  else s

/-! ## Loads taking effect (R178) -/

def nibSlotStateOf (k : Slot) : Nat :=
  if k.pending.isSome then E.nibSlotState.PENDING
  else if k.active.isSome then E.nibSlotState.LOADED else E.nibSlotState.EMPTY

def Prog.digest (p : Prog) : Bytes := sha256 (p.hdr ++ p.code ++ p.const)

/-- Put a slot with its `nib.slot_state` and `nib.slot_digest`. -/
def Dev.putSlot (s : Dev) (k : Nat) (x : Slot) : Dev :=
  let s := (s.setSlot k x).setP P.nibSlotState k (nibSlotStateOf x)
  match x.active with
  | none => s.forEach (List.range 4) (fun s i => s.setP P.nibSlotDigest (4 * k + i) 0)
  | some p =>
    let d := p.digest
    s.forEach (List.range 4) (fun s i => s.setP P.nibSlotDigest (4 * k + i) (fld d (8 * i) 8))

/-- The new content of a slot takes the old one's place once every running sequence bound to it has reached its
boundary and no tile of the old content is in flight. DESIGN CHOICE, entry 45. -/
def Dev.trySwitch (s : Dev) (k : Nat) : Dev :=
  let x := s.slot k
  match x.pending with
  | none => s
  | some (p, f) =>
    let all := (List.range 68).filter (fun q => s.seqSlot q == k)
    let bound := all.filter s.seqRunning
    let waits := f.isSome && bound.isEmpty && !all.isEmpty
    let old := (List.range 68).any (fun q => (s.seqn q).cfgs.any (fun c => c.slot == k && decide (c.load ≤ x.loadNo)))
    let done := fun (l : List Nat) => bound.all (fun q => l.contains q) && !old
      && !s.tiles.any (fun t => t.slot == k && decide (t.load ≤ x.loadNo))
    match x.mid with
    | m :: r =>
      if done (m.2 ++ r.flatMap Prod.snd ++ x.passed) then s.putSlot k { x with active := some m.1, mid := r, loadNo := x.loadNo + 1 }
      else s
    | [] => if done x.passed && !waits then s.putSlot k ⟨some p, none, [], [], x.loadNo + 1⟩ else s

/-- Sequence `q` reaches the boundary at which frame `frame` begins. -/
def Dev.slotBoundary (s : Dev) (q frame : Nat) : Dev :=
  let k := s.seqSlot q
  let x := s.slot k
  match x.pending with
  | none => s
  | some (_, f) =>
    if (match f with | none => true | some n => decide (n ≤ frame)) then
      (s.setSlot k { x with passed := q :: x.passed }).trySwitch k
    else s

/-- What the tiles of frame `no` of a sequence will run on. -/
def Dev.tileCfg (s : Dev) (q no : Nat) : Dev :=
  let k := s.seqSlot q
  let x := s.seqn q
  let val := fun (id inst : Nat) =>
    match x.hold.find? (fun h => h.1 == pkey id inst 0) with | some h => h.2.1 | none => s.pv id inst
  let pl := s.progFor q
  s.setSeqn q { x with cfgs := x.cfgs ++ [{
    frame := no, slot := k, prog := pl.map Prod.fst
    load := (match pl with | some p => p.2 | none => (s.slot k).loadNo)
    tileW := s.pv P.ephTileW q, tileH := s.pv P.ephTileH q
    args := (List.range 16).map (fun i => val P.nibArg (16 * k + i)), budget := val P.nibSlotBudget k }] }

def Dev.switchAll (s : Dev) : Dev := s.forEach (List.range 32) Dev.trySwitch

/-! ## The ledger (R209, R211) -/

def Dev.grant (s : Dev) (g : Grant) : Dev := { s with ledger := s.ledger ++ [g] }

def Dev.ungrant (s : Dev) (p : Grant → Bool) : Dev := { s with ledger := s.ledger.filter (fun g => !p g) }

/-- Words of `q` reserved and not yet written (R258). -/
def Dev.reservedOn (s : Dev) (q : Nat) : Nat :=
  ((s.ledger.filter (fun g => g.kind == 2 && (s.tile g.tile).any (fun t => t.q == q))).map Grant.amount).foldl (· + ·) 0

/-! ## Replay and gaps (R205, R206, R208, R216) -/

/-- End the open item of a queue where it stands; its bank passes to the consumer (R261, R299). -/
def Queue.endOpen (x : Queue) : Queue :=
  if x.openHere = 0 then { x with openLen := 0, partRead := false, cutOff := x.partRead }
  else { x with
    words := x.words.modify (x.words.length - 1) (fun w => { w with last := true })
    openLen := 0, fullBanks := x.fullBanks + 1, bankW := !x.bankW }

/-- Revoke what CUTTHRU has released of a tile: the released part ends, a REVOKE record follows (R213). Words put into
the queue below its cut-through threshold were not released, and leave it. DESIGN CHOICE, entry 44. -/
def Dev.revoke (s : Dev) (t : Tile) : Dev :=
  if t.released = 0 then s
  else
    let s := s.modTile t.no (fun t => { t with released := 0 })
    if s.qCutReady t.q then
      let s := (s.bump P.ephRevokeCount t.q 1).fireAsync 92
      let s := s.putQueue t.q (s.queue t.q).endOpen
      s.qItem t.q (recRevoke t.q t.seq t.released t.frame s.tb)
    else s.putQueue t.q ((s.queue t.q).removeOpen (s.pv P.qSizeLog2 t.q))

/-- Report a tile as a gap; its record is written when its turn to commit comes (R216). -/
def Dev.gapTile (s : Dev) (no cause : Nat) : Dev :=
  s.modTile no (fun t => { t with st := .gap cause, result := none })

/-- A tile of the registered web that finds no eligible nib in the quad is reported with cause NO_NIB (R83, R206). -/
def Dev.noNibGaps (s : Dev) : Dev :=
  match s.regQuad with
  | none => s
  | some q =>
    let ms := quadOf (4 * q)
    let fenced := ms.filter (fun m => s.nibSt m == E.nibState.FENCED)
    let dead := fun (t : Tile) => if s.loadSplit t.slot t.load then !fenced.isEmpty else fenced.length == 4
    { s with tiles := s.tiles.map (fun t =>
        if s.isRegSeq t.q && dead t && t.waits
        then { t with st := .gap 2, result := none } else t) }

/-- Place a tile for replay after nib `n` failed it, or report it (R206). REPLAY sets when the first tile becomes
pending replay (R208). DESIGN CHOICE, entry 44. -/
def Dev.placeReplay (s : Dev) (no n : Nat) : Dev :=
  match s.tile no with
  | none => s
  | some t =>
    let s := s.revoke t
    if s.pv P.ephReplayLimit 0 ≤ t.replays then
      s.modTile no (fun t => { t with st := .gap 1, result := none, failed := n :: t.failed })
    else
      let s := s.modTile no (fun t => { t with st := .replay, result := none, failed := n :: t.failed, since := s.now })
      ((s.fireAsync 91).putModeBit M.replay true).noNibGaps

/-- Whether a tile is one that REPLAY waits for: it has been placed for replay (R208). -/
def Tile.replaying (t : Tile) : Bool := !t.failed.isEmpty

/-- REPLAY clears when the last replayed tile has committed or been reported (R208). -/
def Dev.settleReplay (s : Dev) : Dev :=
  if s.tiles.any Tile.replaying then s else s.putModeBit M.replay false

/-! ## Fencing (R188, R210, R211) -/

/-- Fence a nib: its handshakes end, every ledger entry is reclaimed, every tile it held is placed for replay.
DEDUCED, entry 77. -/
def Dev.fenceNib (s : Dev) (n : Nat) : Dev :=
  if s.nibSt n = E.nibState.FENCED then s
  else
    let x := s.nib n
    let mine := (s.ledger.filter (fun g => g.nib == n)).length
    let s := (s.setNibSt n E.nibState.FENCED).addLog 10 0 n 0
    let s := (s.bump P.ephLedgerReclaimCount 0 mine).ungrant (fun g => g.nib == n)
    let s := s.setNib n { x with bufA := none, bufB := none, reload := false, marching := false, halted := false }
    let s := s.forEach x.held (fun s no => s.placeReplay no n)
    s.noNibGaps

/-- A hardware fault: at the limit within the window the nib is fenced (R188). -/
def Dev.hwFault (s : Dev) (n : Nat) : Dev :=
  let x := s.nib n
  let recent := (s.now :: x.faults).filter (fun i => decide (s.now ≤ i + ms (s.pv P.nibFaultWindowMs 0)))
  let s := s.setNib n { x with faults := recent }
  if s.pv P.nibFaultLimit 0 ≤ recent.length then s.fenceNib n else s

/-! ## Nib faults (R186, R205) -/

inductive NibFault where
  | access | stack | budget | poolFenced | hang
  /-- an uncorrectable word; true in the program or constant region -/
  | ecc (prog : Bool)
  deriving DecidableEq, Repr

/-- `nib.last_fault` of a class. -/
def NibFault.code : NibFault → Nat
  | .access => E.nibLastFault.ACCESS
  | .stack => E.nibLastFault.STACK
  | .budget => E.nibLastFault.BUDGET
  | .poolFenced => E.nibLastFault.POOL_FENCED
  | .ecc _ => E.nibLastFault.ECC
  | .hang => E.nibLastFault.HANG

/-- The tile leaves the nib: its buffer and the nib's grants for it are free. -/
def Dev.freeTile (s : Dev) (n no : Nat) (all : Bool) : Dev :=
  let x := s.nib n
  let s := s.progress.setNib n { x.drop no with running := false, idleSince := s.now }
  s.ungrant (fun g => g.nib == n && g.tile == no && (all || g.kind == 0 || g.kind == 3))

/-- A tile that a nib held and had not started goes back to Ephemeris (R187). -/
def Dev.giveBack (s : Dev) (n no : Nat) : Dev :=
  ((s.setNib n ((s.nib n).drop no)).ungrant (fun g => g.nib == n && g.tile == no)).modTile no
    (fun t => { t with st := .waiting, since := s.now })

/-- A fault of the running tile (R186): the result is discarded, the tile returns with its class, the nib goes to the
state of the table. ACCESS, STACK and BUDGET commit in turn (R200); the others replay (R205). A fault after the hand-over is
charged to no tile: a tile in the other buffer goes back unstarted (R187). -/
def Dev.nibFault (s : Dev) (n : Nat) (f : NibFault) : Dev :=
  let s := (s.bump P.nibFaultCount n 1).setP P.nibLastFault n f.code
  match (s.nib n).cur with
  | none =>
    let s := (s.nib n).held.foldl (fun s no => s.giveBack n no) s
    let s := s.setNib n { s.nib n with running := false, idleSince := s.now }
    (match f with
     | .ecc inProg =>
       let s := if inProg then (s.setNib n { s.nib n with reload := true }).setNibSt n E.nibState.LOADING
         else s.setNibSt n E.nibState.IDLE
       s.hwFault n
     | .hang => (s.setNib n { s.nib n with faults := s.now :: (s.nib n).faults }).fenceNib n
     | _ => s.setNibSt n E.nibState.IDLE)
  | some no =>
    let commit := fun (outcome : Nat) =>
      let s := s.modTile no (fun t => { t with st := .done, result := some ⟨outcome, [], [], [], 0⟩, since := s.now })
      (s.freeTile n no false).setNibSt n E.nibState.IDLE
    match f with
    | .access => commit outAccess
    | .stack => commit outStack
    | .budget => commit outBudget
    | .poolFenced => ((s.freeTile n no true).setNibSt n E.nibState.IDLE).placeReplay no n
    | .ecc inProg =>
      let s := (s.freeTile n no true).placeReplay no n
      let s := if inProg then (s.setNib n { s.nib n with reload := true }).setNibSt n E.nibState.LOADING
        else s.setNibSt n E.nibState.IDLE
      s.hwFault n
    | .hang => (s.setNib n { s.nib n with faults := s.now :: (s.nib n).faults }).fenceNib n

end Sys2Proof.Machine
end

