-- ==== Sys2Proof/Machine/MbOps.lean ====
section
/-! DEFINITION. Mailboxes: requests, paths, acceptance, ordering, the final status (R316 to R326). -/
namespace Sys2Proof.Machine

/-! ## Status codes (R326) -/

namespace C
abbrev ok : Nat := 0x00
abbrev badOpcode : Nat := 0x01
abbrev badHeader : Nat := 0x02
abbrev badParam : Nat := 0x03
abbrev badInstance : Nat := 0x04
abbrev badValue : Nat := 0x05
abbrev busy : Nat := 0x06
abbrev noMemory : Nat := 0x07
abbrev noResource : Nat := 0x08
abbrev late : Nat := 0x09
abbrev denied : Nat := 0x0A
abbrev isSealed : Nat := 0x0B
abbrev auditFull : Nat := 0x0C
abbrev badTable : Nat := 0x0D
abbrev badProgram : Nat := 0x0E
abbrev badSignature : Nat := 0x0F
abbrev headFault : Nat := 0x10
abbrev headAbsent : Nat := 0x11
abbrev unsupported : Nat := 0x12
abbrev busError : Nat := 0x13
abbrev sourceError : Nat := 0x14
abbrev selftest : Nat := 0x15
abbrev aborted : Nat := 0x16
abbrev timeout : Nat := 0x1F
end C

/-- A request as the doorbell copied it (R316, R318). -/
structure Req where
  op : Nat
  tag : Nat
  len : Nat
  flags : Nat
  timeout : Nat
  rsv : Nat
  pay : Bytes
  path : Path
  deriving DecidableEq, Repr

/-- The path of a mailbox: 0–15 PF0, 16–19 PF1, 20 the service USB port. -/
def pathOf (m : Nat) : Path := if m < 16 then .pf0 else if m < 20 then .pf1 else .usb

def parseReq (m : Nat) (b : Bytes) : Req :=
  ⟨fld b 0 2, fld b 2 2, fld b 4 2, fld b 6 2, fld b 8 4, fld b 12 4, slice b 16 (Nat.min 240 (fld b 4 2)), pathOf m⟩

def Mailbox.request (b : Mailbox) (m : Nat) : Req := parseReq m (b.snap.read 0 256)

/-- Whether a path carries an opcode; none where the opcode is not defined (R324, R395, R409). -/
def opPath (op : Nat) (p : Path) : Option Bool :=
  if [0x0001, 0x0002, 0x0010, 0x0011, 0x0012, 0x0060, 0x0064, 0x0067, 0x0202, 0x0203, 0x0204, 0x0206].contains op then
    some true
  else if [0x0020, 0x0030, 0x0031, 0x0032, 0x0033, 0x0034, 0x0035, 0x0036, 0x0040, 0x0041, 0x0042, 0x0050, 0x0051,
    0x0052, 0x0065].contains op then some (decide (p = .pf0))
  else if [0x0061, 0x0062, 0x0063, 0x0066, 0x0100, 0x0101, 0x0102, 0x0110, 0x0120, 0x0121, 0x0122, 0x0123, 0x0130,
    0x0201, 0x0205].contains op then some (decide (p ≠ .pf0))
  else none

/-- Payload lengths an opcode allows (R319, R325, R395, R409). -/
def opLen (op len : Nat) (pay : Bytes) : Bool :=
  if [0x0001, 0x0002, 0x0060, 0x0063, 0x0100, 0x0123, 0x0202, 0x0204].contains op then len == 0
  else if [0x0042, 0x0051, 0x0052, 0x0102, 0x0122].contains op then len == 1
  else if [0x0064, 0x0065, 0x0066, 0x0110, 0x0206, 0x00F1].contains op then len == 4
  else if [0x0030, 0x0031, 0x0032, 0x0033, 0x0101, 0x0120].contains op then len == 8
  else if [0x0020, 0x0040, 0x0050, 0x0061, 0x00F0].contains op then len == 16
  else if [0x0035, 0x0036].contains op then len == 12
  else if [0x0121, 0x0130].contains op then decide (8 ≤ len) && decide (len ≤ 240)
  else if [0x0203, 0x0205].contains op then len == 136
  else if op = 0x0010 ∨ op = 0x0011 then
    (if fld pay 1 1 = 1 then len == 16 else len % 16 == 0 && decide (32 ≤ len) && decide (len ≤ 240))
  else if op = 0x0012 then len == 2
  else if op = 0x0034 then len == (if fld pay 11 1 = 32 then 56 else 24)
  else if op = 0x0041 then len == 20
  else if op = 0x0062 then len == 48
  else if op = 0x0067 then len == 96
  else if op = 0x0201 then len == 232
  else false

/-! ## The final status -/

/-- MBm_STATUS (R317). -/
def mbStatus (b : Mailbox) : Nat :=
  (match b.st with | .idle => 0 | .queued => 1 | .running => 2 | .complete => 3 | .timeout => 4)
    + 8 * b2n b.effect + 256 * b.code + 65536 * b.tag

def isFinal (st : MbSt) : Bool := decide (st = .complete) || decide (st = .timeout)

/-- The response header (R318). -/
def rspHeader (r : Req) (len detail code value : Nat) : Bytes :=
  le 2 r.op ++ le 2 r.tag ++ le 2 len ++ le 2 detail ++ le 1 code ++ le 3 0 ++ le 4 value

/-- The mailbox reaches its final status: the interrupt, or the response on the USB port (R316, R397). -/
def Dev.signalMb (s : Dev) (m : Nat) : Dev :=
  if m < 16 then s.raise0 (128 + m)
  else if m < 20 then s.raise1 (m - 16)
  else s.emit (.usb ((s.mb 20).rsp.read 0 256 ++ le 4 (mbStatus (s.mb 20))))

/-- A command reaches its end (R316, R321): after TIMEOUT the completion is discarded and counted. -/
def Dev.finish (s : Dev) (m code detail value : Nat) (effect : Bool) (pay : Bytes) : Dev :=
  let b := s.mb m
  match b.st with
  | .queued | .running =>
    let r := b.request m
    let b := { b with
      rsp := Mem.ofBytes (rspHeader r pay.length detail code value ++ pay)
      st := .complete, effect := effect, code := code, wait := .none, deadline := none }
    ((s.setMb m b).signalMb m).addTrace 1 r.op
  | .timeout => if b.wait = .none then s else (s.setMb m { b with wait := .none }).bump P.ctlLateDoneCount 0 1
  | _ => s

/-- Done, with the effect in place. -/
def Dev.done (s : Dev) (m : Nat) : Dev := s.finish m C.ok 0 0 true []

/-- Done, having changed nothing. -/
def Dev.answer (s : Dev) (m value : Nat) (pay : Bytes) : Dev := s.finish m C.ok 0 value false pay

/-- A failed check: no effect (R320). -/
def Dev.fail (s : Dev) (m code : Nat) : Dev := s.finish m code 0 0 false []

/-- The effect has committed and the command waits for its end. -/
def Dev.await (s : Dev) (m : Nat) (w : Wait) (effect : Bool) : Dev :=
  s.setMb m { s.mb m with st := .running, wait := w, effect := effect }

/-! ## Ordering (R28, R323) -/

/-- What a command names. -/
inductive Res where
  | all | mgmt
  | param (id inst : Nat)
  | stream (n : Nat) | web (n : Nat) | head (n : Nat) | chan (n : Nat) | queue (n : Nat) | nib (n : Nat) | slot (n : Nat)
  deriving DecidableEq, Repr

/-- The things a request names or writes (R323). Entries in host memory are not known at the doorbell: such a
PARAM_SET is taken to conflict with every command. -/
def Req.names (r : Req) (heads : Nat → Nat) : List Res :=
  let p := r.pay
  let streams := bitsOf 64 (fld p 0 8)
  let own : List Res :=
    if r.op = 0x0020 then [.all]
    else if r.op = 0x0011 then
      (if fld p 1 1 = 1 then [.all]
       else (List.range ((r.len - 16) / 16)).map (fun i => .param (fld p (16 + 16 * i) 2) (fld p (18 + 16 * i) 2)))
    else if r.op = 0x0030 ∨ r.op = 0x0031 then streams.map .stream
    else if r.op = 0x0034 then streams.map .stream ++ streams.map (fun i => .head (heads i))
    else if r.op = 0x0032 ∨ r.op = 0x0033 then (bitsOf 4 (fld p 0 1)).map .web
    else if r.op = 0x0035 ∨ r.op = 0x0036 then [.head (fld p 0 1)]
    else if r.op = 0x0040 then .stream (fld p 0 1) :: (if fld p 2 1 = 1 then [.queue (104 + fld p 3 1)] else [])
    else if r.op = 0x0041 then .slot (fld p 0 1) :: (if fld p 1 1 = 1 then [.queue (104 + fld p 2 1)] else [])
    else if r.op = 0x0042 then [.nib (fld p 0 1)]
    else if r.op = 0x0050 ∨ r.op = 0x0051 then [.chan (fld p 0 1)]
    else if r.op = 0x0052 then [.queue (fld p 0 1)]
    else []
  if r.path = .pf0 then own else .mgmt :: own

/-- Whether two commands conflict (R323). DESIGN CHOICE, entry 12. -/
def Res.clash (a b : List Res) : Bool :=
  a.contains .all || b.contains .all || a.any (fun x => b.contains x)

/-- Head of a stream, by the bindings (R17). -/
def Dev.headOf (s : Dev) (st : Nat) : Nat :=
  match s.binds.find? (fun b => b.1 == st) with | some b => b.2.1 | none => 255

def Dev.chanOf (s : Dev) (st : Nat) : Nat :=
  match s.binds.find? (fun b => b.1 == st) with | some b => b.2.2 | none => 255

/-- Whether the command in mailbox `m` may reach its effect commit: no earlier command that conflicts has yet to reach
its own, and a BARRIER command has every earlier one final (R323).
DEDUCED, entry 9; DESIGN CHOICE, entry 12; DESIGN CHOICE, entry 13. -/
def Dev.mayRun (s : Dev) (m : Nat) : Bool :=
  let b := s.mb m
  let r := b.request m
  let mine := r.names s.headOf
  (List.range 21).all (fun j =>
    let c := s.mb j
    if j = m ∨ b.order ≤ c.order ∨ isFinal c.st ∨ c.st = .idle then true
    else
      let theirs := (c.request j).names s.headOf
      if bit r.flags 0 then false
      else if c.st = .queued ∨ c.effect = false then !(Res.clash mine theirs)
      else !(mine.contains .mgmt && theirs.contains .mgmt))

/-- Run the request that waits in mailbox `m`, if it is opcode `op`. A halted Scribe runs none of PF0's (R26, R391). -/
def Dev.command (s : Dev) (m op : Nat) (k : Dev → Req → Dev) : Dev :=
  let b := s.mb m
  if b.st = .queued ∧ (b.request m).op = op ∧ s.mayRun m = true ∧ (s.sec.scribeHalted && decide (m < 16)) = false then k s (b.request m) else s

/-- The same as a meaning. DEDUCED, entry 9. -/
def Dev.cmd (s : Dev) (m op : Nat) (k : Dev → Req → Dev) : Dev := (s.command m op k)

/-! ## Acceptance (R316 to R319, R324) -/

/-- Instant a request times out: from its acceptance (R318, R321). -/
def Dev.deadlineOf (s : Dev) (r : Req) : Option Nat :=
  if r.timeout = 0xFFFFFFFF then none
  else if r.timeout = 0 then some (s.now + us (s.pv P.ctlTimeoutDefaultUs 0))
  else some (s.now + us r.timeout)

/-- Whether a doorbell of mailbox `m` is heard: READY, and only mailbox 0 while the loader serves (R318, R372). The
service USB port is Almanac's and is heard in every power state (R380). DESIGN CHOICE, entry 13. -/
def Dev.hears (s : Dev) (m : Nat) : Bool := if m = 20 then true else s.rst.ready && (!s.rst.loader || m == 0)

/-- A doorbell: the window is copied and the request queued; a request that fails the header rules completes.
DEDUCED, entry 9. -/
def Dev.doorbell (s : Dev) (m : Nat) : Dev :=
  let b := s.mb m
  if !s.hears m then s
  else if b.st = .queued ∨ b.st = .running then (if m < 20 then s.bump P.ctlMbBusyCount m 1 else s)
  else
    let snap := b.req
    let r := parseReq m (snap.read 0 256)
    let s := { s with doorbells := s.doorbells + 1 }
    let s := s.setMb m { b with
      snap := snap, rsp := .empty, st := .queued, effect := false, code := 0, tag := r.tag,
      deadline := s.deadlineOf r, wait := .none, order := s.doorbells }
    let s := if m < 20 then s.bump P.ctlCmdCount m 1 else s
    let loader := s.rst.loader && m == 0
    if 240 < r.len ∨ r.rsv ≠ 0 ∨ 1 < r.flags then s.fail m C.badHeader
    else if loader then
      (if r.op = 0x0001 ∨ r.op = 0x00F0 ∨ r.op = 0x00F1 then
        (if opLen r.op r.len r.pay then s else s.fail m C.badHeader)
       else s.fail m C.badOpcode)
    else
      match opPath r.op r.path with
      | none => s.fail m C.badOpcode
      | some false => s.fail m C.denied
      | some true => if opLen r.op r.len r.pay then s else s.fail m C.badHeader

/-- The timeout of a mailbox (R321): a command not yet committed is cancelled. -/
def Dev.timeoutMb (s : Dev) (m : Nat) : Dev :=
  let b := s.mb m
  match b.deadline with
  | none => s
  | some d =>
    if d ≤ s.now ∧ (b.st = .queued ∨ b.st = .running) then
      let r := b.request m
      let s := s.setMb m { b with
        rsp := Mem.ofBytes (rspHeader r 0 0 C.timeout 0)
        st := .timeout, code := C.timeout, deadline := none
        wait := if b.effect then b.wait else .none }
      let s := if m < 20 then s.bump P.ctlTimeoutCount m 1 else s
      s.signalMb m
    else s

/-- Mailboxes return to IDLE with their windows clear (R322). -/
def Dev.clearMbs (s : Dev) (ms : List Nat) : Dev := s.forEach ms (fun s m => s.setMb m .reset)

/-- Finish every mailbox that waits for `w`. -/
def Dev.wake (s : Dev) (p : Wait → Bool) (k : Dev → Nat → Dev) : Dev :=
  s.forEach (List.range 21) (fun s m => if p (s.mb m).wait then k s m else s)

end Sys2Proof.Machine
end

