-- ==== Sys2Proof/Machine/Program.lean ====
section
/-! DEFINITION. Program containers and slots: the container check, loads, reloads, the march test, tile start, parking,
hangs and timeouts of a nib (R158, R176 to R181, R185 to R188, R341). -/
namespace Sys2Proof.Machine

/-! ## The container (R176, R177) -/

/-- What a CLASS and OP require of the word's fields (R169, R170): the EW values accepted, fields that name a mask,
fields that name an accumulator, whether the rounding mode is read. -/
structure OpRule where
  ew : List Nat
  dstMask : Bool
  aMask : Bool
  bMask : Bool
  dstAcc : Bool
  aAcc : Bool
  rounds : Bool
  deriving DecidableEq, Repr

def opAny : OpRule := ⟨[0, 1, 2], false, false, false, false, false, false⟩
def opInt : OpRule := { opAny with ew := [0, 1] }

/-- The OPs of every class (R170); none for an undefined one. -/
def opRule (cls op : Nat) : Option OpRule :=
  match cls with
  | 0x0 => if op ≤ 6 ∨ op = 8 then some opAny else none
  | 0x1 => if op ≤ 0xD then some opAny else none
  | 0x2 =>
    if op = 0 ∨ 0x15 < op then none
    else some { opInt with rounds := decide (0x10 ≤ op) && decide (op ≤ 0x12) }
  | 0x3 =>
    if op = 1 then some { opInt with rounds := true }
    else if 2 ≤ op ∧ op ≤ 4 then some { opAny with ew := [0], dstAcc := true }
    else if op = 5 then some { opAny with ew := [1], dstAcc := true }
    else none
  | 0x4 =>
    if op = 1 then some { opAny with dstAcc := true }
    else if op = 2 ∨ op = 3 then some { opAny with ew := [0], aAcc := true, rounds := true }
    else none
  | 0x5 =>
    if op = 2 then some { opAny with ew := [2], dstAcc := true }
    else if 1 ≤ op ∧ op ≤ 4 then some { opAny with ew := [2] }
    else none
  | 0x6 =>
    if 1 ≤ op ∧ op ≤ 8 then some { opInt with dstMask := true }
    else if 9 ≤ op ∧ op ≤ 0xB then some opInt
    else if 0xC ≤ op ∧ op ≤ 0xE then some opAny
    else none
  | 0x7 =>
    if 1 ≤ op ∧ op ≤ 4 then some opInt
    else if op = 5 ∨ op = 6 then some { opAny with aMask := true }
    else none
  | 0x8 =>
    if op = 7 then some { opAny with dstMask := true }
    else if op = 8 then some { opAny with bMask := true }
    else if 1 ≤ op ∧ op ≤ 6 then some opAny
    else none
  | 0x9 => if op = 1 ∨ op = 2 then some opAny else none
  | 0xA => if 1 ≤ op ∧ op ≤ 4 then some opAny else none
  | _ => none

/-- Whether a word of the code is accepted (R177). -/
def wordOk (split : Bool) (w : Nat) : Bool :=
  let cls := bits w 60 4
  let op := bits w 52 8
  let dst := bits w 47 5
  let a := bits w 42 5
  let b := bits w 37 5
  let ew := bits w 35 2
  let imm := ofTwos 32 (w % 2 ^ 32)
  let l : Int := if ew = 1 then 128 else 64
  match opRule cls op with
  | none => false
  | some r =>
    r.ew.contains ew && (!r.dstMask || decide (dst < 8)) && (!r.aMask || decide (a < 8)) && (!r.bMask || decide (b < 8))
      && (!r.dstAcc || decide (dst < 4)) && (!r.aAcc || decide (a < 4)) && (!r.rounds || bits w 6 2 != 3)
      && (cls != 9 || split)
      && (!(cls == 6 && op == 0xA) || (decide (-l ≤ imm) && decide (imm ≤ l)))

/-- A container taken apart; none where R177 refuses its form. DESIGN CHOICE, entry 45. -/
def parseProg (c : Bytes) : Option Prog :=
  let flags := fld c 6 2
  let code := fld c 8 4
  let const := fld c 12 4
  let entry := fld c 16 4
  let sig := fld c 120 4
  let split := bit flags 0
  let ok := decide (128 ≤ c.length) && slice c 0 4 == [0x4E, 0x49, 0x42, 0x43] && fld c 4 2 == 1 && decide (flags < 4)
    && decide (8 ≤ code) && decide (code ≤ 65408) && code % 8 == 0
    && decide (const ≤ if split then 63488 else 15872) && decide (entry < code / 8)
    && decide (fld c 20 2 ≤ 32) && decide (fld c 22 2 ≤ 32) && fld c 28 4 != 0
    && decide (fld c 32 4 ≤ 131072) && decide (fld c 32 4 + 32 * fld c 36 4 ≤ 131072)
    && rsvZero c 80 40 && sig == (if bit flags 1 then 128 else 0) && c.length == 128 + code + const + sig
    && fld c 124 4 == crc32c (c.take 124 ++ slice c 128 (code + const))
  if ok then
    let p : Prog := ⟨c.take 128, slice c 128 code, slice c (128 + code) const, slice c (128 + code + const) sig⟩
    if (List.range (code / 8)).all (fun i => wordOk split (fld p.code (8 * i) 8)) then some p else none
  else none

def Prog.signed (p : Prog) : Bool := bit (fld p.hdr 6 2) 1
def Prog.tileW (p : Prog) : Nat := fld p.hdr 24 2
def Prog.tileH (p : Prog) : Nat := fld p.hdr 26 2
def Prog.marginX (p : Prog) : Nat := fld p.hdr 20 2
def Prog.marginY (p : Prog) : Nat := fld p.hdr 22 2
def Prog.imageMax (p : Prog) : Nat := fld p.hdr 32 4
def Prog.recordMax (p : Prog) : Nat := fld p.hdr 36 4
def Prog.entry (p : Prog) : Nat := fld p.hdr 16 4

/-- The signature rule of the lifecycle state (R382): in BLANK no owner key is held, and a signature is checked under
the key the block carries; from OPEN on a signature is checked under the fused owner program key.
DESIGN CHOICE, entry 45. -/
def Dev.progSigOk (s : Dev) (p : Prog) : Bool :=
  let lc := s.pv P.secLc 0
  let held := s.sec.keys.get [] 0
  if p.signed then
    (if lc = E.secLc.BLANK then sigOk (sha256 (slice p.sig 0 64)) p.digest p.sig
     else if held = [] then false else sigOk held p.digest p.sig)
  else !(decide (E.secLc.FIELDED ≤ lc) && held != [])

/-! ## Reload (R178 to R181) -/

/-- Constant section of one nib (R180). -/
def Prog.constOf (p : Prog) (n : Nat) : Bytes := if p.split then (p.const.drop (15872 * (n % 4))).take 15872 else p.const

/-- Whether reloading nib `n` concerns its whole quad: a POOL_SPLIT slot left or entered (R180). -/
def Dev.quadReload (s : Dev) (n : Nat) : Bool :=
  let split := fun (m : Nat) => (match (s.nib m).prog with | some p => p.split | none => false)
    || s.loadSplit (s.ak (pkey P.nibSlot m 0)) (s.wantLoad m)
  (quadOf n).any split

/-- Whether a reload after a failure of the store brings back the load that the nib holds: of a POOL_SPLIT quad another
load comes only to all four members together (R180, R186, R256). -/
def Dev.sameReload (s : Dev) (n : Nat) : Bool := (s.nib n).reload && (s.nib n).prog.isSome && s.quadReload n

/-- Whether nib `n` may begin its reload: it holds no tile, and with POOL_SPLIT none of its quad holds one. After a bad
word of its program only the running tile ends first (R256). -/
def Dev.mayReload (s : Dev) (n : Nat) : Bool :=
  let free := fun (m : Nat) => (s.nib m).held.isEmpty
  s.needsReload n && s.nibSt n != E.nibState.FENCED && s.nibSt n != E.nibState.LOADING
    && (if (s.nib n).reload then !(s.nib n).running
        else if s.quadReload n then (quadOf n).all (fun m => s.nibSt m == E.nibState.FENCED || free m) else free n)

/-- Begin a reload: the binding takes effect, the nib is LOADING. -/
def Dev.startReload (s : Dev) (n : Nat) : Dev :=
  let s := if s.sameReload n then s else s.setP P.nibSlot n (s.ak (pkey P.nibSlot n 0))
  (s.setNibSt n E.nibState.LOADING).addTrace 2 n

/-- The nib receives its slot's content and is IDLE (R178, R188). A load to the registered quad is due for
attestation (R82). -/
def Dev.endReload (s : Dev) (n : Nat) : Dev :=
  let k := s.pv P.nibSlot n
  let x := s.nib n
  let same := s.sameReload n
  let k := if same then x.slot else k
  let load := if same then x.loadNo else s.wantLoad n
  let prog := if same then x.prog else if k < 32 then s.progOfLoad k load else none
  let const := match prog with | some p => p.constOf n | none => []
  let s := s.setNib n { x with
    prog := prog, const := const, old := x.region0, slot := k, loadNo := if k < 32 then load else 0
    reload := false, marching := false, poison := x.poison.keep (fun w => decide (0x13E00 / 32 ≤ w))
    idleSince := s.now, pc := 0 }
  let s := (s.setNibSt n E.nibState.IDLE).addTrace 2 n
  if s.inRegQuad n then { s with mer := { s.mer with attestDue := true } } else s

/-! ## Starting a tile (R158, R185) -/

/-- The buffer whose tile starts next: the one dispatched first; true for B. -/
def Nib.nextBuf (n : Nib) : Option Bool :=
  match n.bufA, n.bufB with
  | some _, some _ => some (if n.sentA = n.sentB then !n.curB else decide (n.sentB < n.sentA))
  | some _, none => some false
  | none, some _ => some true
  | none, none => none

/-- The registers and store at the start of a tile (R158). -/
def Nib.start (n : Nib) (b : Bool) (now : Nat) : Nib :=
  let n := { n with
    v := .empty, m := .empty, acc := .empty, sreg := .empty, status := 0, loops := [], store := .empty
    granules := .empty, recs := [], wouts := [], icount := 0, curB := b, running := true, lastInstr := now
    pc := match n.prog with | some p => p.entry | none => 0 }
  let n := n.setS 1 (if b then 0x13F00 else 0x13E00)
  let n := n.setS 2 (if b then 0x34000 else 0x14000)
  (n.setS 3 0x54000).setS 4 0x74000

/-- A nib with a tile and none running starts it. -/
def runTileStart (n : Fin 96) (t : Nat) (s : Dev) : Dev :=
  let s := s.at' t
  let x := s.nib n
  if (s.nibSt n = E.nibState.IDLE ∨ s.nibSt n = E.nibState.PARKED) ∧ x.running = false ∧ x.prog.isSome = true
      ∧ x.reload = false then
    match x.nextBuf with
    | none => s
    | some b => ((s.setNib n (x.start b s.now)).setNibSt n E.nibState.BUSY)
  else s

/-- A nib with a reload due that holds no tile begins it; with POOL_SPLIT the quad begins together (R178 to R180). -/
def runNibReload (n : Fin 96) (s : Dev) : Dev :=
  if s.mayReload n then
    let ms := if s.quadReload n && !(s.nib n).reload then (quadOf n).filter s.mayReload else [n.val]
    (s.forEach ms Dev.startReload)
  else s

/-- The reload ends (R178); a NIB_RESET that waits for it completes (R188). -/
def runReloadComplete (n : Fin 96) (t : Nat) (s : Dev) : Dev :=
  let s := s.at' t
  if s.nibSt n = E.nibState.LOADING then
    ((s.endReload n).wake (· == .nib n.val) (fun s m => s.done m))
  else s

/-- The march test of NIB_RESET ends: on a pass the nib reloads, on a failure it stays FENCED (R188). -/
def runMarchTestDone (n : Fin 96) (pass : Bool) (t : Nat) (s : Dev) : Dev :=
  let s := s.at' t
  let x := s.nib n
  if x.marching = true ∧ s.nibSt n = E.nibState.FENCED then
    if pass then
      ((s.setNib n { x with
        marching := false, reload := true, poison := .empty, faults := [], running := false }).startReload n)
    else
      let s := (s.setNib n { x with marching := false }).setP P.nibLastFault n E.nibLastFault.SELFTEST
      (s.wake (· == .nib n.val) (fun s m => s.finish m C.selftest 0 0 true []))
  else s

/-- QUIET parks a nib idle for `mode.quiet_park_us` with no tile waiting for it; not while its quad is registered under
LEGAL (R341, rule k of R346), nor a halted one. DESIGN CHOICE, entry 55. -/
def runNibPark (n : Fin 96) (t : Nat) (s : Dev) : Dev :=
  let s := s.at' t
  let x := s.nib n
  let waits := s.tiles.any (fun t => t.waits && s.nibTakes n t.slot t.load)
  if s.mode M.quiet = true ∧ s.nibSt n = E.nibState.IDLE ∧ x.held.isEmpty = true ∧ x.halted = false
      ∧ waits = false ∧ s.needsReload n = false ∧ x.idleSince + us (s.pv P.modeQuietParkUs 0) ≤ s.now
      ∧ (s.mode M.legal && s.inRegQuad n) = false then
    ((s.setNibSt n E.nibState.PARKED).addTrace 2 n)
  else s

/-- No instruction has completed for `nib.hang_us`: HANG (R186), also between a hand-over and the start of the tile in
the other buffer (R187). It does not run while the nib is halted (rule c). -/
def runNibHang (n : Fin 96) (t : Nat) (s : Dev) : Dev :=
  let s := s.at' t
  let x := s.nib n
  let lim := us (s.pv P.nibHangUs 0)
  let stuck := if x.running then s.nibSt n == E.nibState.BUSY
    else x.cur.isNone && (s.nibSt n == E.nibState.IDLE || s.nibSt n == E.nibState.PARKED)
      && (x.bufA.isSome && decide (x.sentA + lim ≤ s.now) || x.bufB.isSome && decide (x.sentB + lim ≤ s.now))
  if stuck = true ∧ x.halted = false ∧ x.lastInstr + lim ≤ s.now then
    (s.nibFault n .hang)
  else s

/-- No hand-over within `eph.tile_timeout_us` of dispatch: Ephemeris fences the nib (R205). -/
def runTileTimeout (n : Fin 96) (t : Nat) (s : Dev) : Dev :=
  let s := s.at' t
  let x := s.nib n
  let lim := us (s.pv P.ephTileTimeoutUs 0)
  let due := (x.bufA.isSome && decide (x.sentA + lim ≤ s.now)) || (x.bufB.isSome && decide (x.sentB + lim ≤ s.now))
  if due = true ∧ x.halted = false ∧ s.nibSt n ≠ E.nibState.FENCED then (s.fenceNib n) else s

/-- NIB_RESET: the nib is fenced, what it held is reclaimed, and the march test begins (R188, R205). -/
def runNibReset (mb : Fin 21) (t : Nat) (s : Dev) : Dev :=
  (s.at' t).cmd mb 0x0042 (fun s r =>
    let n := fld r.pay 0 1
    if 96 ≤ n then s.fail mb C.badValue
    else
      let s := s.fenceNib n
      (s.setNib n { s.nib n with marching := true }).await mb (.nib n) true)

/-! ## The commands -/

/-- TILE_START. -/
def execTileStart (n : Fin 96) (t : Nat) (s : State) : Out := s.onDev (runTileStart n t)

/-- NIB_RELOAD. -/
def execNibReload (n : Fin 96) (s : State) : Out := s.onDev (runNibReload n)

/-- RELOAD_COMPLETE. -/
def execReloadComplete (n : Fin 96) (t : Nat) (s : State) : Out := s.onDev (runReloadComplete n t)

/-- MARCH_TEST_DONE. -/
def execMarchTestDone (n : Fin 96) (pass : Bool) (t : Nat) (s : State) : Out := s.onDev (runMarchTestDone n pass t)

/-- NIB_PARK. -/
def execNibPark (n : Fin 96) (t : Nat) (s : State) : Out := s.onDev (runNibPark n t)

/-- NIB_HANG. -/
def execNibHang (n : Fin 96) (t : Nat) (s : State) : Out := s.onDev (runNibHang n t)

/-- TILE_TIMEOUT. -/
def execTileTimeout (n : Fin 96) (t : Nat) (s : State) : Out := s.onDev (runTileTimeout n t)

/-- NIB_RESET. -/
def execNibReset (mb : Fin 21) (t : Nat) (s : State) : Out := s.onDev (runNibReset mb t)

end Sys2Proof.Machine
end

