-- ==== Sys2Proof/Machine/LaneOps.lean ====
section
/-! DEFINITION. Lanes, links and Wanerlink packets: which lanes make a link, the packets of R114 to R118, sending up,
low power (R15 to R18, R93 to R125). -/
namespace Sys2Proof.Machine

/-! ## Links (R15, R16) -/

/-- The lane a lane's link is named by: the lowest lane whose width reaches it. DEDUCED, entry 21. -/
def Dev.linkBase (s : Dev) (l : Nat) : Nat :=
  match [8, 4, 2].find? (fun w =>
    let b := l / w * w
    s.pv P.laneWidth b == w && s.pv P.laneMode b == E.laneMode.LINK) with
  | some w => l / w * w
  | none => l

/-- The lanes of the link named by its lowest lane, 8 at most (R15). DEDUCED, entry 21. -/
def Dev.linkLanes (s : Dev) (b : Nat) : List Nat := (List.range (Nat.min 8 (s.pv P.laneWidth b))).map (fun i => b + i)

/-- Bring-up phases (R102). -/
abbrev phTrain : Nat := 1
abbrev phEq : Nat := 2
abbrev phAlign : Nat := 3
abbrev phDelay : Nat := 4
abbrev phIdent : Nat := 5
abbrev phUp : Nat := 6

/-- Whether a link of head `h` carries traffic: the head bears the number of its link's lowest lane, and the numbers of
the upper lanes are unused (R16). -/
def Dev.linkUp (s : Dev) (h : Nat) : Bool := s.linkBase h == h && (s.lane h).phase == phUp

def Dev.setLaneSt (s : Dev) (l v : Nat) : Dev := s.setP P.laneState l v

def Dev.modLanes (s : Dev) (b : Nat) (f : Lane → Lane) : Dev :=
  s.forEach (s.linkLanes b) (fun s l => s.setLane l (f (s.lane l)))

def Dev.setLaneSts (s : Dev) (b v : Nat) : Dev := s.forEach (s.linkLanes b) (fun s l => s.setLaneSt l v)

/-- Loop in force on a link (R123). -/
def Dev.loopOf (s : Dev) (b : Nat) : Nat := if s.mode M.loop then s.pv P.laneLoop b else E.laneLoop.NONE

/-- Whether a PLL of R369 holds a lane in WAIT_LOCK. -/
def Dev.tileUnlocked (s : Dev) (l : Nat) : Bool := s.rst.unlocked.get false (l / 8)

/-! ## Packets (R114, R115) -/

structure Pkt where
  ty : Nat
  chan : Nat
  lineScan : Bool
  last : Bool
  headLate : Bool
  len : Nat
  /-- bytes 4–18 -/
  f : Bytes
  seq : Nat
  tag : Nat
  pay : Bytes
  /-- HCRC good; CRC-32C good -/
  hdrOk : Bool
  crcOk : Bool
  deriving DecidableEq, Repr

/-- A packet taken apart. A LENGTH above 1,024, which the manual gives no meaning, counts as a bad header: the packet is
discarded uncounted (R114). DESIGN CHOICE, entry 80. -/
def parsePkt (b : Bytes) : Pkt :=
  let fl := fld b 1 1
  let len := fld b 2 2
  let body := roundUp (24 + len + 8) 32 - 8
  ⟨fld b 0 1, fl % 8, bit fl 3, bit fl 4, bit fl 5, len, slice b 4 15, fld b 19 1, fld b 20 2, slice b 24 len,
   fld b 22 2 == crc16 (slice b 0 22) && decide (len ≤ 1024), fld b body 4 == crc32c (slice b 0 body)⟩

/-- Build a packet; `f` are bytes 4–18. -/
def mkPkt (ty flags : Nat) (f : Bytes) (seq tag : Nat) (pay : Bytes) : Bytes :=
  let h := le 1 ty ++ le 1 flags ++ le 2 pay.length ++ slice f 0 15 ++ le 1 seq ++ le 2 tag
  let h := h ++ le 2 (crc16 h)
  let body := slice (h ++ pay) 0 (roundUp (24 + pay.length + 8) 32 - 8)
  body ++ le 4 (crc32c body) ++ le 4 0

/-! ## The up direction (R109, R110) -/

/-- Position of a lane within its link. -/
def Dev.laneInLink (s : Dev) (l : Nat) : Nat := l - s.linkBase l

/-- Width code of a link: 0 to 3 for 1, 2, 4, 8 lanes. -/
def Dev.widthCode (s : Dev) (b : Nat) : Nat := Nat.log2 (s.pv P.laneWidth b)

/-- The payload of an up ALIGN block (R98); TB_AT_HEAD is TB at the head's balls, by the one-way delay, to the nearest ns (R112). -/
def Dev.alignPayload (s : Dev) (l : Nat) : Bytes :=
  let b := s.linkBase l
  let body := [0x1E, 0xE1, 0x4B, 0x96] ++ le 1 (s.laneInLink l) ++ le 1 (s.widthCode b)
    ++ le 2 ((s.lane l).alignCount % 65536) ++ le 8 ((s.tbPs + s.pv P.headDelayPs b + 500) / 1000) ++ List.replicate 14 0xC3
  body ++ le 2 (crc16 body)

/-- Whether an attempt runs at HALF (R103). -/
def Dev.halfRate (s : Dev) (b : Nat) : Bool :=
  s.pv P.laneRate b == E.laneRate.HALF || (s.pv P.laneRate b == E.laneRate.AUTO && s.pv P.laneAttempt b % 2 == 0)

/-- The CRC8 of bits 63 to 8 of a control field (R100). -/
def fieldCrc (f : Nat) : Nat := crc8 ((List.range 7).map (fun i => BitVec.ofNat 8 (f / 2 ^ (8 * (7 - i)))))

/-- The control field of a lane's own training frame (R96, R100, R101). Its own receiver counts as adapted from EQ on;
what it asks of the partner's taps in EQ is left open. -/
def Dev.trainField (s : Dev) (l : Nat) : Nat :=
  let b := s.linkBase l
  let x := s.lane l
  let eq := x.phase == phEq
  let f := 9 * 2 ^ 60 + (if eq then (Config.coefReq l s.now).toNat else 0) * 2 ^ 54 + x.limit % 8 * 2 ^ 51 + b2n eq * 2 ^ 50
    + s.pv P.lanePrecodeRx l % 2 * 2 ^ 49 + b2n (s.halfRate b) * 2 ^ 48 + s.laneInLink l % 8 * 2 ^ 45
    + s.widthCode b % 4 * 2 ^ 43 + 2 ^ 40 + x.frameSeq % 256 * 2 ^ 8
  f + fieldCrc f

/-- Send training frames on a lane, 0 for frames one after another. They ask the partner for the precoding of
`lane.precode_rx`, and the own precoder starts anew after them (R96). -/
def Dev.sendFrames (s : Dev) (l n : Nat) : Dev :=
  let x := s.lane l
  (s.setLane l { x with
    frameSeq := (x.frameSeq + n) % 256, rxPre := s.pv P.lanePrecodeRx l == 1, tx := { x.tx with last := 0 } }).emit
    (.burst l n (frameSymbols (s.laneInLink l) (s.trainField l)))

/-- An ALIGN block stands first in a lane's next codeword (R98). -/
def Dev.sendAlign (s : Dev) (l : Nat) : Dev :=
  let p := s.alignPayload l
  let x := s.lane l
  (s.setLane l { x with alignCount := (x.alignCount + 1) % 65536, align := some p }).emit (.block l p)

/-- Blocks join those of the link that wait, from the next lane, or from the lowest lane with IDLE blocks put before
(R111). -/
def Dev.pushBlocks (s : Dev) (b : Nat) (low : Bool) (l : List Blk) : Dev :=
  let x := s.head b
  let w := (s.linkLanes b).length
  let pad := if low then (w - x.txq.length % w) % w else 0
  s.setHead b { x with txq := x.txq ++ List.replicate pad idleBlk ++ l }

/-- A control block on every lane of a link. -/
def Dev.pushAll (s : Dev) (b : Nat) (pay : Bytes) : Dev :=
  (s.forEach (s.linkLanes b) (fun s l => s.emit (.block l pay))).pushBlocks b true
    (List.replicate (s.linkLanes b).length ⟨false, pay⟩)

/-- The blocks of a packet (R114). -/
def pktBlocks (p : Bytes) : List Blk := (chunks 32 p (p.length / 32)).map (fun c => ⟨true, c⟩)

/-- The blocks of the link's next codeword slot, by lane: an ALIGN block that is due, then those that wait, IDLE where
there are none (R94, R98, R111). -/
def Dev.takeSlot (s : Dev) (b : Nat) : Dev × List (List Blk) :=
  let lanes := s.linkLanes b
  let w := lanes.length
  let no := (s.lane b).txNo
  let s := if no = 0 ∧ (s.lane b).align = none then s.forEach lanes Dev.sendAlign else s
  let n := if (s.lane b).align.isSome then 19 else 20
  let x := s.head b
  let l := x.txq.take (n * w)
  let l := l ++ List.replicate (n * w - l.length) idleBlk
  let blks := lanes.map (fun i =>
    ((s.lane i).align.map (fun p => [(⟨false, p⟩ : Blk)])).getD []
      ++ (List.range n).map (fun k => l.getD (k * w + s.laneInLink i) idleBlk))
  let s := s.setHead b { x with txq := x.txq.drop (n * w) }
  (s.modLanes b (fun y => { y with align := none, txNo := (no + 1) % 200 }), blks)

/-- A lane sends a codeword (R94). -/
def Dev.codeSlot (s : Dev) (l : Nat) (blks : List Blk) : Dev × List Nat :=
  let x := s.lane l
  let y := encodeBlocks (s.laneInLink l) (s.pv P.lanePrecodeTx l == 1) x.tx blks
  (s.setLane l { x with tx := y.1 }, y.2)

/-- The device sends the codewords of a slot on every lane of a link. -/
def Dev.sendSlot (s : Dev) (b : Nat) : Dev :=
  let (s, blks) := s.takeSlot b
  ((s.linkLanes b).zip blks).foldl (fun s p =>
    let (s, syms) := s.codeSlot p.1 p.2
    s.emit (.codeword p.1 syms)) s

/-- The up direction leaves low power with a training burst, then ALIGN: 8 frames from EI, 64 from SLEEP (R109). -/
def Dev.wakeUp (s : Dev) (b : Nat) : Dev :=
  s.forEach (s.linkLanes b) (fun s l =>
    let x := s.lane l
    if x.upPower = 0 then s
    else
      let s := s.setLane l { x with upPower := 0 }
      let s := if s.pv P.laneState l = E.laneState.EI then s.setLaneSt l E.laneState.UP else s
      (s.sendFrames l (if x.upPower = 1 then 8 else 64)).sendAlign l)

/-- Put a packet on a head's up direction; SEQ runs per channel (R114). -/
def Dev.putUp (s : Dev) (h ty chan : Nat) (f : Bytes) (tag : Nat) (pay : Bytes) : Dev :=
  let s := s.wakeUp h
  let x := s.head h
  let q := x.upSeq.get 0 chan
  let s := s.setHead h { x with upSeq := x.upSeq.set 0 chan ((q + 1) % 256), lastUp := s.now }
  let p := mkPkt ty chan f q tag pay
  (s.emit (.up h p)).pushBlocks h false (pktBlocks p)

/-- Send a packet on a head's link, if it is up and in no loop: FAR sends no messages, and under NES and NEP
`lane.pattern` selects what is sent (R123, R124). -/
def Dev.sendUp (s : Dev) (h ty chan : Nat) (f : Bytes) (tag : Nat) (pay : Bytes) : Dev :=
  if s.linkUp h && s.loopOf h == E.laneLoop.NONE then s.putUp h ty chan f tag pay else s

/-- The emulator's packet of a line that carries `n` bytes from offset `k` (R124). -/
def emuPay (line k n : Nat) : Bytes := (List.range n).map (fun i => BitVec.ofNat 8 ((k + i + line) % 256))

/-- The head emulator of a near-end loop sends a line of a channel, as the packets of a head would be (R116, R124): they
come back round the loop. DESIGN CHOICE, entry 26. -/
def Dev.emuLine (s : Dev) (h chan id : Nat) : Dev :=
  let near := s.loopOf h == E.laneLoop.NES || s.loopOf h == E.laneLoop.NEP
  if near && s.linkUp h && s.pv P.lanePattern h == E.lanePattern.PACKETS && decide (chan < s.pv P.laneEmuChannels h) then
    let len := ceilDiv (12 * s.pv P.laneEmuWidth h) 8
    let line := (s.head h).emuLine.get 0 chan
    let s := s.setHead h { s.head h with emuLine := (s.head h).emuLine.set 0 chan ((line + 1) % 2 ^ 32) }
    let n := ceilDiv len 1024
    s.forEach (List.range n) (fun s i =>
      let m := Nat.min 1024 (len - 1024 * i)
      let x := s.head h
      let q := x.upSeq.get 0 chan
      let fl := chan + 8 + (if i + 1 = n then 16 else 0)
      let f := le 4 0 ++ le 4 line ++ le 4 (1024 * i) ++ le 2 0 ++ le 1 12
      (s.setHead h { x with upSeq := x.upSeq.set 0 chan ((q + 1) % 256) }).pushBlocks h false
        (pktBlocks (mkPkt 1 fl f q (id % 65536) (emuPay line (1024 * i) m))))
  else s

/-- Streams bound to a head (R17). -/
def Dev.streamsOf (s : Dev) (h : Nat) : List Nat := (s.binds.filter (fun b => b.2.1 == h)).map Prod.fst

/-- Stream bound to a head's sensor channel. -/
def Dev.streamOn (s : Dev) (h c : Nat) : Option Nat :=
  (s.binds.find? (fun b => b.2.1 == h && b.2.2 == c)).map Prod.fst

/-! ## Awaited messages (R121, R155) -/

/-- Send a message that awaits its ACK, with the next TAG. -/
def Dev.sendMsg (s : Dev) (h ty chan : Nat) (f pay : Bytes) (mb set streams : Nat) : Dev :=
  let tag := (s.head h).nextTag
  let s := s.sendUp h ty chan f tag pay
  let x := s.head h
  s.setHead h { x with
    nextTag := (tag + 1) % 65536
    done := x.done.filter (· != tag)
    waiting := x.waiting ++ [⟨tag, ty, f ++ pay, mb, 0, s.now, set, streams⟩] }

/-- Whether a head can take a message: its `head.state` is UP (R326). -/
def Dev.headUp (s : Dev) (h : Nat) : Bool := s.pv P.headState h == E.headState.UP && s.linkUp h

/-! ## Link changes (R102 to R104, R123, R369) -/

/-- Start an attempt on a link: every lane sends training frames, or waits for its PLL, in WAIT_LOCK if its tile has been
released (R369). -/
def Dev.attempt (s : Dev) (b n : Nat) : Dev :=
  let st :=
    if !s.tileUnlocked b then E.laneState.TRAINING
    else if s.rst.waitLock.get false (b / 8) then E.laneState.WAIT_LOCK else E.laneState.OFF
  let s := s.modLanes b (fun x => { x with
    phase := if st = E.laneState.TRAINING then phTrain else 0
    good := 0, aligned := false, bad := 0, since := s.now, eqFail := 0, downPower := 0, upPower := 0, sleepSeen := 0
    blocks := [], ctl := [], align := none, prbs := none, rxNo := 0, txNo := 0 })
  let s := s.setLaneSts b st
  let s := s.setHead b { s.head b with txq := [], rxj := 0, part := [] }
  let s := s.forEach (s.linkLanes b) (fun s l => s.setP P.laneAttempt l n)
  if st = E.laneState.TRAINING then s.forEach (s.linkLanes b) (fun s l => s.sendFrames l 0) else s

/-- The lane's head is gone: its state and the messages that wait on it. A command whose message awaits its ACK
fails with HEAD_ABSENT (R326). -/
def Dev.dropHead (s : Dev) (h : Nat) : Dev :=
  let ws := (s.head h).waiting
  let s := s.setHead h { Head.reset with nextTag := (s.head h).nextTag, upSeq := (s.head h).upSeq }
  let s := s.setP P.headState h E.headState.NONE
  ws.foldl (fun s m => if (s.mb m.mb).wait = .ack h m.tag then s.finish m.mb C.headAbsent 0 0 false [] else s) s

/-- NES and NEP skip DELAY and IDENT (R123). -/
def Dev.shortBringup (s : Dev) (b : Nat) : Bool :=
  s.loopOf b == E.laneLoop.NES || s.loopOf b == E.laneLoop.NEP

/-- The link comes up: each lane saves its CTLE and DFE values (R102, R106). -/
def Dev.linkCameUp (s : Dev) (b : Nat) : Dev :=
  let s := s.forEach (s.linkLanes b) (fun s l =>
    let eq := (List.range 13).map (Config.eqValue l s.now)
    (s.setLane l { s.lane l with phase := phUp, since := s.now, driftAt := s.now, saved := eq }).setP P.laneEqCtleBoost l
      (eq.headD 0 % 16))
  let s := s.setLaneSts b (if s.loopOf b = E.laneLoop.NONE then E.laneState.UP else E.laneState.LOOP)
  let s := s.setHead b { s.head b with lastUp := s.now, probeAt := s.now }
  (s.setP P.headState b E.headState.UP)

/-- A time of the chapter at the rate in force (R93). -/
def Dev.laneTime (s : Dev) (b t : Nat) : Nat := if s.halfRate b then 2 * t else t

/-- Timeout of a bring-up phase (R102). -/
def phaseTimeout (ph : Nat) : Nat :=
  if ph = phTrain then ms 2 else if ph = phEq then ms 8 else if ph = phAlign then ms 1 else if ph = phDelay then ms 1 else ms 10

/-- Every lane of a link enters a phase and sends what it sends there: training frames in EQ, ALIGN and IDLE blocks in
ALIGN_LOCK (R98, R102). -/
def Dev.enterPhase (s : Dev) (b ph : Nat) : Dev :=
  let s := s.modLanes b (fun x => { x with phase := ph, good := 0, since := s.now })
  if ph = phEq then s.forEach (s.linkLanes b) (fun s l => s.sendFrames l 0)
  else if ph = phAlign then s.forEach (s.linkLanes b) Dev.sendAlign
  else s

/-- Send DELAY_PROBE on the lowest lane (R112). DESIGN CHOICE, entry 25. -/
def Dev.sendProbe (s : Dev) (h : Nat) : Dev :=
  let x := s.head h
  let n := x.probeNum
  let p := [0x55] ++ le 2 n ++ List.replicate 29 0
  ((s.setHead h { x with probe := some (n, s.now), probeNum := (n + 1) % 65536 }).emit (.block h p)).pushBlocks h true
    [⟨false, p⟩]

end Sys2Proof.Machine
end

