-- ==== Sys2Proof/Machine/PosOps.lean ====
section
/-! DEFINITION. Encoders and position axes: interpolation, scaling, fusion, spans, SLIP, LOS and DEAD, reversal,
velocity, span axes (R31 to R44, R237). Positions are in 1/65,536 count. -/
namespace Sys2Proof.Machine

/-! ## Encoders (R34, R36) -/

/-- Edge times have the resolution of the time-to-digital converter, 1/16 rt. DESIGN CHOICE, entry 28. -/
def tdc (t : Nat) : Nat := t / 400 * 400

/-- The interpolated fraction at an instant, with the sign of the last step (R34). -/
def Enc.fraction (e : Enc) (t : Nat) : Int :=
  if e.d0 = 0 ∨ e.d1 = 0 ∨ e.d0 ≠ e.d1 then 0
  else if t ≤ e.t1 then 0
  else if e.t1 = e.t0 then e.d1 * 65535
  else e.d1 * (Nat.min (65536 * (t - e.t1) / (e.t1 - e.t0)) 65535 : Nat)

/-- The encoder as it stood at a past instant, as far as its kept steps reach (R54, R76). -/
def Enc.back (e : Enc) (t : Nat) : Enc :=
  if e.t1 ≤ t then e
  else
    match e.past.find? (fun p => decide (p.1 ≤ t)) with
    | some (t1, c, t0, d1, d0) => { e with t1 := t1, count := c, t0 := t0, d1 := d1, d0 := d0 }
    | none =>
      match e.past.getLast? with
      | some (t1, c, t0, d1, d0) => { e with t1 := t1, count := c, t0 := t0, d1 := d1, d0 := d0 }
      | none => e

/-- The encoder's 48.16 count at an instant. -/
def Enc.at' (e : Enc) (t : Nat) : Int := (e.back t).count * 65536 + (e.back t).fraction t

/-- u_i (R36). -/
def Dev.encU (s : Dev) (e t : Nat) : Int :=
  ((s.enc e).at' t * (s.pv P.posEncRatioNum e : Int)).fdiv (s.pv P.posEncRatioDen e)

def Dev.encLos (s : Dev) (e : Nat) : Bool := bit (s.pv P.posEncStatus e) 1
def Dev.encFast (s : Dev) (e : Nat) : Bool := bit (s.pv P.posEncStatus e) 2

/-! ## Axes -/

abbrev slipBit : Nat := 0
abbrev lostBit : Nat := 1
abbrev deadBit : Nat := 2
abbrev dirBit : Nat := 3

def Dev.members (s : Dev) (x : Nat) : List Nat := bitsOf 8 (s.pv P.posAxisMembers x)
def Dev.axisBit (s : Dev) (x b : Nat) : Bool := bit (s.pv P.posAxisStatus x) b
def Dev.setAxisBit (s : Dev) (x b : Nat) (v : Bool) : Dev :=
  s.setP P.posAxisStatus x (putBit (s.pv P.posAxisStatus x) b v)
def Dev.axisEvent (s : Dev) (x b : Nat) : Dev := s.setP P.posAxisEvents x (setBit (s.pv P.posAxisEvents x) b)

/-- Whether an axis reads DEAD: its status bit, or off (R38). -/
def Dev.axisDead (s : Dev) (x : Nat) : Bool := s.axisBit x deadBit || (s.members x).isEmpty

/-- The fused increment of the members' increments (R37). -/
def fuse (method : Nat) (primary : Int) (d : List Int) : Int :=
  if method = E.posAxisMethod.MEAN then (d.foldl (· + ·) 0).fdiv d.length
  else if method = E.posAxisMethod.MEDIAN3 then
    match d with
    | [a, b, c] => max (min a b) (min (max a b) c)
    | _ => primary
  else primary

/-! ### Span axes (R237, R340) -/

def Dev.spanLeading (s : Dev) : Bool := s.pv P.spanState 0 == E.spanState.LEADING
def Dev.spanLocked (s : Dev) : Bool := s.pv P.spanState 0 == E.spanState.LOCKED

/-- Whether an axis is a span axis of a device that follows. -/
def Dev.follows (s : Dev) (x : Nat) : Bool :=
  s.mode M.span && !s.spanLeading && bit (s.pv P.spanAxisMask 0) x

/-- The frame from which a locked follower takes an axis (R237, R241). -/
def Dev.frameOf (s : Dev) (x : Nat) : Option SyncInfo :=
  if s.follows x && s.spanLocked && !(s.axis x).spanDead then s.span.last else none

/-- `pos.axis.status` (R38, R41, R237): a follower takes all of it from the frame; DEAD is set while an axis is off or a
span holds it. -/
def Dev.axisStatus (s : Dev) (x : Nat) : Nat :=
  if s.follows x then
    match s.frameOf x with
    | some f => bits f.status (4 * x) 4
    | none => putBit (s.pv P.posAxisStatus x) deadBit true
  else putBit (s.pv P.posAxisStatus x) deadBit (s.axisDead x || (s.axis x).spanDead)

/-- Whether an axis reads DEAD, so that what is scheduled on it stops (R38, R41, R241). -/
def Dev.axisStops (s : Dev) (x : Nat) : Bool := bit (s.axisStatus x) deadBit

/-- The position of an axis at an instant by a sync frame; which way it is rounded is left open (R237). -/
def SyncInfo.posAt (f : SyncInfo) (tbPs : Int) (x : Nat) : Int :=
  let unit : Int := 256 * 10 ^ 12
  let d : Int := 256 * tbPs - 1000 * f.tbTx
  let v := f.vel.getD x 0
  let a := f.acc.getD x 0
  wrap64 (f.pos.getD x 0 + roundTo Config.spanUp (65536 * (2 * v * d * unit + a * d * d)) (2 * unit * unit))

/-! ### The output at an instant (R36 to R41, R54, R237) -/

/-- How the output follows from the device's own encoders, or is held. -/
def Dev.localView (s : Dev) (x : Nat) : AxisView :=
  let a := s.axis x
  { hold := if s.axisDead x then some a.held else none
    frame := none, tbOff := 0, src := a.src, base := a.base, refs := a.refs, members := s.members x
    method := s.pv P.posAxisMethod x, primary := s.pv P.posAxisPrimary x
    ratios := (List.range 8).map (fun e => (s.pv P.posEncRatioNum e, s.pv P.posEncRatioDen e)) }

/-- How the output follows from the inputs at present. -/
def Dev.axisView (s : Dev) (x : Nat) : AxisView :=
  if (s.axis x).spanDead then { s.localView x with hold := some (s.axis x).held }
  else if s.follows x then
    match s.frameOf x with
    | some f => { s.localView x with hold := none, frame := some f, tbOff := s.tbOff }
    | none => { s.localView x with hold := some (s.axis x).held }
  else s.localView x

/-- u_i of an encoder with the ratio of a view (R36). -/
def AxisView.u (v : AxisView) (encs : Nat → Enc) (e t : Nat) : Int :=
  let r := v.ratios.getD e (1, 1)
  ((encs e).at' t * (r.1 : Int)).fdiv r.2

/-- The output that a view gives at an instant (R36 to R41, R237). -/
def AxisView.pos (v : AxisView) (encs : Nat → Enc) (x t : Nat) : Int :=
  match v.hold, v.frame, v.src with
  | some h, _, _ => h
  | none, some f, _ => f.posAt ((t : Int) + v.tbOff) x
  | none, none, some (e, off) => wrap64 (v.u encs e t + off)
  | none, none, none =>
    let d := fun (e : Nat) => v.u encs e t - v.refs.get 0 e
    wrap64 (v.base + fuse v.method (d v.primary) (v.members.map d))

/-- The output of an axis from its own encoders at an instant. -/
def Dev.localPos (s : Dev) (x t : Nat) : Int := (s.localView x).pos s.enc x t

/-- The view in force at an instant: one kept since, where the instant is past. -/
def Dev.viewAt (s : Dev) (x t : Nat) : AxisView :=
  match ((s.axis x).past.filter (fun p => decide (t < p.1))).getLast? with
  | some p => p.2
  | none => s.axisView x

/-- The output of an axis at an instant. -/
def Dev.axisPos (s : Dev) (x t : Nat) : Int := (s.viewAt x t).pos s.enc x t

/-- Keep the view that was in force up to now (R54, R76). -/
def Dev.keepView (s : Dev) (x : Nat) (v : AxisView) : Dev :=
  if s.axisView x = v then s
  else
    let a := s.axis x
    s.setAxis x { a with past := (s.now, v) :: a.past.filter (fun p => decide (s.now < p.1 + ms 20)) }

/-- A change of how an output follows from its inputs. -/
def Dev.turnAxis (s : Dev) (x : Nat) (f : Dev → Dev) : Dev := (f s).keepView x (s.axisView x)

/-- The position that trigger prediction uses: on a span axis of every member the latest frame (R237). -/
def Dev.trigPos (s : Dev) (x t : Nat) : Int :=
  if s.mode M.span && bit (s.pv P.spanAxisMask 0) x && s.spanLeading then
    match s.span.last with
    | some f => f.posAt ((t : Int) + s.tbOff) x
    | none => s.axisPos x t
  else s.axisPos x t

/-! ### References and spans of travel (R36, R39, R40) -/

def Dev.usOf (s : Dev) (l : List Nat) (t : Nat) : FMap Int :=
  l.foldl (fun m e => m.set 0 e (s.encU e t)) .empty

/-- Take the fusion reference with B equal to an output (R36, R38, R40). -/
def Dev.takeRef (s : Dev) (x t : Nat) (out : Int) : Dev :=
  let u := s.usOf (s.members x) t
  s.setAxis x { s.axis x with base := out, refs := u, spanRefs := u, travel := 0, src := none, spanOk := false,
                               spanCut := false }

/-- Begin a new span of travel. -/
def Dev.newSpan (s : Dev) (x t : Nat) : Dev :=
  s.setAxis x { s.axis x with spanRefs := s.usOf (s.members x) t, travel := 0, spanCut := false }

/-- Whether every member's increment over the present span is within tolerance of the primary's, and none has LOS. -/
def Dev.inTol (s : Dev) (x t : Nat) : Bool :=
  let a := s.axis x
  let d := fun (e : Nat) => s.encU e t - a.spanRefs.get 0 e
  let p := s.pv P.posAxisPrimary x
  (s.members x).all (fun e => !s.encLos e && decide ((d e - d p).natAbs ≤ s.pv P.posAxisTol x * 65536))

/-- Follow one encoder from here on, without a step. -/
def Dev.followEnc (s : Dev) (x e t : Nat) (out : Int) : Dev :=
  s.setAxis x { s.axis x with src := some (e, out - s.encU e t) }

/-- SLIP: the bits, the primary with a continuity offset, the event (R39, R41). `lost` also sets PRIMARY_LOST and
names the encoder to follow. The span under way no longer counts for R40. -/
def Dev.slip (s : Dev) (x t e : Nat) (lost : Bool) : Dev :=
  let out := s.localPos x t
  let was := s.axisBit x slipBit
  let s := s.turnAxis x (fun s => s.followEnc x e t out)
  let s := (s.setAxis x { s.axis x with spanOk := false, spanCut := true }).axisEvent x slipBit
  let s := if lost then (s.axisEvent x lostBit).setAxisBit x lostBit true else s
  let s := s.setAxisBit x slipBit true
  if was then s else s.fire (64 + x) true x out

/-- DEAD: the output holds, the velocity is 0 (R41). -/
def Dev.kill (s : Dev) (x t : Nat) : Dev :=
  let out := s.localPos x t
  let s := s.turnAxis x (fun s => (s.setAxis x { s.axis x with held := out, v := 0, a := 0 }).setAxisBit x deadBit true)
  (s.axisEvent x deadBit).setP P.posAxisVelocity x 0

/-- LOS sets on a member of an axis (R41). -/
def Dev.losOn (s : Dev) (x e t : Nat) : Dev :=
  let ms := s.members x
  if !ms.contains e ∨ s.axisBit x deadBit = true then s
  else
    let free := ms.filter (fun m => !s.encLos m)
    let p := s.pv P.posAxisPrimary x
    if free.isEmpty then
      let s := if ms.length ≤ 1 then s else s.slip x t ((s.axis x).src.elim p Prod.fst) (e == p)
      s.kill x t
    else
      let follows := (s.axis x).src.elim p Prod.fst
      let next := free.headD p
      if e = p then s.slip x t next true
      else if e = follows then s.slip x t next false
      else s.slip x t follows false

/-- LOS clears on some member of a DEAD axis: it goes on from the output it held (R41). -/
def Dev.revive (s : Dev) (x t : Nat) : Dev :=
  let free := (s.members x).filter (fun m => !s.encLos m)
  if s.axisBit x deadBit && !free.isEmpty && !(s.axis x).spanDead then
    let p := s.pv P.posAxisPrimary x
    let e := if free.contains p then p else free.headD p
    let s := s.turnAxis x (fun s => (s.followEnc x e t (s.axis x).held).setAxisBit x deadBit false)
    s.newSpan x t
  else s

/-! ### Direction (R43) -/

/-- +1 or -1: the sign of forward motion. -/
def Dev.fwd (s : Dev) (x : Nat) : Int := if s.pv P.posAxisDir x = E.posAxisDir.NEG then -1 else 1

/-- Follow the extreme of the present direction; a reversal toggles DIR and fires REVERSE. Answers whether it did. -/
def Dev.track (s : Dev) (x : Nat) (out : Int) : Dev × Bool :=
  let a := s.axis x
  let d := if s.axisBit x dirBit then -(s.fwd x) else s.fwd x
  if 0 < posDiff out a.ext * d then (s.setAxis x { a with ext := out }, false)
  else if (s.pv P.posAxisRevHyst x * 65536 : Int) ≤ -(posDiff out a.ext * d) then
    let s := s.setAxis x { a with ext := out }
    let s := (s.setAxisBit x dirBit (!s.axisBit x dirBit)).axisEvent x 3
    (s.fire (68 + x) true x out, true)
  else (s, false)

/-! ### A step of an encoder -/

/-- Direction of a change of (A, B), A leading B being forward; 0 when both or none changed (R31).
PRESUMED, entry 29. -/
def quadStep (a b a' b' : Bool) : Int :=
  if a = a' ∧ b = b' then 0
  else if a ≠ a' ∧ b ≠ b' then 0
  else if a ≠ a' then (if a' != b' then 1 else -1)
  else (if a' == b' then 1 else -1)

/-- The axis after a counted step of encoder `e`, the primary's travel and the end of a span included (R39). -/
def Dev.axisStep (s : Dev) (x e t : Nat) (before : Int) : Dev × Bool :=
  if !(s.members x).contains e ∨ s.axisDead x = true then (s, false)
  else
    let p := s.pv P.posAxisPrimary x
    let a := s.axis x
    let s := if e = p then s.setAxis x { a with travel := a.travel + (s.encU e t - before).natAbs } else s
    let s :=
      if s.pv P.posAxisTolSpan x * 65536 ≤ (s.axis x).travel then
        let good := s.inTol x t
        let ok := good && !(s.axis x).spanCut
        let s := if good then s else s.slip x t ((s.axis x).src.elim p Prod.fst) false
        let s := s.newSpan x t
        s.setAxis x { s.axis x with spanOk := ok }
      else s
    let out := s.localPos x t
    let win := us (s.pv P.posAxisVelWindow x)
    let h := (t, out) :: (s.axis x).hist
    let keep := h.take 3 ++ (h.drop 3).filter (fun q => decide (t ≤ q.1 + win))
    let s := s.setAxis x { s.axis x with hist := keep }
    s.track x out

/-! ### Velocity (R44) -/

/-- Slope of the least-squares line through points, as a quotient in 1/65,536 count per ps.
DESIGN CHOICE, entry 30. -/
def lsq (h : List (Nat × Int)) : Int × Int :=
  let n : Int := h.length
  let t0 : Int := (h.headD (0, 0)).1
  let p0 : Int := (h.headD (0, 0)).2
  let pts := h.map (fun q => ((q.1 : Int) - t0, q.2 - p0))
  let st := (pts.map Prod.fst).foldl (· + ·) 0
  let sp := (pts.map Prod.snd).foldl (· + ·) 0
  let stp := (pts.map (fun q => q.1 * q.2)).foldl (· + ·) 0
  let stt := (pts.map (fun q => q.1 * q.1)).foldl (· + ·) 0
  (n * stp - st * sp, n * stt - st * st)

/-- v and a at an update (R44). DESIGN CHOICE, entry 30. -/
def Dev.rates (s : Dev) (x : Nat) : Int × Int :=
  let a := s.axis x
  let win := us (s.pv P.posAxisVelWindow x)
  let inWin := a.hist.filter (fun q => decide (s.now ≤ q.1 + win))
  if s.axisDead x then (0, 0)
  else if 2 ≤ inWin.length then
    let (n, d) := lsq inWin
    let v := roundTo Config.rateUp (n * 10 ^ 12) (d * 65536)
    (v, roundTo Config.rateUp ((v - a.v) * 10 ^ 6) (s.pv P.posAxisVelWindow x))
  else
    match a.hist with
    | (t1, p1) :: (t0, p0) :: r =>
      let opposite := match r with | (_, q) :: _ => decide ((p1 - p0) * (p0 - q) < 0) | [] => false
      if opposite || decide (2 * (t1 - t0) < s.now - t1) then (0, 0)
      else (roundTo Config.rateUp ((p1 - p0) * 10 ^ 12) (((t1 : Int) - t0) * 65536), 0)
    | _ => (0, 0)

/-! ### Prediction (R44) -/

/-- Least positive root, in ps and rounded down, of p + v t + a t²/2 = P, `d` being P - p in 1/65,536 count; within
100 ms. With a ≠ 0 the roots have the product -2d/a and the sum -2v/a, which tell whether one or both are positive.
DESIGN CHOICE, entry 30. -/
def predict (d v a : Int) : Option Nat :=
  let ok := fun (t : Int) => if t ≤ 10 ^ 11 then some t.toNat else none
  if d = 0 then some 0
  else if v = 0 then none
  else if a = 0 then (if 0 < d * v then ok ((10 ^ 12 * d).fdiv (65536 * v)) else none)
  else
    let b : Int := 65536 * 10 ^ 12 * v
    let disc : Int := b * b + 65536 * a * (2 * 10 ^ 24) * d
    if disc < 0 then none
    else
      let r : Int := Nat.sqrt disc.toNat
      let t1 := (r - b).fdiv (65536 * a)
      let t2 := (-r - b).fdiv (65536 * a)
      if 0 < d * a then ok (max t1 t2) else if v * a < 0 then ok (min t1 t2) else none

end Sys2Proof.Machine
end

