-- ==== Sys2Proof/Machine/TrigOps.lean ====
section
/-! DEFINITION. Trigger generators and field outputs: grids, firing, re-arming, resumption, the level an output drives
(R45 to R61, R344). -/
namespace Sys2Proof.Machine

/-! ## What an output's ball shows (R56 to R61, R344, R422) -/

def Dev.offLevel (s : Dev) (o : Nat) : Bool := s.pv P.foOffLevel o == 1

/-- Whether an odd output is the complement leg of a DIFF pair. -/
def Dev.isComplement (s : Dev) (o : Nat) : Bool :=
  o % 2 == 1 && s.pv P.foElectrical (o - 1) == E.foElectrical.DIFF

/-- The level of an output's function; "on" is the level opposite to the off level. -/
def Dev.foFunctionLevel (s : Dev) (o : Nat) : Bool :=
  let fn := s.pv P.foFunction o
  let on :=
    if fn = E.foFunction.LEVEL then s.pv P.foLevel o == 1
    else if fn = E.foFunction.OFF then false
    else (s.fout o).pulse.isSome
  if on then !s.offLevel o else s.offLevel o

/-- What one leg's ball shows: 0 and 1 driven, 2 and 3 pulled, 4 neither. -/
def Dev.legShows (s : Dev) (o : Nat) : Nat :=
  let x := s.fout o
  let weak := 2 + b2n (s.offLevel o)
  if s.rst.vfieldMv < 5000 then 4
  else if !s.rst.vfieldOk || x.shut then weak
  else
    match x.kept with
    | .heldOff => weak
    | .holding => b2n x.holdLevel
    | .released => match x.frozen with | some b => b2n b | none => b2n (s.foFunctionLevel o)

/-- The level of a ball turned over. DESIGN CHOICE, entry 33. -/
def flipLevel (v : Nat) : Nat := if v < 4 then (if v % 2 = 0 then v + 1 else v - 1) else v

/-- What an output drives: 0 and 1 levels, 2 and 3 weak pulls (R56, R57, R58). DESIGN CHOICE, entry 33. -/
def Dev.foShows (s : Dev) (o : Nat) : Nat := if s.isComplement o then flipLevel (s.legShows (o - 1)) else s.legShows o

/-- `fo.state` (R59, R61). -/
def Dev.foStateOf (s : Dev) (o : Nat) : Nat :=
  if !s.rst.vfieldOk then E.foState.NO_SUPPLY
  else
    match (s.fout o).kept with
    | .heldOff => E.foState.HELD_OFF
    | .holding => E.foState.HOLDING
    | .released => E.foState.RELEASED

/-- Send out what has changed at the balls since `s`. -/
def Dev.foEmit (s' : Dev) (s : Dev) : Dev :=
  s'.forEach (List.range 16) (fun r o =>
    let r := r.setP P.foState o (r.foStateOf o)
    if s.foShows o = r.foShows o then r else r.emit (.drive o (r.foShows o)))

/-- Make a change and send out what balls it changes. -/
def Dev.withFo (s : Dev) (f : Dev → Dev) : Dev := (f s).foEmit s

/-- Whether outputs start no new pulse: under HOLD, and in P3 as under HOLD (R344, R379). -/
def Dev.foHeld (s : Dev) : Bool := s.mode M.hold || s.inP E.pwrState.P3

/-- Whether an output is released with a supply, so that it may start a pulse. -/
def Dev.foLive (s : Dev) (o : Nat) : Bool :=
  (s.fout o).kept == Kept.released && s.rst.vfieldOk && (s.fout o).frozen.isNone

/-- Start a pulse, or extend the one that is on (R56). -/
def Dev.pulse (s : Dev) (o start : Nat) : Dev :=
  s.withFo (fun s =>
    let e := start + 1000 * s.pv P.foWidthNs o
    let x := s.fout o
    s.setFout o { x with pulse := some (match x.pulse with | some p => Nat.max p e | none => e) })

/-! ## Grids (R42, R45, R46) -/

/-- The further of two positions in the forward sense. -/
def further (f a b : Int) : Int := if 0 < posDiff b a * f then b else a

/-- First grid point beyond `p` in the sense `f`, at `p` itself too if `eq`. -/
def gridNext (origin pitch f p : Int) (eq : Bool) : Int :=
  if pitch ≤ 0 then p
  else
    let d := posDiff p origin * f
    let k := if eq then -((-d).fdiv pitch) else d.fdiv pitch + 1
    wrap64 (origin + f * pitch * k)

/-- The axis output, or the first-point rule's reference, when a generator enters a mode (R46, R52). -/
def Dev.trigEnter (s : Dev) (st : Nat) : Dev :=
  let x := s.pv P.trigAxis st
  s.setTrig st { s.trig st with
    high := s.trigPos x s.now, disarmed := [], lastTarget := none, skipped := 0, first := true
    nextTime := 0, stopped := false, seen := s.trigPos x s.now, due := [], entered := false }

/-- A generator resumes: nothing up to the present position fires, nor, with NONE, a point up to the highest one fired
(R46, R52). -/
def Dev.trigResume (s : Dev) (st : Nat) : Dev :=
  let x := s.pv P.trigAxis st
  let p := s.trigPos x s.now
  let g := s.trig st
  s.setTrig st { g with
    high := if s.pv P.trigRearm st = E.trigRearm.NONE then further (s.fwd x) g.high p else p
    first := true, seen := p, due := [] }

/-- Whether a mode is one that HOLD stops and whose lines are expected by TRIG_ID. -/
def trigExpects (mode : Nat) : Bool := mode == E.trigMode.POSITION || mode == E.trigMode.INPUT

/-! ## The frame a fired line will belong to (R128, R345) -/

/-- Interval of a position on a frame grid. -/
def frameIndexOf (origin length p : Int) : Int := (posDiff p origin).fdiv length

/-- The frame that takes lines at present. -/
def Stream.openFrame (x : Stream) : Option Frame :=
  match x.frames.getLast? with
  | some f => if f.closed then none else some f
  | none => none

/-- Frame number of the line that a trigger at stamp `g` exposes: after the frame in progress and the lines that are
still expected. -/
def Dev.frameOfNext (s : Dev) (st : Nat) (g : Int) : Nat :=
  let x := s.stream st
  let wait := x.expect.map Expect.stamp
  let mode := s.pv P.plateFrameMode st
  let openF := x.openFrame
  let cur := match openF with | some f => (f.no, f.lines, some f.lastStamp) | none => (x.frameNo, 0, none)
  if mode = E.plateFrameMode.LINES then cur.1 + (cur.2.1 + wait.length) / s.pv P.plateFrameLines st
  else if mode = E.plateFrameMode.POSITION then
    let o := s.ps 64 P.plateFrameOrigin st
    let l := s.ps 64 P.plateFrameLength st
    ((wait ++ [g]).foldl (fun (a : Nat × Option Int) p =>
      match a.2 with
      | none => (a.1, some p)
      | some q => (if frameIndexOf o l p = frameIndexOf o l q then a.1 else a.1 + 1, some p)) (cur.1, cur.2.2)).1
  else cur.1 + (if openF.isSome then 1 else 0)

/-- Whether a trigger at stamp `g` would belong to the frame at which a HOLD is placed, or a later one (R345). -/
def Dev.holdPlaced (s : Dev) (st : Nat) (g : Int) : Bool :=
  match (s.stream st).holdAt with | some f => decide (f ≤ s.frameOfNext st g) | none => false

/-- The HOLD at frame F is reached: frame F - 1 ends once its lines have come. DESIGN CHOICE, entry 32. -/
def Dev.placeHold (s : Dev) (st : Nat) : Dev := s.setStream st { s.stream st with ending := 3 }

/-! ## Firing (R47 to R50, R120, R303) -/

/-- Whether a generator may send a message now. -/
def Dev.trigLive (s : Dev) (st : Nat) : Bool :=
  let x := s.stream st
  x.running && !(s.trig st).stopped &&
    (if trigExpects (s.pv P.trigMode st) then !x.held && x.ending == 0 else x.ending != 2)

/-- A web's members note the points they fire (R224, R227). -/
def Dev.webFired (s : Dev) (st : Nat) (g : Int) : Dev :=
  s.forEach (List.range 4) (fun s w =>
    let x := s.web w
    if x.running then
      s.forEach ((List.range 16).filter (fun i => s.pv P.ligMember (16 * w + i) == st)) (fun s i =>
        let x := s.web w
        s.setWeb w { x with
          fired := x.fired.set none i (some g)
          points := if i = 0 && !x.held && x.ending == 0 then x.points ++ [g] else x.points })
    else s)

/-- A generator fires: the count, the line it expects, the message with its target, the event of a grid point of axis
`x`. TARGET_TB and TARGET_SUB spell the target rounded down to 1/256 ns, a rounding the manual does not state (R120).
DESIGN CHOICE, entry 31. -/
def Dev.fireTrig (s : Dev) (st x target : Nat) (stamp : Int) : Dev :=
  let mode := s.pv P.trigMode st
  let s := s.bump P.trigFiredCount st 1
  let id := s.pv P.trigFiredCount st % 2 ^ 32
  let late := decide (target < s.now + 800000)
  let s := if late then s.bump P.trigLateCount st 1 else s
  let g := s.trig st
  let y := s.stream st
  let s := s.setStream st { y with expect := y.expect ++ [⟨id, stamp, target, g.skipped, late⟩] }
  let s := s.setTrig st { g with
    lastTarget := some target, skipped := 0, first := false
    checks := g.checks ++ [(target, stamp, x, mode)] }
  let tb : Nat := ((target : Int) + s.tbOff).toNat
  let s := s.sendUp (s.headOf st) 0x80 (s.chanOf st)
    (le 8 (tb / 1000) ++ le 1 (tb % 1000 * 256 / 1000) ++ le 4 id ++ le 2 0) 0 []
  let s := s.emuLine (s.headOf st) (s.chanOf st) id
  let s := s.forEach (List.range 16) (fun s o =>
    if s.pv P.foFunction o = E.foFunction.STROBE ∧ s.pv P.foSource o = st then
      s.setFout o { s.fout o with due := (s.fout o).due ++ [target + 1000 * s.pv P.foDelayNs o] }
    else s)
  if mode = E.trigMode.POSITION then (s.fire st true x stamp).webFired st stamp else s

/-- A point that falls due and is not fired (R49, R123). -/
def Dev.skipPoint (s : Dev) (st : Nat) : Dev :=
  let s := s.bump P.trigOverrunCount st 1
  s.setTrig st { s.trig st with skipped := (s.trig st).skipped + 1 }

/-! ## The next point (R44, R46, R51) -/

/-- The first armed point of a grid beyond `p` in the sense `d` (R46). -/
def Trig.armedFrom (g : Trig) (o pitch d p : Int) : Option Int :=
  let g0 := gridNext o pitch d p false
  ((List.range (g.disarmed.length + 1)).map (fun (i : Nat) => wrap64 (g0 + d * pitch * i))).find?
    (fun q => !g.disarmed.any (fun e => e.1 == q))

/-- The next point of a grid that may fire: beyond the highest point fired; under ON_REVERSAL, once a point has fired, a
point crossed and not yet fired, or the next armed one in the direction of motion (R46). -/
def Dev.nextIn (s : Dev) (st x : Nat) (o pitch : Int) : Option Int :=
  let g := s.trig st
  if s.pv P.trigRearm st = E.trigRearm.NONE then some (gridNext o pitch (s.fwd x) g.high false)
  else if g.first then g.armedFrom o pitch (s.fwd x) g.high
  else
    match g.due with
    | q :: _ => some q
    | [] =>
      let p := s.trigPos x s.now
      let v := (s.axis x).v
      if v = 0 then none
      else
        let d : Int := if 0 < v then 1 else -1
        g.armedFrom o pitch d (if 0 ≤ posDiff p g.seen * d then g.seen else p)

def gridParam (id : Nat) : Bool := id == P.trigAxis || id == P.trigOrigin || id == P.trigPitch

/-- Axis, origin and pitch with a write taken into account. -/
def gridWith (g : Nat × Int × Int) (w : PendWrite) : Nat × Int × Int :=
  if w.id = P.trigAxis then (w.value, g.2)
  else if w.id = P.trigOrigin then (g.1, ofTwos 64 w.value, g.2.2)
  else (g.1, g.2.1, ofTwos 64 w.value)

/-- Axis, origin and pitch for the next point: those in force, with the writes that wait for the boundary at which the
frame of that point begins, or an earlier one (R51). DEDUCED, entry 76. -/
def Dev.nextGrid (s : Dev) (st : Nat) : Nat × Int × Int :=
  let g := (s.pv P.trigAxis st, s.ps 64 P.trigOrigin st, s.ps 64 P.trigPitch st)
  let l := s.writes.filter (fun w => w.owner == st && w.inst == st && gridParam w.id)
  if l.isEmpty then g
  else
    match s.nextIn st g.1 g.2.1 g.2.2 with
    | none => g
    | some p =>
      let n := s.frameOfNext st p
      (l.filter (fun w =>
        match w.frame, (s.stream st).openFrame with
        | some f, _ => decide (f ≤ n)
        | none, some f => decide (f.no < n)
        | none, none => true)).foldl gridWith g

/-- The next grid point that may fire (R46, R51). -/
def Dev.nextPoint (s : Dev) (st : Nat) : Option Int :=
  let g := s.nextGrid st
  s.nextIn st g.1 g.2.1 g.2.2

/-- Whether the axis output has reached or passed a generator's next point. -/
def Dev.pointPassed (s : Dev) (st : Nat) (q : Int) : Bool :=
  let x := (s.nextGrid st).1
  let g := s.trig st
  let p := s.trigPos x s.now
  if s.pv P.trigRearm st = E.trigRearm.NONE ∨ g.first = true then decide (0 ≤ posDiff p q * s.fwd x)
  else g.due.contains q || decide (0 ≤ posDiff p q * (if 0 < (s.axis x).v then 1 else -1))

/-- Re-arming and crossings under ON_REVERSAL, as the axis output comes to `out`: the armed points it has crossed are due,
and a point is armed again once the axis has come near it and then moved `trig.rearm_hyst` counts away (R46). -/
def Dev.rearm (s : Dev) (x : Nat) (out : Int) : Dev :=
  { s with trigs := s.trigs.mapVal .reset (fun st g =>
      let r := s.nextGrid st
      if r.1 = x then
        let h : Int := s.pv P.trigRearmHyst st * 65536
        let live := s.trigLive st && s.pv P.trigMode st == E.trigMode.POSITION
          && s.pv P.trigRearm st != E.trigRearm.NONE && !g.first && decide (0 < r.2.2)
        let d : Int := if 0 ≤ posDiff out g.seen then 1 else -1
        let n := ((posDiff out r.2.1 * d).fdiv r.2.2 - (posDiff g.seen r.2.1 * d).fdiv r.2.2).toNat
        let g0 := gridNext r.2.1 r.2.2 d g.seen false
        let fresh := if live then
            ((List.range n).map (fun (i : Nat) => wrap64 (g0 + d * r.2.2 * i))).filter (fun q => !g.disarmed.any (fun e => e.1 == q))
          else []
        let l := (fresh.map (fun q => (q, true)) ++ g.disarmed).filterMap (fun p =>
          let far := decide (h ≤ (posDiff out p.1).natAbs)
          if far && p.2 then none else some (p.1, p.2 || !far))
        { g with disarmed := l, due := if live then g.due ++ fresh else [], seen := out }
      else g) }

/-- A grid point is done with, fired or skipped. -/
def Dev.passPoint (s : Dev) (st : Nat) (p : Int) : Dev :=
  let g := s.trig st
  if s.pv P.trigRearm st = E.trigRearm.NONE then s.setTrig st { g with high := p }
  else if g.due.contains p then
    s.setTrig st { g with high := further (s.fwd (s.nextGrid st).1) g.high p, due := g.due.erase p }
  else
    let x := (s.nextGrid st).1
    let out := s.trigPos x s.now
    let near := decide (((posDiff out p).natAbs : Int) < s.pv P.trigRearmHyst st * 65536)
    let passed := s.pointPassed st p
    s.setTrig st { g with
      high := further (s.fwd x) g.high p, disarmed := (p, near || passed) :: g.disarmed, first := false
      seen := if g.first then (if passed then p else out) else g.seen }

/-- Generators on an axis that stopped resume (R41, R52). -/
def Dev.resumeAxis (s : Dev) (x : Nat) : Dev :=
  s.forEach (List.range 64) (fun s st =>
    if s.pv P.trigAxis st = x ∧ (s.stream st).running = true ∧ s.pv P.trigMode st = E.trigMode.POSITION then
      s.trigResume st
    else s)

/-! ## Marker points (R56) -/

/-- The marker point of an output that its axis stands at or has passed beyond the last one pulsed. -/
def Dev.markerPassed (s : Dev) (o : Nat) : Option Int :=
  let x := s.pv P.foSource o
  let f := s.fwd x
  let p := s.axisPos x s.now
  let origin := s.ps 64 P.foMarkerOrigin o
  let pitch := s.ps 64 P.foMarkerPitch o
  match (s.fout o).high with
  | none => none
  | some h =>
    let g := if pitch = 0 then origin else gridNext origin pitch f h false
    if 0 < posDiff g h * f ∧ 0 ≤ posDiff p g * f then
      some (if pitch = 0 then origin else gridNext origin pitch (-f) p true)
    else none

/-- A MARKER output takes the present position as the last point passed. DESIGN CHOICE, entry 31. -/
def Dev.markerEnter (s : Dev) (o : Nat) : Dev :=
  s.setFout o { s.fout o with high := some (s.axisPos (s.pv P.foSource o) s.now), due := [] }

/-- Marker points and STROBE instants that passed meanwhile are not fired later (R61, R344). -/
def Dev.markerSkip (s : Dev) (o : Nat) : Dev :=
  let y := s.fout o
  let due := y.due.filter (fun i => decide (s.now < i))
  match y.high with
  | none => s.setFout o { y with due := due }
  | some h =>
    let x := s.pv P.foSource o
    s.setFout o { y with high := some (further (s.fwd x) h (s.axisPos x s.now)), due := due }

end Sys2Proof.Machine
end

