-- ==== Sys2Proof/Machine/Ductus.lean ====
section
/-! DEFINITION. Ductus: relays, dividers, sinks, software fires (R302 to R313). -/
namespace Sys2Proof.Machine

/-- Inputs A and B of a channel. -/
def Dev.duxIn (s : Dev) (c b : Nat) : Nat := if c < 128 then 0xFFFF else s.pv P.duxSrc (2 * c + b)

/-- Whether a channel's class is POS: a fixed source of class POS, or a chain of single inputs that leads to one
(R302, R307). The first argument bounds the chain. -/
def Dev.duxPos (s : Dev) : Nat → Nat → Bool
  | 0, _ => false
  | n + 1, c =>
    if c < 128 then decide (c < 72)
    else
      let a := s.duxIn c 0
      let b := s.duxIn c 1
      if a < 256 ∧ b = 0xFFFF then s.duxPos n a
      else if b < 256 ∧ a = 0xFFFF then s.duxPos n b
      else false

def Dev.isPos (s : Dev) (c : Nat) : Bool := s.duxPos 257 c

/-- Whether a path acts for the owner of a channel: PF0 for the host, the others for Almanac (R302, R305). -/
def ownsDux (p : Path) (c : Nat) : Bool := duxOwnerOf c == (match p with | .pf0 => 3 | _ => 1)

/-- An accepted event at a free channel: the divider passes it on or discards it (R304). -/
def Dev.divide (s : Dev) (c : Nat) (ev : Event) : Dev :=
  let d := s.duct c
  let s := s.setDuct c { d with div := (d.div + 1) % s.pv P.duxDiv c }
  if d.div = 0 then s.passOn c { ev with pos := s.isPos c } else s

/-- An event arrives at one input of a relay (R308, R309). -/
def Dev.relayIn (s : Dev) (c : Nat) (ev : Event) : Dev :=
  let dup := s.flight.any (fun f => f.1 == c && f.2.origin == ev.origin && f.2.epoch == ev.epoch)
  if 7 ≤ ev.hop ∨ dup = true then s.bump P.duxLoopCount c 1
  else s.divide c { ev with hop := ev.hop + 1 }

/-- An event reaches a busy sink (R311). Sinks: FO 0–15, HEV 16–47, TAP 48–63. -/
def Dev.ignored (s : Dev) (k : Nat) : Dev := s.bump P.duxSinkIgnored k 1

/-- A field output in function EVENT: no new pulse under HOLD (R56, R310, R344). -/
def Dev.sinkFo (s : Dev) (o : Nat) : Dev :=
  if s.sinks.get false o then s.ignored o
  else
    let s := { s with sinks := s.sinks.set false o true }
    if s.foLive o && !s.foHeld then s.pulse o s.now else s

/-- A host event sink is busy while its bit is set (R310). -/
def Dev.sinkHev (s : Dev) (h : Nat) : Dev :=
  if s.int0.get false (272 + h) then s.ignored (16 + h) else s.raise0 (272 + h)

/-- A tap's input (R312, R313). -/
def Dev.sinkTap (s : Dev) (k : Nat) (ev : Event) : Dev :=
  let x := s.tap k
  if ev.pos then
    if s.pv P.trigAxis (s.pv P.plateTapStream k) = ev.axis then s.setTap k { x with tags := x.tags ++ [(ev.axis, ev.tag)] }
    else s.ignored (48 + k)
  else if x.armed || x.busy then s.ignored (48 + k)
  else s.setTap k { x with armed := true }

/-- An event on its way from channel `c` arrives at the sinks and relays that name it. DESIGN CHOICE, entry 52. -/
def Dev.deliver (s : Dev) (c : Nat) (ev : Event) : Dev :=
  let s := s.forEach (List.range 16) (fun s o =>
    if s.pv P.foFunction o = E.foFunction.EVENT ∧ s.pv P.foSource o = c then s.sinkFo o else s)
  let s := s.forEach (List.range 32) (fun s h => if s.pv P.duxHevSrc h = c then s.sinkHev h else s)
  let s := s.forEach (List.range 16) (fun s k => if s.pv P.duxTapArm k = c then s.sinkTap k ev else s)
  let s := s.forEach (List.range 128) (fun s i =>
    let s := if s.duxIn (128 + i) 0 = c then s.relayIn (128 + i) ev else s
    if s.duxIn (128 + i) 1 = c then s.relayIn (128 + i) ev else s)
  { s with flight := s.flight.erase (c, ev) }

def runEventDeliver (ev : Event) (c : Fin 256) (t : Nat) (s : Dev) : Dev :=
  let s := s.at' t
  if s.flight.contains (c.val, ev) then (s.deliver c ev) else s

/-- The busy interval of a field output's input ends. The intervals of the other sinks follow INT_HEV and the tap's
frame. DESIGN CHOICE, entry 52. -/
def runSinkBusyEnd (k : Sink) (s : Dev) : Dev :=
  match k with
  | .fo o => { s with sinks := s.sinks.set false o false }
  | .hev _ => s
  | .tap _ => s

/-- A software fire: the status it fails with, or the state after (R305, R306). -/
def Dev.softFire (s : Dev) (p : Path) (c : Nat) : Dev × Option Nat :=
  if !ownsDux p c then (s, some 0x0A)
  else if s.duxIn c 0 ≠ 0x100 ∧ s.duxIn c 1 ≠ 0x100 then (s, some 0x05)
  else
    let d := s.duct c
    let s := s.setDuct c { d with epoch := (d.epoch + 1) % 65536 }
    (s.divide c ⟨c, d.epoch, 0, false, 0, (s.tb : Int)⟩, none)

def runDuxFire (path : Path) (c : Fin 256) (t : Nat) (s : Dev) : Dev := ((s.at' t).softFire path c).1

/-! ## The commands -/

/-- EVENT_DELIVER. -/
def execEventDeliver (ev : Event) (c : Fin 256) (t : Nat) (s : State) : Out := s.onDev (runEventDeliver ev c t)

/-- SINK_BUSY_END. -/
def execSinkBusyEnd (k : Sink) (s : State) : Out := s.onDev (runSinkBusyEnd k)

/-- DUX_FIRE. -/
def execDuxFire (path : Path) (c : Fin 256) (t : Nat) (s : State) : Out := s.onDev (runDuxFire path c t)

end Sys2Proof.Machine
end

