-- ==== Sys2Proof/Machine/MerOps.lean ====
section
/-! DEFINITION. Meridian's shared operations: sealed parameters, the audit trail, the calibration copies, record flags,
signed records, length channels, the sealed quad's widths (R64 to R92, R440, R441). -/
namespace Sys2Proof.Machine

def Dev.seal (s : Dev) : Nat := s.pv P.merSealState 0
def Dev.adjusting (s : Dev) : Bool := s.seal == E.merSealState.ADJUSTING
def Dev.sealClosed (s : Dev) : Bool := s.seal == E.merSealState.SEALED

/-! ## What an instance of a parameter belongs to -/

/-- Stream of a group 0x06 or 0x04 parameter instance indexed by stream. -/
def streamOfParam (id inst : Nat) : Option Nat :=
  if 0x0430 ≤ id ∧ id ≤ 0x043D then some inst
  else if id = P.plateBlackLevel then some (inst / 4)
  else if id = P.plateCcmCoef then some (inst / 12)
  else if id = P.plateCcmOffset then some (inst / 3)
  else if (0x0600 ≤ id ∧ id ≤ 0x0641) ∨ (0x0658 ≤ id ∧ id ≤ 0x066F) then some inst
  else none

/-- Web of a Ligature parameter instance. -/
def webOfParam (id inst : Nat) : Option Nat :=
  if 0x0900 ≤ id ∧ id ≤ 0x0905 then some (inst / 16)
  else if id = P.ligSeam then some (inst / 15)
  else if 0x0907 ≤ id ∧ id ≤ 0x0911 then some inst
  else none

/-- Streams in the member slots of a web (R218). -/
def Dev.webMembers (s : Dev) (w : Nat) : List Nat :=
  ((List.range 16).map (fun i => s.pv P.ligMember (16 * w + i))).filter (· < 64)

/-! ## Sealed parameters (R62, R81, R182, R440) -/

/-- Parameters of group 0x04 marked sealed (R62). -/
def sealedIds : List Nat :=
  [P.posEncStandard, P.posEncFilterNs, P.posEncInvert, P.posEncSwapAb, P.posEncRatioNum, P.posEncRatioDen,
   P.posAxisMembers, P.posAxisMethod, P.posAxisPrimary, P.posAxisTol, P.posAxisTolSpan]

def Dev.quadRegistered (s : Dev) : Bool := decide (s.pv P.merQuadIndex 0 < 24)

/-- Slots that the nibs of the registered quad are bound to. -/
def Dev.regSlots (s : Dev) : List Nat :=
  (List.range 4).map (fun i => s.pv P.nibSlot (4 * s.pv P.merQuadIndex 0 + i))

/-- Whether a writable parameter instance is sealed. -/
def Dev.isSealedParam (s : Dev) (id inst : Nat) : Bool :=
  sealedIds.contains id ||
  (s.quadRegistered &&
    (let w := s.pv P.merQuadWeb 0
     (match streamOfParam id inst with
      | some st => decide (0x0600 ≤ id) && (s.webMembers w).contains st
      | none => false)
     || webOfParam id inst == some w
     || (id == P.nibSlot && inst / 4 == s.pv P.merQuadIndex 0)
     || (id == P.nibArg && s.regSlots.contains (inst / 16))
     || (id == P.nibWebSlot && inst == w)))

/-- Items MER_ADJUST sets (R441). -/
def adjustIds : List Nat :=
  [P.merLenMode, P.merLenAxis, P.merLenInput, P.merLenInterval, P.merStampStreams, P.merLenPolarity,
   P.merLenDebounceUs, P.merQuadPitchNm, P.posAxisScaleNum, P.posAxisScaleDen]

/-- Entries of the sealed configuration (R440): instances whose value differs from the default, by ID, INSTANCE and
WORD; writable ones by the value last accepted. -/
def Dev.calKeys (s : Dev) : List (Nat × Nat) :=
  let id := fun (k : Nat) => k / 16 / 1024
  let inst := fun (k : Nat) => k / 16 % 1024
  let rw := s.acc.cells.filter (fun c => s.isSealedParam (id c.1) (inst c.1))
  let ro := s.frc.cells.filter (fun c =>
    adjustIds.contains (id c.1) || [P.merQuadIndex, P.merQuadWeb, P.merQuadDigest].contains (id c.1))
  (rw.foldl (fun (m : FMap Nat) c => ⟨FMap.insert c.1 c.2 m.cells⟩) ⟨ro⟩).cells

def calEntry (c : Nat × Nat) : Bytes :=
  le 2 (c.1 / 16 / 1024) ++ le 2 (c.1 / 16 % 1024) ++ le 1 (c.1 % 16) ++ le 3 0 ++ le 8 c.2

def Dev.calBytes (s : Dev) : Bytes := (s.calKeys.map calEntry).flatten

/-- First 8 bytes of the SHA-256 digest of the sealed configuration (R67). -/
def Dev.calDigest (s : Dev) : Nat := fld (sha256 s.calBytes) 0 8

def keyBytes (k : Nat → Byte) : Bytes := (List.range 32).map k

/-- The audit key, while it stands (R72, R384). Entries written after the erasure are tagged under what the key store then
gives, which is left open. DESIGN CHOICE, entry 36. -/
def Dev.auditKey (s : Dev) : Bytes := keyBytes (if s.mer.erased then Config.erasedKey else Config.auditKey)

/-- Write the sealed configuration into the copy that does not hold the newer (R440). DESIGN CHOICE, entry 34. -/
def Dev.writeCal (s : Dev) : Dev :=
  let a := fld s.mer.calA 4 4
  let b := fld s.mer.calB 4 4
  let n := (s.calKeys).length
  let body := slice (slice ([0x4D, 0x43, 0x41, 0x4C] ++ le 4 (Nat.max a b + 1) ++ le 2 n) 0 32 ++ s.calBytes) 0 4064
  let copy := body ++ hmac s.auditKey body
  if a ≤ b then { s with mer := { s.mer with calA := copy } } else { s with mer := { s.mer with calB := copy } }

/-! ## The audit trail (R67, R69, R72) -/

def Dev.auditFree (s : Dev) : Nat := 1920 - s.mer.audit.length

/-- Whether `n` changes may be made now: the status that refuses them, or OK (R66, R69). -/
def Dev.sealCode (s : Dev) (n : Nat) : Nat :=
  if s.sealClosed then C.isSealed
  else if s.adjusting && decide (s.auditFree < n + 1) then C.auditFull
  else C.ok

/-- Calendar seconds as supplied by Almanac, 0 if not set (R72, R408). -/
def Dev.calTime (s : Dev) : Nat :=
  if s.alm.calSet then s.pv P.almTimeS 0 + (s.now - s.alm.calAt) / secs 1 else 0

/-- Write one audit entry (R72). -/
def Dev.audit (s : Dev) (ty src pid inst old new : Nat) : Dev :=
  let n := s.pv P.merEventCounter 0 + 1
  let prev := match s.mer.audit.getLast? with | some e => slice e 48 16 | none => List.replicate 16 0
  let body := le 4 n ++ le 1 ty ++ le 1 src ++ le 2 pid ++ le 2 inst ++ le 6 0 ++ le 8 old ++ le 8 new ++ le 8 s.rt
    ++ le 8 s.calTime
  let tag := (hmac s.auditKey (body ++ prev)).take 16
  let s := { s with mer := { s.mer with audit := s.mer.audit ++ [body ++ tag] } }
  (s.setP P.merEventCounter 0 n).setP P.merAuditUsed 0 s.mer.audit.length

/-- The same, in ADJUSTING only (R69). -/
def Dev.auditAdj (s : Dev) (ty src pid inst old new : Nat) : Dev :=
  if s.adjusting then s.audit ty src pid inst old new else s

/-- SOURCE of a path (R72, R408). -/
def sourceOf : Path → Nat
  | .pf0 => 1
  | .pf1 => 2
  | .usb => 3

/-! ## Record flags (R74) -/

def flagNotLegal (f : Nat) : Nat := if f / 2 % 128 = 0 then f else setBit f 0

/-- Flags of the device that hold now: DEBUG, SEAL_OPEN, UNSEALED. -/
def Dev.devFlags (s : Dev) : Nat :=
  2 * b2n (decide (2 ≤ s.sec.merLevel)) + 8 * b2n s.adjusting + 16 * b2n (s.seal == E.merSealState.UNSEALED)

/-- Flags of an axis that hold now, by its status: SLIP and DEAD. -/
def Dev.axisFlags (s : Dev) (x : Nat) : Nat :=
  let st := s.axisStatus x
  32 * b2n (bit st slipBit || bit st lostBit)
    + 64 * b2n (bit st deadBit || (s.members x).any (fun e => s.encLos e || s.encFast e))

/-- Whether a stream has a lane in a loop mode (R90, R123). -/
def Dev.streamLoops (s : Dev) (st : Nat) : Bool :=
  let h := s.headOf st
  s.mode M.loop && (List.range (s.pv P.laneWidth h)).any (fun i => s.pv P.laneLoop (h + i) != E.laneLoop.NONE)

def Dev.streamFlags (s : Dev) (st : Nat) : Nat :=
  s.devFlags ||| s.axisFlags (s.pv P.trigAxis st) ||| 4 * b2n (s.streamLoops st)

/-- Flags of a web's frames: those of every member stream, and QUAD_UNATTESTED. -/
def Dev.webFlags (s : Dev) (w : Nat) : Nat :=
  let f := (s.webMembers w).foldl (fun f st => f ||| s.streamFlags st) s.devFlags
  f ||| 128 * b2n (s.pv P.merQuadState 0 != E.merQuadState.ATTESTED)

/-- Gather the flags that hold now into every record in progress. -/
def Dev.merTouch (s : Dev) : Dev :=
  let opens := (List.range 4).foldl (fun (m : FMap (Option OpenLen)) c =>
    match m.get none c with
    | some o => m.set none c (some { o with flags := o.flags ||| s.devFlags ||| s.axisFlags (s.pv P.merLenAxis c) })
    | none => m) s.mer.openLen
  let webs := s.mer.webFrames.map (fun f => { f with flags := f.flags ||| s.webFlags f.web })
  let s := { s with mer := { s.mer with openLen := opens, webFrames := webs } }
  { s with streams := s.streams.mapVal .reset (fun st x => { x with frames := x.frames.map (fun f =>
      if f.legal && !f.closed then { f with recFlags := f.recFlags ||| s.streamFlags st } else f) }) }

/-- A reversal of an axis is noted in every record in progress on it. -/
def Dev.merReversed (s : Dev) (x : Nat) : Dev :=
  let opens := (List.range 4).foldl (fun (m : FMap (Option OpenLen)) c =>
    match m.get none c with
    | some o => if s.pv P.merLenAxis c = x then m.set none c (some { o with flags := setBit o.flags 8 }) else m
    | none => m) s.mer.openLen
  let webAxis := fun (w : Nat) => s.pv P.trigAxis ((s.webMembers w).headD 0)
  let webs := s.mer.webFrames.map (fun f => if webAxis f.web = x then { f with flags := setBit f.flags 8 } else f)
  let s := { s with mer := { s.mer with openLen := opens, webFrames := webs } }
  { s with streams := s.streams.mapVal .reset (fun st y => { y with frames := y.frames.map (fun f =>
      if f.legal && !f.closed && s.pv P.trigAxis st == x then { f with recFlags := setBit f.recFlags 8 } else f) }) }

/-! ## Signed records (R73, R79, R80) -/

/-- Meridian firmware running: version and digest (R87). -/
def Dev.merFw (s : Dev) : Nat × Bytes :=
  match s.mer.image with
  | some (v, d) => (v, d)
  | none => (Config.merVersion.toNat, keyBytes Config.merDigest)

/-- A body of R73 with its tag. -/
def signRecord (body : Bytes) : Bytes := body ++ hmac (keyBytes Config.recordKey) body

/-- A record of R73; `at'` is the uptime at its END, ps. -/
def Dev.signed (s : Dev) (ty flags seq index source : Nat) (start fin value : Int) (frame count at' : Nat) : Bytes :=
  signRecord (le 1 ty ++ le 1 1 ++ le 2 (flagNotLegal flags) ++ le 4 seq ++ le 4 (s.pv P.merEventCounter 0)
    ++ le 1 index ++ le 1 source ++ le 2 s.merFw.1 ++ le 8 (toTwos 64 start) ++ le 8 (toTwos 64 fin)
    ++ le 8 (toTwos 64 value) ++ le 8 (at' / psPerRt) ++ le 4 frame ++ le 4 count ++ le 8 0)

def Dev.unacked (s : Dev) : Nat := (s.pv P.merRecordSeq 0 + 2 ^ 32 - s.mer.acked) % 2 ^ 32
def Dev.slotFree (s : Dev) : Bool := decide (s.unacked < 1280)

/-- Place of a record among those that end in one rt: LENGTH in channel order, then WIDTH (R79). -/
def endRank (ty index : Nat) : Nat := if ty = 1 then index else 4

/-- How many of the records numbered last end in rt `r` and stand after a record of rank `k` (R79). -/
def Dev.laterInRt (s : Dev) (r k : Nat) : Nat → Nat
  | 0 => 0
  | n + 1 =>
    let m := s.laterInRt r k n
    let b := s.mer.records.get [] ((s.pv P.merRecordSeq 0 + 2 ^ 32 - 1 - n) % 2 ^ 32 % 1280)
    if m = n ∧ b ≠ [] ∧ fld b 40 8 = r ∧ k < endRank (fld b 0 1) (fld b 12 1) ∧ n < s.unacked then m + 1 else m

/-- A stored record takes another number. -/
def Dev.renumber (s : Dev) (old new : Nat) : Dev :=
  let b := s.mer.records.get [] (old % 1280)
  let r := signRecord (b.take 4 ++ le 4 new ++ slice b 8 56)
  { s with mer := { s.mer with records := s.mer.records.set [] (new % 1280) r } }

/-- A record that has ended takes its number and is stored, if a slot is free; a RETIRED unit makes none (R79, R80,
R384). A record of the same rt that stands after it gives way. -/
def Dev.numberRecord (s : Dev) (d : DueRec) : Dev :=
  if s.mer.erased then s
  else if s.slotFree then
    let next := s.pv P.merRecordSeq 0
    let back := s.laterInRt (d.at' / psPerRt) (endRank d.ty d.index) 4
    let s := s.forEach (List.range back) (fun s i =>
      let q := (next + 2 ^ 32 - 1 - i) % 2 ^ 32
      s.renumber q ((q + 1) % 2 ^ 32))
    let seq := (next + 2 ^ 32 - back) % 2 ^ 32
    let r := s.signed d.ty d.flags seq d.index d.source d.start d.fin d.value d.frame 0 d.at'
    let s := { s with mer := { s.mer with records := s.mer.records.set [] (seq % 1280) r } }
    let s := s.setP P.merRecordSeq 0 ((next + 1) % 2 ^ 32)
    let s := s.setP P.merStoreUnacked 0 s.unacked
    (s.fireAsync 88).raise1 12
  else
    let s := ((s.bump P.merStoreLost 0 1).fireAsync 89).raise1 13
    if d.ty = 1 then { s with mer := { s.mer with starved := s.mer.starved.set false d.index true } } else s

/-- The open LENGTH record of a channel. -/
def Dev.openLenOf (s : Dev) (c : Nat) : Option OpenLen := s.mer.openLen.get none c

/-- Whether an edge seen on a length input before an instant may yet end a record before it (R76, R79). -/
def Dev.edgePending (s : Dev) (at' : Nat) : Bool :=
  (List.range 4).any (fun c =>
    let mode := s.pv P.merLenMode c
    (mode == E.merLenMode.SHEET || mode == E.merLenMode.COIL) && (s.openLenOf c).isSome &&
      (match s.mer.lenRaw.get none c with | some r => decide (r.2 < at') | none => false))

/-- The record among those that wait whose END comes first. -/
def firstDue : List DueRec → Option DueRec
  | [] => none
  | d :: r =>
    match firstDue r with
    | none => some d
    | some e =>
      let key := fun (x : DueRec) => x.at' / psPerRt * 8 + endRank x.ty x.index
      some (if key e < key d then e else d)

/-- Records that wait and may take their numbers do, in the order of their END instants (R79). -/
def Dev.settleRecords (s : Dev) : Dev :=
  s.forEach (List.range s.mer.due.length) (fun s _ =>
    match firstDue s.mer.due with
    | none => s
    | some d =>
      if s.edgePending d.at' then s
      else { s with mer := { s.mer with due := s.mer.due.erase d } }.numberRecord d)

/-- Make a LENGTH or WIDTH record that ended at the uptime `at'` (R79, R80). DESIGN CHOICE, entry 35. -/
def Dev.makeRecord (s : Dev) (ty flags index source : Nat) (start fin value : Int) (frame at' : Nat) : Dev :=
  { s with mer := { s.mer with due := s.mer.due ++ [(⟨ty, flags, index, source, start, fin, value, frame, at'⟩ : DueRec)] } }.settleRecords

/-! ## LENGTH records (R76, R77, R238) -/

def Dev.setOpen (s : Dev) (c : Nat) (o : Option OpenLen) : Dev :=
  { s with mer := { s.mer with openLen := s.mer.openLen.set none c o } }

/-- VALUE in nm (R77). -/
def Dev.lengthNm (s : Dev) (x : Nat) (start fin : Int) : Int :=
  s.fwd x * roundEven (posDiff fin start * s.pv P.posAxisScaleNum x) (65536 * s.pv P.posAxisScaleDen x)

/-- A start point of a channel. -/
def Dev.lenStart (s : Dev) (c : Nat) (pos : Int) : Dev :=
  let x := s.pv P.merLenAxis c
  if s.mode M.legal = false ∨ s.follows x = true ∨ (s.mer.starved.get false c = true ∧ s.slotFree = false) then s
  else
    let s := { s with mer := { s.mer with starved := s.mer.starved.set false c false } }
    s.setOpen c (some ⟨pos, s.devFlags ||| s.axisFlags x⟩)

/-- The end, at uptime `at'`, of a channel's open record; on a span axis a follower makes none (R238). -/
def Dev.lenEnd (s : Dev) (c : Nat) (pos : Int) (at' : Nat) : Dev :=
  match s.openLenOf c with
  | none => s
  | some o =>
    let x := s.pv P.merLenAxis c
    let flags := o.flags ||| s.devFlags ||| s.axisFlags x
    let s := s.setOpen c none
    if s.follows x then s else s.makeRecord 1 flags c x o.start pos (s.lengthNm x o.start pos) 0 at'

/-- An INTERVAL channel with no open record waits, from where its axis stands, for its next start point (R76, R80). -/
def Dev.lenFrom (s : Dev) (c : Nat) : Dev :=
  if (s.openLenOf c).isSome then s
  else
    let p := s.axisPos (s.pv P.merLenAxis c) s.now
    { s with mer := { s.mer with lenPrev := s.mer.lenPrev.set none c (some p) } }

/-- End an open record without making it (R88, R441). -/
def Dev.lenDrop (s : Dev) (c : Nat) : Dev := ((s.setOpen c none).lenFrom c).settleRecords

/-- INTERVAL channels of an axis whose output has moved to `out`: each multiple of the interval passed in the forward
sense ends a record and starts the next (R76). DESIGN CHOICE, entry 35. -/
def Dev.lenMoved (s : Dev) (x : Nat) (out : Int) : Dev :=
  s.forEach (List.range 4) (fun s c =>
    if s.pv P.merLenMode c = E.merLenMode.INTERVAL ∧ s.pv P.merLenAxis c = x ∧ s.mode M.legal = true then
      let step : Int := s.pv P.merLenInterval c * 65536
      let f := s.fwd x
      match s.openLenOf c with
      | some o =>
        let n := (posDiff out o.start * f).fdiv step
        let s := { s with mer := { s.mer with lenPrev := s.mer.lenPrev.set none c (some out) } }
        s.forEach (List.range n.toNat) (fun s i =>
          let p := wrap64 (o.start + f * step * (i + 1))
          (s.lenEnd c p s.now).lenStart c p)
      | none =>
        let s' := { s with mer := { s.mer with lenPrev := s.mer.lenPrev.set none c (some out) } }
        match s.mer.lenPrev.get none c with
        | none => s'
        | some prev =>
          let m := f * step * ((f * prev).fdiv step + 1)
          if prev * f < m * f ∧ m * f ≤ out * f then s'.lenStart c m else s'
    else s)

/-! ## WIDTH records (R84, R85) -/

/-- An edge value committed for a frame of the registered web. END of a record made before the frame's last line is formed
is the last stamp so far, and MER_TIME the instant of the commit: the manual gives neither. DESIGN CHOICE, entry 35. -/
def Dev.edgeValue (s : Dev) (frame : Nat) (left : Bool) (v : Int) : Dev :=
  let cur := match s.mer.edges.find? (fun e => e.1 == frame) with | some e => e.2 | none => (none, none)
  let rest := s.mer.edges.filter (fun e => e.1 != frame)
  if (if left then cur.1.isSome else cur.2.isSome) then s.bump P.merQuadExtraCount 0 1
  else
    let new := if left then (some v, cur.2) else (cur.1, some v)
    let s := { s with mer := { s.mer with edges := (frame, new) :: rest } }
    match new with
    | (some l, some r) =>
      let web := s.pv P.merQuadWeb 0
      let w := match s.mer.webFrames.find? (fun f => f.web == web && f.frame == frame) with
        | some f => f
        | none => ⟨web, frame, 0, 0, s.now, 0⟩
      let value := roundEven ((r - l) * s.pv P.merQuadPitchNm 0) 256
      if s.mode M.legal then
        s.makeRecord 3 (w.flags ||| s.webFlags web) (s.pv P.merQuadIndex 0) web w.first w.last value frame w.lastAt
      else s
    | _ => s

/-- FRAME_DONE of a web's frame: all its tiles have settled. -/
def Dev.webFrameDone (s : Dev) (w frame : Nat) : Dev :=
  { s with mer := { s.mer with webFrames := s.mer.webFrames.filter (fun f => f.web != w || f.frame != frame) } }

/-- FRAME_DONE of a frame of the registered web (R85). -/
def Dev.edgeFrameDone (s : Dev) (frame : Nat) : Dev :=
  let full := match s.mer.edges.find? (fun e => e.1 == frame) with
    | some (_, some _, some _) => true
    | _ => false
  let s := { s with mer := { s.mer with edges := s.mer.edges.filter (fun e => e.1 != frame) } }
  if full then s else s.bump P.merQuadMissingCount 0 1

/-! ## Attestation (R82) -/

/-- The four nibs of a quad. -/
def quadNibs (q : Nat) : List Nat := [4 * q, 4 * q + 1, 4 * q + 2, 4 * q + 3]

/-- Digest of a nib as Meridian forms it. -/
def Dev.nibDigest (s : Dev) (q i : Nat) : Bytes :=
  let n := s.nib (4 * q + i)
  match n.prog with
  | none => []
  | some p =>
    let const := if bit (fld p.hdr 6 2) 0 then ((List.range 4).map (fun j => (s.nib (4 * q + j)).const)).flatten
      else n.const
    sha256 (p.hdr ++ p.code ++ const)

def Dev.regDigest (s : Dev) : Bytes := ((List.range 4).map (fun i => le 8 (s.pv P.merQuadDigest i))).flatten

/-- One attestation check of the registered quad. -/
def Dev.attest (s : Dev) : Dev :=
  let q := s.pv P.merQuadIndex 0
  let ok := (List.range 4).all (fun i => s.nibDigest q i == s.regDigest)
  let was := s.pv P.merQuadState 0
  let s := { s with mer := { s.mer with attestDue := false, attestAt := s.now } }
  if ok then s.setP P.merQuadState 0 E.merQuadState.ATTESTED
  else
    let s := (s.setP P.merQuadState 0 E.merQuadState.QUAD_UNATTESTED).merTouch
    if was = E.merQuadState.QUAD_UNATTESTED then s else (s.fireAsync 90).raise1 14

end Sys2Proof.Machine
end

