-- ==== Sys2Proof/Machine/Field.lean ====
section
/-! DEFINITION. Field inputs, field outputs and their supply (R54 to R61, R422, R423). -/
namespace Sys2Proof.Machine

/-- A level that an input has held for `fi.debounce_us` since `tEdge` is taken (R54). In P4 the core has no supply, and the
active edge of `pwr.wake_fi` begins the exit (R380). -/
def runFieldInputEdge (i : Fin 16) (level : Bool) (tEdge t : Nat) (s : Dev) : Dev :=
  let s := s.at' t
  if (s.fin i).level = level ∨ s.now < tEdge + us (s.pv P.fiDebounceUs i) then s
  else
    let s := s.setFin i { s.fin i with level := level }
    let active := level == (s.pv P.fiPolarity i == E.fiPolarity.HIGH)
    let s := s.setP P.fiLevel i (b2n active)
    let sel := s.pv P.fiEvent i
    let taken := sel == E.fiEvent.BOTH || (sel == E.fiEvent.RISE && active) || (sel == E.fiEvent.FALL && !active)
    if !taken then s
    else if s.inP E.pwrState.P4 then
      (if s.pv P.pwrWakeFi 0 = i ∧ s.rst.moving.isNone = true then
          { s with rst := { s.rst with moving := some E.pwrState.P0 } } else s)
    else
      let s := s.setP P.fiLatch i (toTwos 64 (s.axisPos (s.pv P.fiLatchAxis i) tEdge))
      let s := s.fireAsync (72 + i)
      (s.forEach (List.range 64) (fun s st =>
        if s.pv P.trigMode st = E.trigMode.INPUT ∧ s.pv P.trigInput st = i ∧ s.trigLive st = true then
          let p := s.axisPos (s.pv P.trigAxis st) tEdge
          if s.holdPlaced st p then s.placeHold st
          else if s.loopOf (s.headOf st) = E.laneLoop.FAR then s.skipPoint st
          else s.fireTrig st (s.pv P.trigAxis st) (s.now + 1000 * s.pv P.trigLeadNs st) p
        else s))

/-- A MARKER output whose axis has reached a marker point pulses, forward only; not under HOLD (R46, R56, R344). -/
def runMarkerPulse (o : Fin 16) (t : Nat) (s : Dev) : Dev :=
  let s := s.at' t
  if s.pv P.foFunction o ≠ E.foFunction.MARKER ∨ s.axisStops (s.pv P.foSource o) = true then s
  else
    match s.markerPassed o with
    | none => s
    | some p =>
      let s := s.setFout o { s.fout o with high := some p }
      (if s.foLive o && !s.foHeld then s.pulse o s.now else s)

/-- A STROBE output pulses `fo.delay_ns` after an exposure instant of its stream: one fired by its generator, or one
of a stream in FREE mode (R56, R344). -/
def runStrobePulse (o : Fin 16) (t : Nat) (s : Dev) : Dev :=
  let s := s.at' t
  if s.pv P.foFunction o ≠ E.foFunction.STROBE then s
  else
    let x := s.fout o
    let st := s.pv P.foSource o
    let due := x.due.filter (fun i => decide (i ≤ s.now))
    let s := s.setFout o { x with due := x.due.filter (fun i => decide (s.now < i)) }
    let free := s.pv P.trigMode st == E.trigMode.FREE && (s.stream st).running
    if !s.foLive o then s
    else if free then (s.pulse o s.now)
    else match due.getLast? with | some i => (s.pulse o i) | none => s

/-- A pulse whose width has run out ends (R56). -/
def runPulseEnd (o : Fin 16) (t : Nat) (s : Dev) : Dev :=
  let s := s.at' t
  match (s.fout o).pulse with
  | some e => if e ≤ s.now then (s.withFo (fun s => s.setFout o { s.fout o with pulse := none })) else s
  | none => s

/-- An output whose warm-hold count has run out goes to HELD_OFF (R59). -/
def FieldOut.expire (x : FieldOut) (rt : Nat) : FieldOut :=
  if x.kept = .holding ∧ x.holdEnd ≤ rt then { x with kept := .heldOff, expired := some x.holdEnd } else x

/-- The warm-hold count of a HOLDING output, in rt, runs out (R59). -/
def runWarmHoldExpire (o : Fin 16) (t : Nat) (s : Dev) : Dev :=
  let s := s.at' t
  s.withFo (fun s => s.setFout o ((s.fout o).expire s.rt))

/-- Whether VFIELD lies in the range of R423. DESIGN CHOICE, entry 73. -/
def vfieldIn (mv : Nat) : Bool := decide (9000 ≤ mv) && decide (mv ≤ 33000)

/-- VFIELD leaves its range, or moves outside it (R58, R61). -/
def runVfieldLoss (mv : Nat) (t : Nat) (s : Dev) : Dev :=
  let s := s.at' t
  if vfieldIn mv then s
  else (s.withFo (fun s => { s with rst := { s.rst with vfieldOk := false, vfieldMv := mv } }))

/-- VFIELD has been back in range for 1 ms: every output resumes its kept state (R61). -/
def runVfieldRestore (mv : Nat) (t : Nat) (s : Dev) : Dev :=
  let s := s.at' t
  if !vfieldIn mv || s.rst.vfieldOk then s
  else
    (s.withFo (fun s =>
      let s := { s with rst := { s.rst with vfieldOk := true, vfieldMv := mv } }
      s.forEach (List.range 16) (fun s o =>
        (s.setFout o ((s.fout o).expire s.rt)).markerSkip o)))

/-- A driver overheats: high impedance with its weak pull, and a SUPPLY log record (R422). -/
def runDriverThermalShutdown (o : Fin 16) (t : Nat) (s : Dev) : Dev :=
  let s := s.at' t
  if (s.fout o).shut then s
  else ((s.withFo (fun s => s.setFout o { s.fout o with shut := true })).addLog 8 0 (16 + o) 0)

/-- The driver has cooled and resumes its function. -/
def runDriverCooled (o : Fin 16) (s : Dev) : Dev :=
  (s.withFo (fun s => s.setFout o { s.fout o with shut := false }))

/-! ## The commands -/

/-- FIELD_INPUT_EDGE. -/
def execFieldInputEdge (i : Fin 16) (level : Bool) (tEdge t : Nat) (s : State) : Out := s.onDev (runFieldInputEdge i level tEdge t)

/-- MARKER_PULSE. -/
def execMarkerPulse (o : Fin 16) (t : Nat) (s : State) : Out := s.onDev (runMarkerPulse o t)

/-- STROBE_PULSE. -/
def execStrobePulse (o : Fin 16) (t : Nat) (s : State) : Out := s.onDev (runStrobePulse o t)

/-- PULSE_END. -/
def execPulseEnd (o : Fin 16) (t : Nat) (s : State) : Out := s.onDev (runPulseEnd o t)

/-- WARM_HOLD_EXPIRE. -/
def execWarmHoldExpire (o : Fin 16) (t : Nat) (s : State) : Out := s.onDev (runWarmHoldExpire o t)

/-- VFIELD_LOSS. -/
def execVfieldLoss (mv : Nat) (t : Nat) (s : State) : Out := s.onDev (runVfieldLoss mv t)

/-- VFIELD_RESTORE. -/
def execVfieldRestore (mv : Nat) (t : Nat) (s : State) : Out := s.onDev (runVfieldRestore mv t)

/-- DRIVER_THERMAL_SHUTDOWN. -/
def execDriverThermalShutdown (o : Fin 16) (t : Nat) (s : State) : Out := s.onDev (runDriverThermalShutdown o t)

/-- DRIVER_COOLED. -/
def execDriverCooled (o : Fin 16) (s : State) : Out := s.onDev (runDriverCooled o)

end Sys2Proof.Machine
end

