-- ==== Sys2Proof/Machine/PlateMath.lean ====
section
/-! DEFINITION. The integer arithmetic of the plate stages (R137 to R146). -/
namespace Sys2Proof.Machine

abbrev Row := List Nat

/-- AVG (R137). -/
def avg (sum n : Nat) : Nat := Nat.min 65535 ((sum * ceilDiv 65536 n + 32768) / 65536)

/-- Input pixels from a line's bytes: packed LSB first, or 16-bit containers (R116). -/
def unpackRow (bits' packing n : Nat) (b : Bytes) : Row :=
  if packing = 1 then (List.range n).map (fun i => fld b (2 * i) 2)
  else (List.range n).map (fun i =>
    let lo := i * bits'
    fld b (lo / 8) 4 / 2 ^ (lo % 8) % 2 ^ bits')

/-- Working values of input pixels (R137). -/
def working (b : Nat) (r : Row) : Row := r.map (fun p => p * 2 ^ (16 - b) % 65536)

/-! ## Mosaic patterns (R141) -/

/-- A mosaic pattern: cell rows as plane numbers, and the window radius of each plane. -/
structure Cfa where
  cell : List (List Nat)
  radius : List Nat
  deriving DecidableEq, Repr

/-- The patterns in the order of `plate.cfa.pattern`. -/
def cfaOf (pattern : Nat) : Cfa :=
  match pattern with
  | 1 | 2 => ⟨[[0, 1], [1, 2]], [1, 1, 1]⟩
  | 3 => ⟨[[3, 0, 3, 1], [2, 3, 1, 3], [3, 1, 3, 0], [1, 3, 2, 3]], [2, 2, 2, 1]⟩
  | 4 => ⟨[[0, 1, 2, 1], [1, 3, 1, 3], [2, 1, 0, 1], [1, 3, 1, 3]], [2, 1, 2, 1]⟩
  | 5 => ⟨[[0, 0], [0, 1]], [1, 1]⟩
  | _ => ⟨[[0]], [0]⟩

def Cfa.size (c : Cfa) : Nat := c.cell.length
def Cfa.planes (c : Cfa) : Nat := c.radius.length

/-- Colour index of a site (R141): `phase` [1:0] adds to x, [3:2] to y. -/
def Cfa.colour (c : Cfa) (phase x y : Nat) : Nat :=
  ((c.cell.getD ((y + phase / 4) % c.size) []).getD ((x + phase % 4) % c.size) 0)

/-- The largest window radius. -/
def Cfa.reach (c : Cfa) : Nat := c.radius.foldl Nat.max 0

/-! ## Black level, defect pixels, flat field -/

/-- Black level (R138): `level` by colour. -/
def blackRow (c : Cfa) (phase y : Nat) (level : Nat → Nat) (r : Row) : Row :=
  r.zipIdx.map (fun p => p.1 - level (c.colour phase p.2 y))

/-- Defect correction of a row (R139): replaced row and the number left unresolved. `bad x` says that column x of this
row is in the map. -/
def defectRow (px : Nat) (bad : Nat → Bool) (r : Row) : Row × Nat :=
  let w := r.length
  let near := fun (x : Nat) (left : Bool) =>
    ([1, 2, 3].filterMap (fun k =>
      let ok := if left then decide (k * px ≤ x) else decide (x + k * px < w)
      let q := if left then x - k * px else x + k * px
      if ok && !bad q then some (r.getD q 0) else none)).head?
  r.zipIdx.foldr (fun p (acc : Row × Nat) =>
    if bad p.2 then
      match near p.2 true, near p.2 false with
      | some a, some b => (avg (a + b) 2 :: acc.1, acc.2)
      | some a, none => (a :: acc.1, acc.2)
      | none, some b => (b :: acc.1, acc.2)
      | none, none => (p.1 :: acc.1, acc.2 + 1)
    else (p.1 :: acc.1, acc.2)) ([], 0)

/-- Flat field of one pixel (R140). -/
def flatPixel (entry w : Nat) : Nat :=
  Nat.min 65535 (((w - entry % 65536) * (entry / 65536) + 8192) / 16384)

/-! ## Reconstruction (R141, R142) -/

/-- The nearest same-phase position inside [lo, hi], if there is one. -/
def substitute (p lo hi : Nat) (y : Int) : Option Nat :=
  let y' : Int :=
    if y < lo then y + p * (ceilDiv (lo - y).toNat p : Nat)
    else if (hi : Int) < y then y - p * (ceilDiv (y - hi).toNat p : Nat)
    else y
  if (lo : Int) ≤ y' ∧ y' ≤ hi then some y'.toNat else none

/-- Offsets of a window of radius r. -/
def window (r : Nat) : List Int := (List.range (2 * r + 1)).map (fun (i : Nat) => (i : Int) - r)

/-- Rows that the window of row y reads, after substitution within [lo, hi]. -/
def rowsFor (c : Cfa) (lo hi y : Nat) : List Nat :=
  (window c.reach).filterMap (fun d => substitute c.size lo hi (y + d))

/-- Plane `pl` at (x, y): `row` gives the rows of the run or frame, [lo, hi] its first and last. -/
def planeAt (c : Cfa) (phase lo hi w : Nat) (row : Nat → Row) (pl x y : Nat) : Nat :=
  let own := (row y).getD x 0
  if c.colour phase x y = pl then own
  else
    let r := c.radius.getD pl 0
    let ys := (window r).filterMap (fun d => substitute c.size lo hi (y + d))
    let xs := (window r).filterMap (fun d => substitute c.size 0 (w - 1) (x + d))
    let vals := ys.flatMap (fun v => xs.filterMap (fun u =>
      if c.colour phase u v = pl then some ((row v).getD u 0) else none))
    if vals.isEmpty then own else avg (vals.foldl (· + ·) 0) vals.length

/-- The planes of row y. -/
def mosaicRow (c : Cfa) (phase lo hi : Nat) (row : Nat → Row) (y : Nat) : List Row :=
  let w := (row y).length
  (List.range c.planes).map (fun pl => (List.range w).map (fun x => planeAt c phase lo hi w row pl x y))

/-! ## Matrix, scale, output depth (R143 to R145) -/

/-- Output planes of a row: `coef i j` as 4.12, `off i`; 1, 3 or 4 planes. -/
def matrixRow (coef : Nat → Nat → Int) (off : Nat → Int) (n : Nat) (ps : List Row) : List Row :=
  let w := (ps.headD []).length
  let p := fun (j x : Nat) => (ps.getD j []).getD x 0
  let q := fun (i x : Nat) =>
    let sum := ([0, 1, 2, 3].map (fun j => coef i j * (p j x : Int))).foldl (· + ·) 0
    (clampI 0 65535 ((sum + 2048).fdiv 4096 + off i)).toNat
  (List.range (Nat.min n 3)).map (fun i => (List.range w).map (q i))
    ++ (if n = 4 then [(List.range w).map (p 3)] else [])

/-- Columns x0 to x0 + width − 1 of a row, 0 meaning to the line's end (R144). -/
def cropRow (x0 width : Nat) (r : Row) : Row :=
  let r := r.drop x0
  if width = 0 then r else r.take width

/-- Reduce a row by sx columns. -/
def reduceCols (sx : Nat) (r : Row) : Row :=
  (List.range (r.length / sx)).map (fun i => avg (((r.drop (i * sx)).take sx).foldl (· + ·) 0) sx)

/-- Average a group of rows column by column. -/
def reduceRows (g : List Row) : Row :=
  let w := (g.headD []).length
  if g.length = 1 then g.headD []
  else (List.range w).map (fun x => avg ((g.map (fun r => r.getD x 0)).foldl (· + ·) 0) g.length)

/-- Reduction to output bits (R145). -/
def outRow (b : Nat) (r : Row) : Row :=
  if b = 16 then r else r.map (fun w => Nat.min (2 ^ b - 1) ((w + 2 ^ (15 - b)) / 2 ^ (16 - b)))

/-- Output samples as bytes. -/
def rowBytes (b : Nat) (r : Row) : Bytes := if b = 8 then (r.map (le 1)).flatten else (r.map (le 2)).flatten

/-! ## Lossless coding (R146) -/

/-- Residuals of a plane, zig-zag coded. -/
def zigzag (b : Nat) (prev : Option Nat) (r : Row) : List Nat :=
  let step := fun (pred v : Nat) =>
    let d := (v + 2 ^ b - pred % 2 ^ b) % 2 ^ b
    if 2 ^ (b - 1) ≤ d then 2 * (2 ^ b - d) - 1 else 2 * d
  let first := prev.getD (2 ^ (b - 1))
  (r.foldl (fun (a : List Nat × Nat) v => (step a.2 v :: a.1, v)) ([], first)).1.reverse

/-- `n` bits of a number, lowest first. -/
def bitsLsb (v n : Nat) : List Bool := (List.range n).map (bit v)

/-- One block of up to 32 pixels. -/
def codeBlock (b : Nat) (v z : List Nat) : List Bool :=
  let n := v.length
  let cost := fun (k : Nat) => (z.map (fun x => x / 2 ^ k + 1 + k)).foldl (· + ·) 0
  let k := (List.range b).foldl (fun best k => if cost k < cost best then k else best) 0
  if n * b ≤ cost k then bitsLsb 31 5 ++ v.flatMap (fun x => bitsLsb x b)
  else bitsLsb k 5 ++ z.flatMap (fun x => List.replicate (x / 2 ^ k) true ++ [false] ++ bitsLsb (x % 2 ^ k) k)

def codeBlocks (b : Nat) : Nat → List Nat → List Nat → List Bool
  | 0, _, _ => []
  | n + 1, v, z => codeBlock b (v.take 32) (z.take 32) ++ codeBlocks b n (v.drop 32) (z.drop 32)

/-- Bits packed LSB first, padded with zero bits to a whole byte. -/
def packBits : Nat → List Bool → Bytes
  | 0, _ => []
  | n + 1, l => BitVec.ofNat 8 ((l.take 8).zipIdx.foldl (fun a p => a + b2n p.1 * 2 ^ p.2) 0) :: packBits n (l.drop 8)

/-- A coded line: plane by plane; `prev` holds the first samples of the previous line of the frame. -/
def codeLine (b : Nat) (prev : List (Option Nat)) (planes : List Row) : Bytes :=
  let bs := (planes.zip (prev ++ List.replicate planes.length none)).flatMap (fun p =>
    codeBlocks b (ceilDiv p.1.length 32) p.1 (zigzag b p.2 p.1))
  packBits (ceilDiv bs.length 8) bs

end Sys2Proof.Machine
end

