-- ==== Sys2Proof/Machine/PlateOps.lean ====
section
/-! DEFINITION. The plate pipeline over the state: memory, frames and their boundaries, the stages, rings, taps,
previews, statistics (R126 to R151, R312, R313, R330, R336). -/
namespace Sys2Proof.Machine

/-! ## Plate memory (R24, R127, R229, R259) -/

/-- The parameters a stream runs on now. -/
def Dev.cfgOf (s : Dev) (st : Nat) : PlateCfg where
  mode := s.pv P.plateFrameMode st
  width := s.pv P.plateLineWidth st
  inBits := s.pv P.plateInBits st
  height := s.pv P.plateFrameLines st
  fill := Nat.min (s.pv P.plateFillValue st) (2 ^ s.pv P.plateInBits st - 1)
  blackOn := s.pv P.plateBlackEnable st == 1
  levels := (List.range 4).map (fun c => s.pv P.plateBlackLevel (4 * st + c))
  dpcOn := s.pv P.plateDpcEnable st == 1
  ff := s.pv P.plateFfMode st
  pattern := s.pv P.plateCfaPattern st
  phase := s.pv P.plateCfaPhase st
  coef := (List.range 12).map (fun i => s.ps 16 P.plateCcmCoef (12 * st + i))
  offs := (List.range 3).map (fun i => s.ps 16 P.plateCcmOffset (3 * st + i))
  planes := s.pv P.plateOutPlanes st
  cropX := s.pv P.plateCropX0 st
  cropW := s.pv P.plateCropWidth st
  cropY := s.pv P.plateCropY0 st
  cropH := s.pv P.plateCropHeight st
  sx := s.pv P.plateScaleX st
  sy := s.pv P.plateScaleY st
  outBits := s.pv P.plateOutBits st
  compress := s.pv P.plateOutCompress st == 1
  statPoint := s.pv P.plateStatsPoint st
  statX := s.pv P.plateStatsX0 st
  statW := s.pv P.plateStatsWidth st
  bin := s.pv P.plateStatsProfileBin st
  binPlane := s.pv P.plateStatsProfilePlane st
  unit := s.pv P.plateUnit st

/-- Output width in samples. -/
def PlateCfg.outW (c : PlateCfg) : Nat := (if c.cropW = 0 then c.width - c.cropX else c.cropW) / c.sx

def sampleBytes (outBits : Nat) : Nat := if outBits = 8 then 1 else 2

/-- Bytes of an input line and of an output line in plate memory (R127). -/
def PlateCfg.inBytes (c : PlateCfg) : Nat := ceilDiv (c.width * c.inBits) 8
def PlateCfg.outBytes (c : PlateCfg) : Nat := c.outW * c.planes * sampleBytes c.outBits

/-- Words of a place of the assembly buffer, which begins a stream's run, and of the output ring, which follows it.
DESIGN CHOICE, entry 81. -/
def PlateCfg.asmSpan (c : PlateCfg) (slot : Nat) : Nat × Nat := wordSpan (slot * c.inBytes) c.inBytes
def PlateCfg.ringSpan (c : PlateCfg) (slot : Nat) : Nat × Nat := wordSpan (8 * c.inBytes + slot * c.outBytes) c.outBytes

/-- Entries of the flat-field table a stream's settings call for (R140, R147). -/
def PlateCfg.flatEntries (c : PlateCfg) : Nat :=
  if c.ff = E.plateFfMode.COLUMN then c.width
  else if c.ff = E.plateFfMode.PIXEL then c.width * c.height else 0

/-- Bytes of R127 for a stream's settings and tables. -/
def plateBytes (c : PlateCfg) (ringLines flat defect : Nat) : Nat :=
  roundUp (8 * ceilDiv (c.width * c.inBits) 8 + ringLines * c.outW * c.planes * sampleBytes c.outBits
    + 2 * 4 * flat + 2 * 4 * defect) 4096

/-- The largest table copies a stream holds. -/
def Stream.flatHeld (x : Stream) : Nat := Nat.max x.active.flat.length ((x.pendFlat.map List.length).getD 0)
def Stream.defectHeld (x : Stream) : Nat := Nat.max x.active.defect.length ((x.pendDefect.map List.length).getD 0)

/-- Plate memory that a stream needs (R127). DESIGN CHOICE, entry 19. -/
def Dev.plateNeed (s : Dev) (st : Nat) : Nat :=
  let c := s.cfgOf st
  let x := s.stream st
  plateBytes c (s.pv P.plateRingLines st) (Nat.max c.flatEntries x.flatHeld) x.defectHeld

def Dev.queueBytes (s : Dev) : Nat :=
  ((List.range 128).map (fun q => roundUp (32 * s.qCap q) 4096)).foldl (· + ·) 0

def Dev.webBytes (s : Dev) : Nat := ((List.range 4).map (fun w => (s.web w).mem)).foldl (· + ·) 0
def Dev.streamBytes (s : Dev) : Nat := ((List.range 64).map (fun i => (s.stream i).mem)).foldl (· + ·) 0

/-- Plate memory not allocated (`mem.free_bytes`), beside the larger of the Folio size in force and the one that waits; negative when a change would not fit.
DESIGN CHOICE, entry 19. -/
def Dev.memFree (s : Dev) : Int :=
  (128 * 1048576 : Nat) - (Nat.max s.folioMib (s.pv P.ephFolioMib 0) * 1048576 + s.queueBytes + s.webBytes + s.streamBytes : Nat)

/-- Put a stream's allocation. -/
def Dev.allocStream (s : Dev) (st n : Nat) : Dev :=
  (s.setStream st { s.stream st with mem := n }).setP P.plateMemUsed st n

/-! ## Stream state -/

def Dev.plateState (s : Dev) (st v : Nat) : Dev := s.setP P.plateState st v

def Dev.modStream (s : Dev) (st : Nat) (f : Stream → Stream) : Dev := s.setStream st (f (s.stream st))

/-- Change the frame numbered `no` of a stream. -/
def Dev.modFrame (s : Dev) (st no : Nat) (f : Frame → Frame) : Dev :=
  s.modStream st (fun x => { x with frames := x.frames.map (fun y => if y.no = no then f y else y) })

def Stream.frameNo' (x : Stream) (no : Nat) : Option Frame := x.frames.find? (fun f => f.no == no)

/-- A channel that runs with a source delivers it (R278, R280). -/
def Dev.chanFor (s : Dev) (src : Nat) : Option Nat :=
  (List.range 48).find? (fun c => s.pv P.quillSrc c == src && (s.chan c).state != 0)

/-- The value an output sample of fill has. DESIGN CHOICE, entry 40. -/
def PlateCfg.outFill (c : PlateCfg) : Nat := ((outRow c.outBits (working c.inBits [c.fill])).headD 0)

/-! ## Parameters that take effect at a frame boundary (R8, R51, R330) -/

/-- The running stream of a plate unit whose boundary a parameter of the unit's queues waits for: the first one.
DESIGN CHOICE, entry 17. -/
def Dev.unitOwner (s : Dev) (u : Nat) : Option Nat :=
  (List.range 64).find? (fun i => (s.stream i).running && s.pv P.plateUnit i == u)

/-- The sequence, 0–63 a stream and 64–67 a web, whose frame boundary a parameter instance waits for. -/
def Dev.frameOwner (s : Dev) (id inst : Nat) : Option Nat :=
  if id = P.plateTapStream ∨ id = P.plateTapPoint ∨ id = P.plateTapEvery ∨ id = P.plateTapCompress
      ∨ id = P.duxTapArm then some (s.pv P.plateTapStream inst)
  else if 0x0650 ≤ id ∧ id ≤ 0x0656 then
    (let v := s.pv P.plateSurveyStream inst
     if v < 64 then some v else none)
  else if id = P.nibStreamSlot then some inst
  else if id = P.nibWebSlot then some (64 + inst)
  else if id = P.ephTileW ∨ id = P.ephTileH then some inst
  else if id = P.qCutThru then
    (if inst < 68 then some inst
     else if inst < 84 then some (s.pv P.plateTapStream (inst - 68))
     else if 84 ≤ inst ∧ inst < 100 then s.unitOwner ((inst - 84) % 8)
     else if 100 ≤ inst ∧ inst < 104 then some (64 + (inst - 100)) else none)
  else match streamOfParam id inst with
    | some st => some st
    | none => (webOfParam id inst).map (64 + ·)

/-- Put a FRAME parameter in force. A generator that enters a mode takes its first-point reference (R46).
DEDUCED, entry 17. -/
def Dev.applyFrame (s : Dev) (w : PendWrite) : Dev :=
  let old := s.pv w.id w.inst
  let s := s.setK (pkey w.id w.inst w.word) w.value
  if w.id = P.trigMode ∧ old ≠ w.value then
    s.setTrig w.inst { s.trig w.inst with entered := true }
  else if w.id = P.trigPeriodNs then s.setTrig w.inst { s.trig w.inst with nextTime := 0 }
  else s

/-- Generators whose mode the writes just applied have changed: each takes its first-point reference by what is in force
now (R46); a mode with messages wakes the up direction (R110); one that HOLD stops is held from the start (R52, R134). -/
def Dev.trigsEntered (s : Dev) (l : List Nat) : Dev :=
  s.forEach (l.filter (fun st => (s.trig st).entered)) (fun s st =>
    let s := s.trigEnter st
    let mode := s.pv P.trigMode st
    let h := s.headOf st
    let s := if (trigExpects mode || mode == E.trigMode.TIME) && s.linkUp h then s.wakeUp h else s
    let x := s.stream st
    if x.running && s.mode M.hold && trigExpects mode && x.ending == 0 then
      (s.setStream st { x with held := true }).plateState st E.plateState.HELD
    else s)

/-- The writes that wait for the boundary at which frame `no` of sequence `q` begins. -/
def Dev.frameWrites (s : Dev) (q no : Nat) : Dev :=
  let due := fun (w : PendWrite) => w.owner == q && (match w.frame with | none => true | some f => decide (f ≤ no))
  let now := s.writes.filter due
  let s := { s with writes := s.writes.filter (fun w => !due w) }
  let s := (now.foldl Dev.applyFrame s).trigsEntered (if q < 64 then [q] else [])
  let x := s.seqn q
  s.setSeqn q { x with hold := x.hold.filter (fun h => match h.2.2 with | none => false | some f => decide (no < f)) }

/-! ## Modes at a frame boundary (R336) -/

/-- The FRAME-bound bits a stream or web takes at the boundary before frame `no`, given those it has. -/
def Dev.modesAt (s : Dev) (old no : Nat) : Nat :=
  let word := s.pv P.modeWord 0
  (List.range 3).foldl (fun m i =>
    let wait := s.modeAt.any (fun a => (bit a.setM i || bit a.clrM i) && decide (no < a.frame))
    putBit m i (if wait then bit old i else bit word i)) 0

/-- `mode.pending`: bits not yet in effect on every running stream and web. -/
def Dev.modePending (s : Dev) : Dev :=
  let word := s.pv P.modeWord 0
  let lag := ((List.range 64).filter (fun i => (s.stream i).running)).map (fun i => (s.stream i).modes)
    ++ ((List.range 4).filter (fun w => (s.web w).running)).map (fun w => (s.web w).modes)
  let p := lag.foldl (fun p m => p ||| ((m ^^^ word) % 8)) 0
  let holds := (List.range 64).any (fun i => (s.stream i).holdAt.isSome)
  let s := s.setP P.modePending 0 (putBit p 11 holds)
  if p = 0 then { s with modeAt := [] } else s

/-! ## Records into queues (R148, R149, R150) -/

/-- A line's pixels, raw or coded (R145, R146). -/
def linePixels (bits : Nat) (coded : Bool) (prev : List (Option Nat)) (planes : List Row) : Bytes :=
  if coded then codeLine bits prev planes else (planes.map (rowBytes bits)).flatten

def firstSamples (planes : List Row) : List (Option Nat) := planes.map List.head?

/-- Write one line of a tap's frame. -/
def Dev.tapLine (s : Dev) (t bits : Nat) (f : Frame) (x : FTap) (l : PLine) : Dev × FTap :=
  let s := if x.lines = 0 then
      s.qItem (68 + t) (recFrameStart 2 t f.no l.planes.length (sampleBytes bits) (b2n x.compress) x.point
        (l.planes.headD []).length)
    else s
  let px := linePixels bits x.compress x.prev0 l.planes
  (s.qItem (68 + t) (recLine 2 t l.info px false), { x with lines := x.lines + 1, prev0 := firstSamples l.planes })

/-- A line reaches a tap point: held until the decision, copied, or not. -/
def Dev.tapPoint (s : Dev) (st no point bits : Nat) (l : PLine) : Dev :=
  match (s.stream st).frameNo' no with
  | none => s
  | some f =>
    let (s, taps) := f.taps.foldl (fun (a : Dev × List FTap) x =>
      if x.point ≠ point ∨ x.st = 2 then (a.1, a.2 ++ [x])
      else if x.st = 0 then
        -- R313: the first frame whose first line reaches the tap point after the acceptance
        let tp := a.1.tap x.tap
        if a.1.pv P.duxClass (a.1.pv P.duxTapArm x.tap) = E.duxClass.POS then (a.1, a.2 ++ [{ x with held := x.held ++ [l] }])
        else if tp.armed && !tp.busy then
          let (s, x) := (a.1.setTap x.tap { tp with busy := true }).tapLine x.tap bits f { x with st := 1 } l
          (s, a.2 ++ [x])
        else (a.1, a.2 ++ [{ x with st := 2 }])
      else
        let (s, x) := a.1.tapLine x.tap bits f x l
        (s, a.2 ++ [x])) (s, [])
    s.modFrame st no (fun f => { f with taps := taps })

/-- Decide a frame held for a POS-armed tap: some accepted tag lies after the previous frame's first stamp and at or
before this one's (R312). -/
def Dev.tapDecide (s : Dev) (st no t : Nat) : Dev :=
  match (s.stream st).frameNo' no with
  | none => s
  | some f =>
    let bits := fun (x : FTap) => if x.point = 6 then f.cfg.outBits else 16
    let tp := s.tap t
    let axis := s.pv P.trigAxis st
    let hit := tp.tags.any (fun g => g.1 == axis && decide (posDiff g.2 f.firstStamp ≤ 0)
      && (match f.prevFirst with | none => true | some p => decide (0 < posDiff g.2 p)))
    let s := s.setTap t { tp with
      tags := tp.tags.filter (fun g => decide (0 < posDiff g.2 f.firstStamp)) }
    let (s, taps) := f.taps.foldl (fun (a : Dev × List FTap) x =>
      if x.tap ≠ t ∨ x.st ≠ 0 then (a.1, a.2 ++ [x])
      else if hit then
        let (s, x) := x.held.foldl (fun (b : Dev × FTap) l => b.1.tapLine t (bits x) f b.2 l) (a.1, { x with st := 1, held := [] })
        (s, a.2 ++ [x])
      else (a.1, a.2 ++ [{ x with st := 2, held := [] }])) (s, [])
    s.modFrame st no (fun f => { f with taps := taps })

/-! ### Statistics (R150, R151) -/

def Stats.start (planes bins : Nat) : Stats :=
  ⟨0, 0, List.replicate planes [65535, 0, 0, 0, 0, 0], List.replicate planes (List.replicate 256 0), List.replicate bins 0⟩

/-- Gather one line. Columns beyond the last whole bin enter no bin, and a profiled plane beyond the planes of the block
gives sums of 0. DESIGN CHOICE, entry 82. -/
def Stats.add (x : Stats) (bin binPlane : Nat) (rows : List Row) : Stats :=
  { x with
    lines := x.lines + 1
    pixels := x.pixels + (rows.headD []).length
    sums := x.sums.zipWith (fun a r =>
      [r.foldl Nat.min (a.getD 0 0), r.foldl Nat.max (a.getD 1 0), a.getD 2 0 + (r.filter (· == 0)).length,
       a.getD 3 0 + (r.filter (· == 65535)).length, a.getD 4 0 + r.foldl (· + ·) 0,
       a.getD 5 0 + r.foldl (fun q v => q + v * v) 0]) rows
    hist := x.hist.zipWith (fun h r => r.foldl (fun h v => h.modify (v / 256) (· + 1)) h) rows
    profile := if bin = 0 then [] else
      x.profile.zipIdx.map (fun p => p.1 + (((rows.getD binPlane []).drop (p.2 * bin)).take bin).foldl (· + ·) 0) }

/-- The statistics a frame begins with; none without a point or without ACQUIRE (R150, R337). A frame whose lines are
all excluded has a block too, with MIN 65,535 and MAX 0. DESIGN CHOICE, entry 82. -/
def PlateCfg.statStart (c : PlateCfg) (acquire : Bool) : Option Stats :=
  if c.statPoint = E.plateStatsPoint.OFF ∨ acquire = false then none
  else
    let w := (if c.statPoint = E.plateStatsPoint.TP_OUT then c.outW else c.width) - c.statX
    let w := if c.statW = 0 then w else Nat.min c.statW w
    some (Stats.start (if c.statPoint = E.plateStatsPoint.TP_OUT then c.planes else 1) (if c.bin = 0 then 0 else w / c.bin))

/-- A line of a statistics point, its place in the ring decided: excluded with STATS_PARTIAL, or gathered (R150). -/
def Frame.statDecide (f : Frame) (flags : Nat) (rows : List Row) : Frame :=
  if f.stats.isNone then f
  else if flags &&& 0x11D ≠ 0 then { f with flags := setBit f.flags 9 }
  else { f with stats := f.stats.map (fun x => x.add f.cfg.bin f.cfg.binPlane (rows.map (cropRow f.cfg.statX f.cfg.statW))) }

/-- A line at TP_BLACK or TP_FLAT waits until its output line is stored or DROPPED (R133, R150). -/
def Dev.statLine (s : Dev) (st no point : Nat) (info : LineMeta) (rows : List Row) : Dev :=
  s.modFrame st no (fun f =>
    if f.cfg.statPoint ≠ point ∨ f.stats.isNone = true then f
    else { f with statWait := f.statWait ++ [(info.index, info.flags, rows)] })

/-- Lines below index `k` that wait are decided; those from `i` on are of an output line with `flags`. -/
def Frame.statSettle (f : Frame) (i k flags : Nat) : Frame :=
  let (now, later) := f.statWait.partition (fun l => decide (l.1 < k))
  now.foldl (fun f l => f.statDecide (if i ≤ l.1 then l.2.1 ||| flags &&& 16 else l.2.1) l.2.2) { f with statWait := later }

/-- The block of R151. -/
def statBlock (st : Nat) (f : Frame) (x : Stats) : Bytes :=
  le 1 st ++ le 1 1 ++ le 1 x.sums.length ++ le 1 f.cfg.statPoint ++ le 4 f.no ++ le 2 f.exp ++ le 2 f.cfg.bin
    ++ le 4 f.flags ++ le 8 (toTwos 64 f.firstStamp) ++ le 8 (toTwos 64 f.lastStamp) ++ le 4 x.lines
    ++ le 4 x.profile.length ++ le 8 x.pixels ++ le 8 f.tbFirst ++ le 8 0
    ++ ((x.sums.zip x.hist).map (fun p =>
      le 2 (p.1.getD 0 0) ++ le 2 (p.1.getD 1 0) ++ le 4 (p.1.getD 2 0) ++ le 4 (p.1.getD 3 0) ++ le 4 0
        ++ le 8 (p.1.getD 4 0) ++ le 8 (p.1.getD 5 0) ++ (p.2.map (le 4)).flatten)).flatten
    ++ (x.profile.map (le 8)).flatten

/-! ### Previews (R149) -/

/-- The metadata of lines averaged together: that of the first, with the OR of the flags. -/
def groupInfo (g : List PLine) : LineMeta :=
  match g with
  | [] => ⟨0, 0, 0, 0, 0, 0, 0, none, 0, 0⟩
  | l :: _ => { l.info with flags := g.foldl (fun f m => f ||| m.info.flags) 0 }

/-- The lines of a group averaged, plane by plane (R144). -/
def groupRows (g : List PLine) : List Row :=
  (List.range ((g.headD ⟨groupInfo [], []⟩).planes.length)).map (fun p => reduceRows (g.map (fun l => l.planes.getD p [])))

def FPrev.flush (x : FPrev) (no : Nat) : FPrev :=
  if x.group.isEmpty then x
  else
    let planes := (groupRows x.group).map (fun r => outRow x.bits (reduceCols x.sx r))
    let start := if x.lines = 0 then
        recFrameStart 3 x.idx no planes.length (sampleBytes x.bits) 0 0 (planes.headD []).length else []
    { x with
      group := []
      recs := x.recs ++ start ++ recLine 3 x.idx (groupInfo x.group) (linePixels x.bits false [] planes) false
      lines := x.lines + 1 }

def FPrev.take (x : FPrev) (no : Nat) (l : PLine) : FPrev :=
  let x := { x with group := x.group ++ [⟨l.info, l.planes.map (cropRow x.x0 x.width)⟩] }
  if x.group.length = x.sy then x.flush no else x

/-! ## The output side (R142 to R146) -/

/-- Lines of a ring that are still needed and hold pixels. -/
def ringLines (r : List RingItem) : Nat :=
  (r.filter (fun i => match i with
    | .line l _ _ a b => (a || b) && !bit l.info.flags 4
    | _ => false)).length

/-- Items at the front of a ring that nobody needs any more go. DEDUCED, entry 70. -/
def pruneRing (host : Bool) : List RingItem → List RingItem
  | [] => []
  | i :: r =>
    match i with
    | .line _ _ _ a b => if a || b then i :: r else pruneRing host r
    | _ => if host then i :: r else pruneRing host r

/-- A line enters a ring, or is kept as metadata only with DROPPED. DEDUCED, entry 70. -/
def ringPut (r : List RingItem) (cap bits fill : Nat) (coded needTile needHost : Bool) (l : PLine) :
    List RingItem × PLine × Bool :=
  if !needTile && !needHost then (r, l, false)
  else if cap ≤ ringLines r then
    let l := { l with
      info := { l.info with flags := setBit l.info.flags 4 }
      planes := l.planes.map (fun p => p.map (fun _ => fill)) }
    (r ++ [.line l bits coded needTile needHost], l, true)
  else (r ++ [.line l bits coded needTile needHost], l, false)

/-- Whether Ephemeris tiles a sequence. -/
def Dev.tiles' (s : Dev) (q : Nat) : Bool := decide (s.seqSlot q < 32)

/-- Whether a frame of a sequence is tiled. -/
def Dev.tiled (s : Dev) (q no : Nat) : Bool := (s.seqn q).cfgs.any (fun c => c.frame == no)

/-- Lines of a sequence for cutting (R192). -/
def Dev.seqFeed (s : Dev) (q bits : Nat) (l : PLine) (row : Nat) (runFirst area : Bool) : Dev :=
  let x := s.seqn q
  s.setSeqn q { x with lines := x.lines ++ [⟨l, bits, row == 0, false, runFirst, false, area, row⟩] }

/-- Mark the last line of a sequence as the last of its frame or run. -/
def Dev.seqMark (s : Dev) (q : Nat) (frame run : Bool) : Dev :=
  let x := s.seqn q
  s.setSeqn q { x with lines := x.lines.modify (x.lines.length - 1) (fun l =>
    { l with frameLast := l.frameLast || frame, runLast := l.runLast || run }) }

/-- Flags of a line that mark its frame LINE_FLAGGED: bits 0–4, 8 and 9 (R136). -/
def lineFlagged (f : Nat) : Bool := f &&& 0x31F != 0

/-- A line that an uncorrectable word has touched (R253). -/
def PLine.poisoned (l : PLine) (fill : Nat) : PLine :=
  { info := { l.info with flags := setBit l.info.flags 8 }, planes := l.planes.map (fun r => r.map (fun _ => fill)) }

/-- A line as read with what is left of its words' errors; its first byte stands at byte `a` of the first word. -/
def PLine.withErrors (l : PLine) (bits' : Nat) (left : List (Nat × Bytes)) (a : Nat) : PLine :=
  let sb := sampleBytes bits'
  let err := fun (o : Nat) => ofLE ((List.range sb).map (fun k => residue left (a % 32) (o + k)))
  let n := (l.planes.headD []).length
  { l with planes := l.planes.zipIdx.map (fun p => p.1.zipIdx.map (fun v => v.1 ^^^ err ((p.2 * n + v.2) * sb))) }

/-- Flags of a member's frame as it closes and as it leaves the stages reach the web's lines and frame (R228). -/
def Dev.webFrameFlags (s : Dev) (st no flags : Nat) : Dev :=
  s.forEach ((List.range 4).filter (fun w => (s.web w).running)) (fun s w =>
    let x := s.web w
    s.setWeb w { x with
      lines := x.lines.mapVal [] (fun _ ls => ls.map (fun l =>
        if l.from' = st ∧ l.line.info.frame = no then { l with frameFlags := flags } else l))
      frame := x.frame.map (fun f => if f.drawn.contains (st, no) then { f with flags := f.flags ||| flags } else f) })

def Dev.ligSlot (s : Dev) (w m : Nat) : Nat := s.pv P.ligMember (16 * w + m)

/-- Number of members of a web. -/
def Dev.ligCount (s : Dev) (w : Nat) : Nat :=
  ((List.range 16).map (s.ligSlot w)).findIdx (fun v => decide (64 ≤ v))

/-- Lines of a member's line buffer, and bytes of one. -/
def Dev.bufLines (s : Dev) (w m : Nat) : Nat :=
  let ys := (List.range (s.ligCount w)).map (fun m => s.ps 64 P.ligYOff (16 * w + m))
  let top := ys.foldl max (ys.headD 0)
  (-((-(top - ys.getD m 0)).fdiv (s.ps 64 P.trigPitch (s.ligSlot w m)))).toNat + 2
def Dev.bufLineBytes (s : Dev) (w m : Nat) : Nat := (s.cfgOf (s.ligSlot w m)).outBytes

/-- First byte, in the web's run, of member m's line buffer; the web ring follows the last. -/
def Dev.bufBase (s : Dev) (w m : Nat) : Nat := sumTo m (fun i => roundUp (s.bufLines w i * s.bufLineBytes w i) 4096)

/-- Words of a place of a member's line buffer. DESIGN CHOICE, entry 81. -/
def Dev.bufSpan (s : Dev) (w m slot : Nat) : Nat × Nat :=
  wordSpan (s.bufBase w m + slot % s.bufLines w m * s.bufLineBytes w m) (s.bufLineBytes w m)
/-- Members' output lines go to Ligature's line buffers (R218, R224). -/
def Dev.webFeed (s : Dev) (st : Nat) (l : PLine) (fflags : Nat) : Dev :=
  s.forEach (List.range 4) (fun s w =>
    if (s.web w).running then
      s.forEach ((List.range 16).filter (fun i => s.pv P.ligMember (16 * w + i) == st)) (fun s i =>
        let x := s.web w
        let k := x.fed.get 0 i
        let p := s.bufSpan w i k
        (s.setWeb w { x with
          lines := x.lines.set [] i (x.lines.get [] i ++ [⟨l, st, fflags, k⟩])
          fed := x.fed.set 0 i (k + 1) }).rewrite (.web w) p.1 p.2)
    else s)

/-- An output line of a frame: ring, tiles, webs, taps at TP_OUT; an averaged line keeps the INDEX of the first of its
lines (R133, R145, R295). A tap at TP_OUT takes a line that the ring drops with its pixels and without DROPPED.
DEDUCED, entry 40. -/
def Dev.outLine (s : Dev) (st no : Nat) (info : LineMeta) (rows : List Row) : Dev :=
  match (s.stream st).frameNo' no with
  | none => s
  | some f =>
    let c := f.cfg
    let x := s.stream st
    let slot := x.ringNo % s.pv P.plateRingLines st
    let l : PLine := ⟨{ info with frame := no, slot := slot }, rows.map (outRow c.outBits)⟩
    let host := (s.chanFor st).isSome && f.acquire
    let tile := s.tiled st no
    let ring := if host && !f.started then
        x.ring ++ [.start no l.planes.length (sampleBytes c.outBits) c.compress (l.planes.headD []).length]
      else x.ring
    let (ring, l', dropped) := ringPut ring (s.pv P.plateRingLines st) c.outBits c.outFill c.compress tile host l
    let stored := (host || tile) && !dropped
    let s := s.setStream st { x with ring := ring, ringNo := x.ringNo + b2n stored }
    let s := if stored then (let w := c.ringSpan slot; s.rewrite (.stream st) w.1 w.2) else s
    let s := if dropped then s.bump P.plateDropCount st 1 else s
    let s := s.modFrame st no (fun f =>
      let f := if c.statPoint = 3 then f.statDecide l'.info.flags rows
        else f.statSettle info.index (info.index + c.sy) l'.info.flags
      { f with
        started := f.started || host, outLines := f.outLines + 1
        flags := if lineFlagged l'.info.flags then setBit f.flags 7 else f.flags })
    let runFirst := (s.seqn st).lines.isEmpty || ((s.seqn st).lines.getLast?.any SLine.runLast)
    let s := if tile then s.seqFeed st c.outBits l' f.outLines runFirst (c.mode == E.plateFrameMode.AREA) else s.seqMark st false true
    let s := s.webFeed st l' f.flags
    s.tapPoint st no 6 c.outBits l

/-- Flush a frame's vertical group (R144). -/
def Dev.flushGroup (s : Dev) (st no : Nat) : Dev :=
  match (s.stream st).frameNo' no with
  | none => s
  | some f =>
    if f.group.isEmpty then s
    else
      let rows := (groupRows f.group).map (reduceCols f.cfg.sx)
      let info := groupInfo f.group
      (s.modFrame st no (fun f => { f with group := [] })).outLine st no info rows

/-- A row after the matrix: previews, crop, scale (R143, R144, R149). -/
def Dev.scaleLine (s : Dev) (st no : Nat) (l : PLine) : Dev :=
  match (s.stream st).frameNo' no with
  | none => s
  | some f =>
    let c := f.cfg
    let s := s.modFrame st no (fun f => { f with prevs := f.prevs.map (fun p => p.take no l) })
    let inCrop := c.mode != E.plateFrameMode.AREA ||
      (decide (c.cropY ≤ l.info.index) && (c.cropH == 0 || decide (l.info.index < c.cropY + c.cropH)))
    if inCrop then
      let l' : PLine := ⟨l.info, l.planes.map (cropRow c.cropX c.cropW)⟩
      let s := s.modFrame st no (fun f => { f with group := f.group ++ [l'] })
      if f.group.length + 1 = c.sy then s.flushGroup st no else s
    else s

/-- Row `y` of the present run, whose last row so far is `hi` if `over`, is reconstructed (R141, R142). -/
def Dev.outRowY (s : Dev) (st y hi : Nat) : Dev :=
  let x := s.stream st
  match x.rows.find? (fun r => r.1 == y) with
  | none => s
  | some (_, l) =>
    match x.frameNo' l.info.frame with
    | none => s
    | some f =>
      let c := f.cfg
      let cfa := cfaOf c.pattern
      let row := fun (k : Nat) => match x.rows.find? (fun r => r.1 == k) with | some r => r.2.planes.headD [] | none => []
      let lo := x.runTop
      let planes :=
        if cfa.planes = 1 then [row y]
        else mosaicRow cfa c.phase lo hi row y
      let s := s.tapPoint st f.no 5 16 ⟨l.info, planes⟩
      let out := matrixRow (fun i j => c.coef.getD (4 * i + j) 0) (fun i => c.offs.getD i 0) c.planes planes
      s.scaleLine st f.no ⟨l.info, out⟩

/-- Whether row `y` can be reconstructed while the run goes on after row `last`: every row that its window reads after
substitution at the top has arrived (R142). -/
def rowReady (cfa : Cfa) (top last y : Nat) : Bool :=
  (rowsFor cfa top (y + cfa.reach + cfa.size) y).all (fun k => decide (k ≤ last))

/-- The STAMP record of a frame (R78). DESIGN CHOICE, entry 35. -/
def Dev.stampRecord (s : Dev) (st : Nat) (f : Frame) : Bytes :=
  let d := fld (sha256 (f.stamps.map (fun p => le 8 (toTwos 64 p))).flatten) 0 8
  s.signed 2 f.recFlags 0xFFFFFFFF st (s.pv P.trigAxis st) f.firstStamp f.lastStamp (ofTwos 64 d) f.no f.lines f.lastAt

/-- A frame whose last row has left the stages: the last group, previews, statistics, taps, FRAME_END. -/
def Dev.finishFrame (s : Dev) (st no : Nat) : Dev :=
  let s := s.flushGroup st no
  let s := s.modFrame st no (fun f => { f.statSettle f.lines (f.lines + 1) 0 with prevs := f.prevs.map (fun p => p.flush no) })
  let held : List FTap := match (s.stream st).frameNo' no with
    | some f => f.taps.filter (fun x => x.st == 0)
    | none => []
  let s := held.foldl (fun s x => s.tapDecide st no x.tap) s
  match (s.stream st).frameNo' no with
  | none => s
  | some f =>
    let s := f.prevs.foldl (fun s p =>
      let item := p.recs ++ recFrameEnd 3 p.idx { f with lines := p.lines } []
      let q := 84 + f.cfg.unit
      let before := s.pv P.qDropCount q + s.pv P.qOversizeCount q
      let s := if p.lines = 0 then s else s.qItem q item
      if s.pv P.qDropCount q + s.pv P.qOversizeCount q = before then s else s.bump P.plateSurveyDropCount p.idx 1) s
    let s := match f.stats with
      | some x => s.qItem (92 + f.cfg.unit) (recordOf 0x20 0 0 st f.no f.firstStamp (statBlock st f x))
      | none => s
    let s := f.taps.foldl (fun s x =>
      if x.st = 1 then
        let s := s.qItem (68 + x.tap) (recFrameEnd 2 x.tap { f with lines := x.lines } [])
        let tp := s.tap x.tap
        s.setTap x.tap (if tp.busy then { tp with busy := false, armed := false } else tp)
      else s) s
    let rec' := if f.legal && !s.follows (s.pv P.trigAxis st) then s.stampRecord st f else []
    let s := if f.started then
        s.modStream st (fun x => { x with
          ring := x.ring ++ [.fin no (recFrameEnd 0 st { f with lines := f.outLines } rec')] })
      else s
    let s := if s.tiled st no && decide (0 < f.outLines) then s.seqMark st true false else s
    (s.modStream st (fun x => { x with frames := x.frames.filter (fun g => g.no != no) })).webFrameFlags st no f.flags

/-- Finish the closed frames at the front whose rows are all out. -/
def Dev.settleFrames (s : Dev) (st : Nat) : Dev :=
  s.forEach (List.range (s.stream st).frames.length) (fun s _ =>
    let x := s.stream st
    match x.frames.head? with
    | none => s
    | some f =>
      if f.closed && !x.rows.any (fun r => decide (x.nextRow ≤ r.1) && r.2.info.frame == f.no) then s.finishFrame st f.no
      else s)

/-- Output every row that is ready; `atEnd` when the run has ended at its last row. -/
def Dev.drain (s : Dev) (st : Nat) (atEnd : Bool) : Dev :=
  let x := s.stream st
  match x.rows.getLast? with
  | none => s.settleFrames st
  | some (last, _) =>
    let s := s.forEach (List.range (last + 1 - x.nextRow)) (fun s _ =>
      let x := s.stream st
      let y := x.nextRow
      match x.rows.find? (fun r => r.1 == y) with
      | none => s
      | some (_, l) =>
        let cfa := match x.frameNo' l.info.frame with | some f => cfaOf f.cfg.pattern | none => cfaOf 0
        if atEnd || rowReady cfa x.runTop last y then
          let hi := if atEnd then last else Nat.max last (y + cfa.reach)
          let s := s.outRowY st y hi
          let s := s.modStream st (fun x => { x with
            nextRow := y + 1, rows := x.rows.filter (fun r => decide (y < r.1 + 6)) })
          s.settleFrames st
        else s)
    s.settleFrames st

/-- The run ends (R142): its last lines are completed at once; the next line begins a new run. -/
def Dev.endRun (s : Dev) (st : Nat) : Dev :=
  let s := s.drain st true
  let s := s.seqMark st false true
  s.modStream st (fun x => { x with rows := [], newRun := true, nextRow := x.rowY, runTop := x.rowY })

/-! ## Frame boundaries (R128, R142, R147, R178, R330, R336) -/

/-- Settings whose change at a frame boundary ends the run (R142). -/
def PlateCfg.runPart (c : PlateCfg) : List Nat :=
  [c.width, c.inBits, b2n c.blackOn, b2n c.dpcOn, c.ff, c.pattern, c.phase] ++ c.levels

/-- What happens at the boundary before frame `no` of a stream. -/
def Dev.streamBoundary (s : Dev) (st no : Nat) : Dev :=
  let before := (s.cfgOf st).runPart
  let s := s.frameWrites st no
  let x := s.stream st
  let swap := x.pendDefect.isSome || x.pendFlat.isSome
  let tabs : Tables := ⟨x.pendDefect.getD x.active.defect, x.pendFlat.getD x.active.flat⟩
  let s := s.setStream st { x with active := tabs, pendDefect := none, pendFlat := none, modes := s.modesAt x.modes no }
  let s := (s.setP P.plateDpcEntries st tabs.defect.length).setP P.plateFfEntries st tabs.flat.length
  let s := s.allocStream st (s.plateNeed st)
  let s := if swap || before != (s.cfgOf st).runPart then s.endRun st else s
  (s.slotBoundary st no).modePending

/-- The taps and previews of a new frame (R148, R149, R312, R313). -/
def Dev.framesTaps (s : Dev) (st no : Nat) : List FTap :=
  if bit (s.stream st).modes 2 then
    (List.range 16).filterMap (fun t =>
      let pt := s.pv P.plateTapPoint t
      let arm := s.pv P.duxTapArm t
      if s.pv P.plateTapStream t = st ∧ pt ≠ E.plateTapPoint.NONE ∧
          (arm ≠ 0xFFFF ∨ no % s.pv P.plateTapEvery t = 0) then
        some ⟨t, pt, s.pv P.plateTapCompress t == 1, if arm = 0xFFFF then 1 else 0, [], [], 0⟩
      else none)
  else []

def Dev.framesPrevs (s : Dev) (st no : Nat) : List FPrev :=
  if bit (s.stream st).modes 1 then
    (List.range 64).filterMap (fun v =>
      if s.pv P.plateSurveyStream v = st ∧ no % s.pv P.plateSurveyEvery v = 0 then
        some ⟨v, s.pv P.plateSurveyX0 v, s.pv P.plateSurveyWidth v, s.pv P.plateSurveyScaleX v,
          s.pv P.plateSurveyScaleY v, s.pv P.plateSurveyBits v, [], [], 0⟩
      else none)
  else []

/-- LOOP of a frame whose stream has a lane in a loop mode at this instant (R136). -/
def Dev.loopFlag (s : Dev) (st : Nat) : Nat := 256 * b2n (s.streamLoops st)

/-- Open frame `no` of a stream; its first line has stamp `stamp` and EXPSET `exp` (R154). A boundary that brings a
triggered mode under HOLD opens none (R134). -/
def Dev.openFrame (s : Dev) (st no exp : Nat) (stamp : Int) : Dev :=
  let s := s.streamBoundary st no
  let x := s.stream st
  if x.held then s
  else
    let acquire := bit x.modes 0
    let c := s.cfgOf st
    let f : Frame := {
      no := no, flags := s.loopFlag st, lines := 0, missing := 0, outLines := 0, firstStamp := stamp, lastStamp := stamp
      lastAt := s.now, exp := exp, tbFirst := s.tb, stamps := [], entered := false, legal := false, recFlags := 0
      acquire := acquire, closed := false, started := false, cfg := c, taps := s.framesTaps st no
      prevs := s.framesPrevs st no, stats := c.statStart acquire, statWait := [], group := [], prevFirst := x.prevFirst }
    let s := s.setStream st { x with frames := x.frames ++ [f], frameNo := (no + 1) % 2 ^ 32 }
    if acquire && s.tiles' st then s.tileCfg st no else s

/-- The first line of the open frame begins to enter plate memory: whether a STAMP record is due is decided (R88,
R238). -/
def Dev.lineEnters (s : Dev) (st : Nat) : Dev :=
  match (s.stream st).openFrame with
  | none => s
  | some f =>
    if f.entered then s
    else
      let legal := s.mode M.legal && f.acquire && bit (s.pv P.merStampStreams 0) st && !s.follows (s.pv P.trigAxis st)
        && !s.mer.erased
      s.modFrame st f.no (fun f => { f with
        entered := true, legal := legal, recFlags := if legal then s.streamFlags st else 0 })

/-- Close the open frame of a stream with flags added; an AREA frame is a run of its own. -/
def Dev.closeFrame (s : Dev) (st flags : Nat) : Dev :=
  match (s.stream st).openFrame with
  | none => s
  | some f =>
    let s := s.modFrame st f.no (fun f => { f with
      closed := true, flags := f.flags ||| flags ||| s.loopFlag st
      recFlags := if f.legal then f.recFlags ||| s.streamFlags st else f.recFlags })
    let s := s.modStream st (fun x => { x with prevFirst := if f.lines = 0 then x.prevFirst else some f.firstStamp })
    if f.cfg.mode = E.plateFrameMode.AREA then s.endRun st else s.drain st false

/-! ## A line enters its frame (R128, R137 to R140) -/

/-- Replacement of the columns that the defect map lists for a row (R139). -/
def Dev.fixRow (s : Dev) (st y : Nat) (c : PlateCfg) (r : Row) : Row × Nat :=
  if c.dpcOn then
    let m := (s.stream st).active.defect
    defectRow (cfaOf c.pattern).size (fun x => m.any (fun e => e % 65536 == x && (e / 65536 == 65535 || e / 65536 == y))) r
  else (r, 0)

/-- Flat field of a row: column entries, or the pixel entries of frame row `y` (R140). -/
def Dev.flatRow (s : Dev) (st y : Nat) (c : PlateCfg) (r : Row) : Row :=
  let tab := (s.stream st).active.flat
  if c.ff = E.plateFfMode.OFF ∨ tab.length ≠ c.flatEntries then r
  else
    let base := if c.ff = E.plateFfMode.PIXEL then y * c.width else 0
    (r.zip (tab.drop base)).map (fun p => flatPixel p.2 p.1)

/-- One line of input pixels enters the open frame: the stages up to flat field, then what is ready of the output. -/
def Dev.enterLine (s : Dev) (st : Nat) (info : LineMeta) (px : Row) : Dev :=
  let s := s.lineEnters st
  match (s.stream st).openFrame with
  | none => s
  | some f =>
    let c := f.cfg
    let x := s.stream st
    let area := c.mode == E.plateFrameMode.AREA
    let y := if area then f.lines else x.rowY
    let info := { info with frame := f.no, index := f.lines }
    let cfa := cfaOf c.pattern
    let s := s.tapPoint st f.no 1 16 ⟨info, [px]⟩
    let w := working c.inBits px
    let w := if c.blackOn then blackRow cfa c.phase y (fun i => c.levels.getD i 0) w else w
    let s := (s.tapPoint st f.no 2 16 ⟨info, [w]⟩).statLine st f.no 1 info [w]
    let (w, un) := s.fixRow st y c w
    let s := if un = 0 then s else s.bump P.plateDpcUnresolvedCount st un
    let s := s.tapPoint st f.no 3 16 ⟨info, [w]⟩
    let w := s.flatRow st y c w
    let s := (s.tapPoint st f.no 4 16 ⟨info, [w]⟩).statLine st f.no 2 info [w]
    let s := s.modFrame st f.no (fun f => { f with
      lines := f.lines + 1, lastStamp := info.stamp, lastAt := info.at', missing := f.missing + b2n (bit info.flags 3)
      firstStamp := if f.lines = 0 then info.stamp else f.firstStamp
      exp := if f.lines = 0 then info.exp else f.exp
      tbFirst := if f.lines = 0 then s.tb else f.tbFirst
      stamps := if f.legal then f.stamps ++ [info.stamp] else []
      flags := (if lineFlagged info.flags then setBit f.flags 7 else f.flags)
        ||| (if info.exp = f.exp ∨ f.lines = 0 then 0 else 64) ||| s.loopFlag st })
    let s := s.modStream st (fun x =>
      let top := if x.newRun || (area && f.lines == 0) then y else x.runTop
      let next := if x.newRun || (area && f.lines == 0) then y else x.nextRow
      { x with
        rows := x.rows ++ [(y, ⟨info, [w]⟩)], runTop := top, nextRow := next, newRun := false
        rowY := if area then x.rowY else x.rowY + 1 })
    s.drain st false

/-- Whether a line-scan line at a stamp leaves the open frame, on the frame grid in force (R128). -/
def Dev.leavesFrame (s : Dev) (st : Nat) (stamp : Int) : Bool :=
  let o := s.ps 64 P.plateFrameOrigin st
  let len := s.ps 64 P.plateFrameLength st
  match (s.stream st).openFrame with
  | some f => f.cfg.mode == E.plateFrameMode.POSITION && frameIndexOf o len f.lastStamp != frameIndexOf o len stamp
      && decide (0 < f.lines)
  | none => false

/-- The frame a line-scan line belongs to is opened or changed as R128 says. No frame opens under HOLD or a stop
(R134). -/
def Dev.lineOpen (s : Dev) (st exp : Nat) (stamp : Int) : Dev :=
  let s := if s.leavesFrame st stamp then s.closeFrame st 0 else s
  let x := s.stream st
  let hold := match x.holdAt with | some f => decide (f ≤ x.frameNo) | none => false
  if x.openFrame.isSome || x.ending != 0 || x.held || hold then s else s.openFrame st x.frameNo exp stamp

/-- A line-scan line enters the open frame, which ends at its height or at 65,535 lines (R128). Without an open frame
the line is discarded (R134). -/
def Dev.lineIn (s : Dev) (st : Nat) (info : LineMeta) (px : Row) : Dev :=
  let s := s.enterLine st info px
  match (s.stream st).openFrame with
  | none => s
  | some f =>
    if f.cfg.mode = E.plateFrameMode.LINES ∧ f.lines = f.cfg.height then
      s.closeFrame st (if f.lines = 65535 then 8 else 0)
    else if f.cfg.mode ≠ E.plateFrameMode.AREA ∧ 65535 ≤ f.lines then s.closeFrame st 8
    else s

/-- A line that is fill throughout (R129, R131). -/
def Dev.missingLine (s : Dev) (st : Nat) (info : LineMeta) : Dev :=
  match (s.stream st).openFrame with
  | none => s
  | some f => s.lineIn st info (List.replicate f.cfg.width f.cfg.fill)

end Sys2Proof.Machine
end

