-- ==== Sys2Proof/Machine/LigOps.lean ====
section
/-! DEFINITION. Ligature: the place of members, sampling, seams, web lines and frames, web memory (R218 to R230). -/
namespace Sys2Proof.Machine

/-! ## Members and their places (R218, R221, R223, R224) -/

/-- X_m at a head temperature; none gives `lig.t_ref` (R221, R222). -/
def Dev.ligX (s : Dev) (w m : Nat) (temp : Option Int) : Int :=
  let i := 16 * w + m
  let t := temp.getD (s.ps 16 P.ligTRef i)
  s.ps 32 P.ligXOff i + (s.ps 16 P.ligXTc i * (t - s.ps 16 P.ligTRef i) + 8).fdiv 16

/-- Columns a member of output width `n` at place `x` covers: first and last. -/
def coverOf (x : Int) (n : Nat) : Int × Int := (-((-x).fdiv 256), ((n - 1 : Nat) * 256 + x).fdiv 256)

def covers (x : Int) (n : Nat) (c : Int) : Bool :=
  let r := coverOf x n
  decide (0 < n) && decide (r.1 ≤ c) && decide (c ≤ r.2)

/-- The value of a line at column `c` (R223). -/
def sampleAt (x : Int) (row : Row) (c : Int) : Nat :=
  let p := 256 * c - x
  let i := (p.fdiv 256).toNat
  let f := (p % 256).toNat
  if f = 0 then row.getD i 0 else (row.getD i 0 * (256 - f) + row.getD (i + 1) 0 * f + 128) / 256

/-- Line number j and fraction fy of member m for web grid point g (R224). -/
def Dev.ligLine (s : Dev) (w m : Nat) (g : Int) : Int × Nat :=
  let st := s.ligSlot w m
  let pitch := s.ps 64 P.trigPitch st
  let n := g + s.ps 64 P.ligYOff (16 * w + m) - s.ps 64 P.trigOrigin st
  let j := n.fdiv pitch
  let fy := ((512 * (n - j * pitch) + pitch).fdiv (2 * pitch)).toNat
  if fy = 256 then (j + 1, 0) else (j, fy)

/-- The stamp of line j of a member. -/
def Dev.ligStamp (s : Dev) (w m : Nat) (j : Int) : Int :=
  let st := s.ligSlot w m
  wrap64 (s.ps 64 P.trigOrigin st + j * s.ps 64 P.trigPitch st)

/-! ## Whether a member line is there (R227) -/

inductive MLine where
  | here (l : WLine)
  | notFired
  | awaited
  deriving DecidableEq, Repr

/-- A line of stamp `z` still on its way through the plate. -/
def Stream.bringing (x : Stream) (z : Int) : Bool :=
  x.expect.any (fun e => e.stamp == z) || x.asm.any (fun a => a.stamp == z)
    || x.rows.any (fun r => decide (x.nextRow ≤ r.1) && r.2.info.stamp == z)
    || x.frames.any (fun f => f.group.head?.any (fun l => l.info.stamp == z))

def Dev.memberLine (s : Dev) (w m : Nat) (z : Int) : MLine :=
  let st := s.ligSlot w m
  match ((s.web w).lines.get [] m).find? (fun l => l.line.info.stamp == z) with
  | some l => .here l
  | none =>
    if (s.stream st).bringing z then .awaited
    else
      match (s.web w).fired.get none m with
      | some p => if 0 ≤ posDiff p z * s.fwd (s.pv P.trigAxis st) then .notFired else .awaited
      | none => .awaited

/-! ## Web memory (R229) -/

def Dev.ligWidthAt (s : Dev) (w : Nat) (xs : List Int) : Nat :=
  let n := s.ligCount w
  if s.pv P.ligWidth w ≠ 0 then s.pv P.ligWidth w
  else if n = 0 then 0
  else ((coverOf (xs.getD (n - 1) 0) (s.cfgOf (s.ligSlot w (n - 1))).outW).2 + 1).toNat

/-- Bytes of a web line in the ring. -/
def Dev.webLineBytes (s : Dev) (w : Nat) : Nat :=
  let c0 := s.cfgOf (s.ligSlot w 0)
  s.ligWidthAt w ((List.range (s.ligCount w)).map (fun m => s.ligX w m none)) * c0.planes * sampleBytes c0.outBits

def Dev.webNeed (s : Dev) (w : Nat) : Nat :=
  s.bufBase w (s.ligCount w) + roundUp (s.pv P.ligRingLines w * s.webLineBytes w) 4096

/-- Words of a place of the web ring. DESIGN CHOICE, entry 81. -/
def Dev.webRingSpan (s : Dev) (w slot : Nat) : Nat × Nat :=
  wordSpan (s.bufBase w (s.ligCount w) + slot * s.webLineBytes w) (s.webLineBytes w)

def Dev.allocWeb (s : Dev) (w n : Nat) : Dev := (s.setWeb w { s.web w with mem := n }).setP P.ligMemUsed w n

/-! ## Frames (R84, R226, R228) -/

/-- The seam records of a web frame. -/
def Dev.seamRecords (s : Dev) (w : Nat) (f : WFrame) : Dev :=
  if s.pv P.ligSeamRec w = 1 ∧ f.acquire = true then
    f.seams.zipIdx.foldl (fun s p =>
      let (lines, cols, sads) := p.1
      let k := p.2
      s.qItem (100 + w) (recordOf 0x21 0 1 w f.no 0
        (le 1 w ++ le 1 k ++ le 1 1 ++ le 1 0 ++ le 4 f.no ++ le 4 (toTwos 32 (f.xs.getD k 0))
          ++ le 4 (toTwos 32 (f.xs.getD (k + 1) 0)) ++ le 4 lines ++ le 4 cols
          ++ (sads.map (fun v => le 4 (Nat.min v (2 ^ 32 - 1)))).flatten ++ le 4 0))) s
  else s

/-- Flags of the member frames a web frame draws on, as they stand (R228). -/
def Dev.drawnFlags (s : Dev) (f : WFrame) : Nat :=
  f.drawn.foldl (fun a d => match (s.stream d.1).frames.find? (fun g => g.no == d.2) with
    | some g => a ||| g.flags
    | none => a) 0

/-- The web frame in progress ends with flags added. -/
def Dev.webClose (s : Dev) (w flags : Nat) : Dev :=
  match (s.web w).frame with
  | none => s
  | some f =>
    let s := s.seamRecords w f
    let x := s.web w
    let ring := if f.started then
        x.ring ++ [.fin f.no (recFrameEndOf 1 w f.no (f.flags ||| s.drawnFlags f ||| flags) f.lines f.firstStamp f.lastStamp f.exp [])]
      else x.ring
    let s := s.setWeb w { x with frame := none, ring := ring }
    if s.tiled (64 + w) f.no && decide (0 < f.lines) then s.seqMark (64 + w) true false else s

/-- What happens at the boundary before a web's next frame. -/
def Dev.webBoundary (s : Dev) (w : Nat) : Dev :=
  let no := (s.web w).frameNo
  let s := s.frameWrites (64 + w) no
  let x := s.web w
  let s := s.setWeb w { x with modes := s.modesAt x.modes no }
  let s := s.allocWeb w (s.webNeed w)
  (s.slotBoundary (64 + w) no).modePending

/-- Open the next web frame, its boundary passed; its first line has stamp `g` and EXPSET `exp`; `temps` are the heads'
temperatures. -/
def Dev.webOpen (s : Dev) (w exp : Nat) (g : Int) (temps : List (Option Int)) : Dev :=
  let no := (s.web w).frameNo
  let n := s.ligCount w
  let xs := (List.range n).map (fun m => s.ligX w m (temps.getD m none))
  let s := s.forEach (List.range n) (fun s m => s.setP P.ligXUsed (16 * w + m) (toTwos 32 (xs.getD m 0)))
  let x := s.web w
  let acq := bit x.modes 0
  let s := s.setWeb w { x with
    frame := some ⟨no, 0, 0, g, g, exp, acq, false, xs, List.replicate (n - 1) (0, 0, List.replicate 9 0), []⟩
    frameNo := (no + 1) % 2 ^ 32 }
  let s := if acq && s.tiles' (64 + w) then s.tileCfg (64 + w) no else s
  if acq && s.tiles' (64 + w) then
    { s with mer := { s.mer with webFrames := s.mer.webFrames ++ [⟨w, no, g, g, s.now, s.webFlags w⟩] } }
  else s

/-! ## Combining members (R225, R226) -/

/-- One plane of what a web line reads of a member: line j, line j + 1 and fy (R224). -/
structure MRow where
  fy : Nat
  a : Row
  b : Row
  deriving DecidableEq, Repr

/-- A member's lines for one plane: fill where the member did not fire. -/
def memberRow (pl fy fill n : Nat) (a b : Option WLine) : MRow :=
  let get := fun (l : Option WLine) => match l with
    | some l => l.line.planes.getD pl []
    | none => List.replicate n fill
  ⟨fy, get a, if fy = 0 then [] else get b⟩

/-- The value of a member at column `c`: R223 of each line, then the two combined (R224). -/
def MRow.at' (x : Int) (r : MRow) (c : Int) : Nat :=
  if r.fy = 0 then sampleAt x r.a c
  else (sampleAt x r.a c * (256 - r.fy) + sampleAt x r.b c * r.fy + 128) / 256

/-- Column S_s of a seam: given, or the middle of the overlap, (first column of s + 1) + (last column of s) + 1 halved;
the worked example's (s + 1) × 7,936 + 128 has this value. DESIGN CHOICE, entry 46. -/
def seamCol (given : Nat) (xa xb : Int) (na nb : Nat) : Int :=
  if given ≠ 0 then given else ((coverOf xb nb).1 + (coverOf xa na).2 + 1).fdiv 2

/-- The value of a web column from two members' values at it. -/
def seamBlend (ramp : Bool) (b : Nat) (sc c : Int) (va vb : Nat) : Nat :=
  if ramp && decide (sc - (b / 2 : Nat) ≤ c) && decide (c < sc + (b / 2 : Nat)) then
    let w := ((c - sc + (b / 2 : Nat)) * 256 / b).toNat
    (va * (256 - w) + vb * w + 128) / 256
  else if c < sc then va else vb

/-- One plane of a web line: members' rows, places and seams. DESIGN CHOICE, entry 46. -/
def webRow (ramp : Bool) (b fill width : Nat) (xs seams : List Int) (rows : List MRow) : Row :=
  let n := rows.length
  (List.range width).map (fun (c : Nat) =>
    let cov := fun (m : Nat) => covers (xs.getD m 0) (rows.getD m ⟨0, [], []⟩).a.length c
    let val := fun (m : Nat) => (rows.getD m ⟨0, [], []⟩).at' (xs.getD m 0) c
    if n ≤ 1 then (if cov 0 then val 0 else fill)
    else
      let k := (seams.filter (fun q => decide (q ≤ (c : Int)))).length
      let s := if k = 0 then 0 else if n - 1 ≤ k then n - 2
        else if (c : Int) - seams.getD (k - 1) 0 < seams.getD k 0 - c then k - 1 else k
      match cov s, cov (s + 1) with
      | true, true => seamBlend ramp b (seams.getD s 0) c (val s) (val (s + 1))
      | true, false => val s
      | false, true => val (s + 1)
      | false, false => fill)

/-- Sums of a seam over one line: columns and the nine SADs (R226). -/
def seamSums (xa xb : Int) (ra rb : MRow) (width : Nat) : Nat × List Nat :=
  let ts : List Int := [-4, -3, -2, -1, 0, 1, 2, 3, 4]
  let cols := (List.range width).filter (fun (c : Nat) =>
    covers xa ra.a.length c && ts.all (fun t => covers (xb + 128 * t) rb.a.length c))
  (cols.length, ts.map (fun t => (cols.map (fun (c : Nat) =>
    ((ra.at' xa c : Int) - rb.at' (xb + 128 * t) c).natAbs)).foldl (· + ·) 0))

/-- The web's line for grid point `g` from the members' lines: `ls` holds for each member fy, line j and line j + 1.
`excess`: the input exceeds what the web can accept, and the line is dropped (R230). -/
def Dev.webLine (s : Dev) (w : Nat) (g : Int) (skipped gap : Nat) (excess : Bool) (ls : List (Nat × Option WLine × Option WLine)) : Dev :=
  match (s.web w).frame with
  | none => s
  | some f =>
    let used := ls.flatMap (fun l => [some l.2.1] ++ (if l.1 = 0 then [] else [some l.2.2]))
    let got := used.filterMap (fun l => l.join)
    let hole := used.any (fun l => l.join.isNone)
    let or' := (got.map (fun l => l.line.info.flags)).foldl (· ||| ·) 0
    let flags := putBit (or' ||| (if hole then 4 else 0)) 5 (gap = 1)
    let exps := got.map (fun l => l.line.info.exp)
    let exp0 := match ls.headD (0, none, none) with | (_, some l, _) => l.line.info.exp | _ => f.exp
    let c0 := s.cfgOf (s.ligSlot w 0)
    let fill := s.pv P.ligFill w
    let width := s.ligWidthAt w f.xs
    let widths := ls.zipIdx.map (fun p => match p.1.2.1, p.1.2.2 with
      | some l, _ => (l.line.planes.headD []).length
      | none, some l => (l.line.planes.headD []).length
      | none, none => (s.cfgOf (s.ligSlot w p.2)).outW)
    let rowsOf := fun (pl : Nat) => ls.zipIdx.map (fun p => memberRow pl p.1.1 fill (widths.getD p.2 0) p.1.2.1 p.1.2.2)
    let seams := (List.range (ls.length - 1)).map (fun k =>
      seamCol (s.pv P.ligSeam (15 * w + k)) (f.xs.getD k 0) (f.xs.getD (k + 1) 0) (widths.getD k 0) (widths.getD (k + 1) 0))
    let ramp := s.pv P.ligBlend w == E.ligBlend.RAMP
    let planes := (List.range c0.planes).map (fun pl => webRow ramp (s.pv P.ligBlendPx w) fill width f.xs seams (rowsOf pl))
    let r0 := rowsOf 0
    let at' := match ls.headD (0, none, none) with | (_, some l, _) => l.line.info.at' | _ => s.now
    let x := s.web w
    let slot := x.ringNo % s.pv P.ligRingLines w
    let l : PLine := ⟨⟨f.no, f.lines, g, flags, exp0, 0, skipped, none, at', slot⟩, planes⟩
    let host := (s.chanFor (64 + w)).isSome && f.acquire
    let tile := s.tiled (64 + w) f.no
    let ring := if host && !f.started then
        x.ring ++ [.start f.no planes.length (sampleBytes c0.outBits) false width] else x.ring
    let (ring, l', dropped) := ringPut ring (if excess then 0 else s.pv P.ligRingLines w) c0.outBits fill false tile host l
    let sums := f.seams.zipIdx.map (fun p =>
      if s.pv P.ligSeamRec w = 1 ∧ l'.info.flags &&& 0x11F = 0 then
        let (n, q) := seamSums (f.xs.getD p.2 0) (f.xs.getD (p.2 + 1) 0) (r0.getD p.2 ⟨0, [], []⟩) (r0.getD (p.2 + 1) ⟨0, [], []⟩) width
        (p.1.1 + 1, n, p.1.2.2.zipWith (· + ·) q)
      else p.1)
    let mixed := exps.any (· != f.exp)
    let flags' := (got.map WLine.frameFlags).foldl (· ||| ·) (f.flags ||| (if mixed then 64 else 0))
      ||| (if lineFlagged l'.info.flags then 128 else 0)
    let drawn := (f.drawn ++ got.map (fun l => (l.from', l.line.info.frame))).eraseDups
    let stored := (host || tile) && !dropped
    let s := s.setWeb w { x with
      ring := ring, ringNo := x.ringNo + b2n stored
      frame := some { f with
        flags := flags', lines := f.lines + 1, lastStamp := g, started := f.started || host, seams := sums, drawn := drawn } }
    let s := if stored then (let p := s.webRingSpan w slot; s.rewrite (.web w) p.1 p.2) else s
    let s := if dropped then s.bump P.ligDropCount w 1 else s
    let runFirst := (s.seqn (64 + w)).lines.isEmpty || ((s.seqn (64 + w)).lines.getLast?.any SLine.runLast)
    let s := if tile then s.seqFeed (64 + w) c0.outBits l' f.lines runFirst false else s.seqMark (64 + w) false true
    { s with mer := { s.mer with webFrames := s.mer.webFrames.map (fun r =>
        if r.web == w && r.frame == f.no then { r with last := g, lastAt := at', flags := r.flags ||| s.webFlags w } else r) } }

/-- What a member line is read as when its words in the line buffer have the errors `errs`: with POISON its pixels are
fill (R253). -/
def Dev.readMember (s : Dev) (w m fill : Nat) (errs : List (Nat × Bytes)) (l : WLine) : Dev × WLine :=
  let p := s.bufSpan w m l.slot
  let (s, bad, left) := s.readRun (.web w) p.1 p.2 errs
  if bad then (s, { l with line := l.line.poisoned fill })
  else if left.isEmpty then (s, l)
  else
    let c := s.cfgOf (s.ligSlot w m)
    (s, { l with line := l.line.withErrors c.outBits left (s.bufBase w m + l.slot % s.bufLines w m * s.bufLineBytes w m) })

/-- Form the web line of the first point that waits, if every member line it needs has come, or will not (R227). The
boundary of a frame that the point begins comes first, so the members and places are those of that frame (R218, R245).
Answers whether one was formed. `errs`: errors by member, 0 or 1 for line j or j + 1, and place of the word.
DESIGN CHOICE, entry 46. -/
def Dev.webFormLine (s₀ : Dev) (w : Nat) (excess : Bool) (errs : List (Nat × Nat × Nat × Bytes)) : Dev × Bool :=
  let x := s₀.web w
  match x.points with
  | [] => (s₀, false)
  | g :: rest =>
    let leave := match x.frame with
      | some f =>
        frameIndexOf (s₀.ps 64 P.ligFrameOrigin w) (s₀.ps 64 P.ligFrameLength w) f.lastStamp
          != frameIndexOf (s₀.ps 64 P.ligFrameOrigin w) (s₀.ps 64 P.ligFrameLength w) g
      | none => false
    let s := if leave then s₀.webClose w 0 else s₀
    let opens := (s.web w).frame.isNone
    let stay := match x.holdAt with | some f => decide (f ≤ (s.web w).frameNo) | none => false
    let barred := opens && (stay || x.held || x.ending != 0)
    let s := if opens && !barred then s.webBoundary w else s
    let n := s.ligCount w
    let need := (List.range n).map (fun m =>
      let (j, fy) := s.ligLine w m g
      (fy, s.memberLine w m (s.ligStamp w m j),
        if fy = 0 then MLine.notFired else s.memberLine w m (s.ligStamp w m (j + 1))))
    if n = 0 then (s.setWeb w { s.web w with points := [], ending := 2 }, false)
    else if need.any (fun q => q.2.1 == MLine.awaited || q.2.2 == MLine.awaited) then (s₀, false)
    else
      let fill := s.pv P.ligFill w
      let get := fun (s : Dev) (m k : Nat) (l : MLine) => match l with
        | .here l =>
          let (s, l) := s.readMember w m fill ((errs.filter (fun e => e.1 == m && e.2.1 == k)).map (fun e => e.2.2)) l
          (s, some l)
        | _ => (s, none)
      let (s, ls) := need.zipIdx.foldl (fun (a : Dev × List (Nat × Option WLine × Option WLine)) q =>
        let (s, l0) := get a.1 q.2 0 q.1.2.1
        let (s, l1) := get s q.2 1 q.1.2.2
        (s, a.2 ++ [(q.1.1, l0, l1)])) (s, [])
      let first := match ls.headD (0, none, none) with | (_, some l, _) => some l.line.info | _ => none
      let exp := match first with | some i => i.exp | none => (match x.frame with | some f => f.exp | none => 0)
      let y := s.web w
      let s := s.setWeb w { y with
        points := rest
        lines := (List.range n).foldl (fun (ls : FMap (List WLine)) m =>
          let z := s.ligStamp w m (s.ligLine w m g).1
          let f := s.fwd (s.pv P.trigAxis (s.ligSlot w m))
          ls.set [] m ((ls.get [] m).filter (fun l => decide (0 ≤ posDiff l.line.info.stamp z * f)))) y.lines }
      if barred then (if stay && x.ending == 0 then s.setWeb w { s.web w with ending := 3 } else s, true)
      else
        let temps := ls.map (fun l => match l.2.1 with | some l => l.line.info.temp | none => none)
        let s := if (s.web w).frame.isNone then s.webOpen w exp g temps else s
        let s := s.webLine w g (match first with | some i => i.skipped | none => 0)
          (match first with | some i => b2n (bit i.flags 5) | none => 0) excess ls
        match (s.web w).frame with
        | some f => (if 65535 ≤ f.lines then s.webClose w 8 else s, true)
        | none => (s, true)

/-- The run of web lines ends. -/
def Dev.webRunEnd (s : Dev) (w flag : Nat) : Dev := (s.webClose w flag).seqMark (64 + w) false true

/-- Form the next web line; with the last point that a cleared HOLD waited for the frame ends, with HELD (R134, R228).
DESIGN CHOICE, entry 32. -/
def Dev.webForm (s : Dev) (w : Nat) (excess : Bool) (errs : List (Nat × Nat × Nat × Bytes)) : Dev × Bool :=
  match s.webFormLine w excess errs with
  | (s, false) => (s, false)
  | (s, true) =>
    let n := (s.web w).toHold
    let s := s.setWeb w { s.web w with toHold := n - 1 }
    (if n = 1 then s.webRunEnd w 16 else s, true)

/-- Form every web line that can be formed. -/
def Dev.webDrain (s : Dev) (w : Nat) : Dev :=
  s.forEach (List.range (s.web w).points.length) (fun s _ => (s.webForm w false []).1)

/-- The web stops with STOPPED on its frame (R220, R332). -/
def Dev.webHalt (s : Dev) (w : Nat) : Dev :=
  if (s.web w).running then
    let s := (s.webDrain w).webRunEnd w 32
    let x := s.web w
    let s := s.setWeb w { x with
      running := false, held := false, ending := 0, holdAt := none, points := [], lines := .empty, fired := .empty
      toHold := 0 }
    let s := ((s.setP P.ligState w E.ligState.STOPPED).allocWeb w 0).switchAll.modePending
    let s := if s.pv P.ligSeamRec w = 1 then s.qFlush (100 + w) else s
    let s := if s.tiles' (64 + w) then s.qFlush (64 + w) else s
    s.wake (fun q => match q with | .webs m => bit m w | _ => false) (fun s m =>
      match (s.mb m).wait with
      | .webs mask => if (bitsOf 4 mask).any (fun i => (s.web i).running) then s else s.done m
      | _ => s)
  else s

/-- A web whose HOLD or stop waited for its points has formed the last of them (R134, R228). -/
def Dev.webEndNow (s : Dev) (w : Nat) : Dev :=
  let x := s.web w
  if x.ending ≠ 0 ∧ x.points.isEmpty = true then
    (if x.ending = 2 then s.webHalt w
     else
       let s := s.webRunEnd w (if x.ending = 3 then 0 else 16)
       let s := s.setWeb w { s.web w with held := true, ending := 0, holdAt := none, toHold := 0 }
       (s.setP P.ligState w E.ligState.HELD).modePending)
  else s

end Sys2Proof.Machine
end

