-- ==== Sys2Proof/Machine/RxOps.lean ====
section
/-! DEFINITION. Receiving packets and forming lines: the checks of a packet, the line a packet belongs to, assembly,
AREA frames, the end of a frame by HOLD or a stop (R18, R21, R114 to R120, R124, R128 to R134, R154). -/
namespace Sys2Proof.Machine

/-! ## The checks of a packet (R114, R115, R119) -/

/-- A packet from a head: given as it comes, or the next that the codewords have brought. -/
def Dev.nextPkt (s : Dev) (h : Nat) (given : Option Bytes) : Option Bytes :=
  match given with
  | some b => some b
  | none => (s.head h).arrived.head?

/-- Under NES and NEP only the emulator's packets arrive, the balls being ignored (R123, R124). -/
def Dev.emulated (s : Dev) (h : Nat) (p : Pkt) : Bool :=
  let loop := s.loopOf h
  if loop = E.laneLoop.NES ∨ loop = E.laneLoop.NEP then
    p.ty == 0x01 && s.pv P.lanePattern h == E.lanePattern.PACKETS && decide (p.chan < s.pv P.laneEmuChannels h)
      && fld p.f 14 1 == 12 && decide (fld p.f 8 4 + p.len ≤ ceilDiv (12 * s.pv P.laneEmuWidth h) 8)
      && p.pay == (List.range p.len).map (fun i => BitVec.ofNat 8 ((fld p.f 8 4 + i + fld p.f 4 4) % 256))
  else true

/-- A packet of type `ty` from a head: discarded with a bad HCRC; counted with a bad CRC-32C; a SEQ discontinuity of
its channel is counted. A link that is not UP carries HEAD_INFO only. -/
def Dev.rxPkt (s : Dev) (h ty : Nat) (pkt : Option Bytes) (k : Dev → Pkt → Dev) : Dev :=
  match s.nextPkt h pkt with
  | none => s
  | some b =>
  let p := parsePkt b
  let hears := (s.linkUp h && s.emulated h p) || (ty == 0x41 && (s.lane h).phase == phIdent)
  let mine := p.ty == ty
  let s := if pkt.isNone && mine then s.setHead h { s.head h with arrived := (s.head h).arrived.drop 1 } else s
  let s := if hears then s.modLanes h (fun x => { x with sleepSeen := 0 }) else s
  if !hears || !p.hdrOk || (pkt.isNone && !mine) then s
  else if !p.crcOk then s.bump P.headCrcErrCount h 1
  else if !mine then s
  else
    let s := match (s.head h).seqs.get none p.chan with
      | some e => if e = p.seq then s else s.bump P.headSeqGapCount h 1
      | none => s
    let x := s.head h
    k (s.setHead h { x with seqs := x.seqs.set none p.chan (some ((p.seq + 1) % 256)) }) p

/-- Fields of bytes 4–18. -/
def Pkt.frame (p : Pkt) : Nat := fld p.f 0 4
def Pkt.line (p : Pkt) : Nat := fld p.f 4 4
def Pkt.offset (p : Pkt) : Nat := fld p.f 8 4
def Pkt.expset (p : Pkt) : Nat := fld p.f 12 2
def Pkt.format (p : Pkt) : Nat := fld p.f 14 1

/-- A packet of a channel that is bound goes to its stream; another is discarded and counted (R18). -/
def Dev.onStream (s : Dev) (h : Nat) (p : Pkt) (k : Dev → Nat → Dev) : Dev :=
  match s.streamOn h p.chan with
  | none => s.bump P.headUnboundCount h 1
  | some st => k s st

/-! ## Values of the frame a line begins (R330) -/

/-- The value of a FRAME parameter that the next frame of a stream will run on. -/
def Dev.dueValue (s : Dev) (st id : Nat) : Nat :=
  let no := (s.stream st).frameNo
  let due := s.writes.filter (fun w => w.owner == st && w.id == id && w.inst == st
    && (match w.frame with | none => true | some f => decide (f ≤ no)))
  match due.getLast? with | some w => w.value | none => s.pv id st

/-! ## Completing a line (R129, R130, R154) -/

/-- Whether the byte at a line offset was received, and what it is. -/
def Asm.byteAt (a : Asm) (i : Nat) : Option Byte :=
  match a.pieces.find? (fun p => decide (p.1 ≤ i) && decide (i < p.1 + p.2.length)) with
  | some p => p.2[i - p.1]?
  | none => none

/-- Bytes of a line of a packing. -/
def lineLen (width bits' packing : Nat) : Nat := if packing = 1 then 2 * width else ceilDiv (width * bits') 8

/-- The pixels of a line with every pixel that misses a byte replaced by fill; `left` is what is left of the errors its
words were read with. -/
def Asm.pixels (a : Asm) (c : PlateCfg) (left : List (Nat × Bytes)) : Row :=
  let n := lineLen c.width c.inBits a.packing
  let got := (List.range n).map (fun i => (a.byteAt i).map (fun b => b ^^^ residue left (a.slot * c.inBytes % 32) i))
  let raw := unpackRow c.inBits a.packing c.width (got.map (fun b => b.getD 0))
  let have' := fun (x : Nat) =>
    let lo := if a.packing = 1 then 2 * x else x * c.inBits / 8
    let hi := if a.packing = 1 then 2 * x + 1 else (x * c.inBits + c.inBits - 1) / 8
    ((got.drop lo).take (hi + 1 - lo)).all Option.isSome
  raw.zipIdx.map (fun p => if have' p.2 then p.1 % 2 ^ c.inBits else c.fill)

/-- Flags SHORT, LONG and HOLE of a line of `n` bytes, and its bytes beyond the width. -/
def Asm.lineFlags (a : Asm) (n : Nat) : Nat × Nat :=
  let ends := a.pieces.map (fun p => p.1 + p.2.length)
  let top := ends.foldl Nat.max 0
  let hole := (List.range (Nat.min top n)).any (fun i => (a.byteAt i).isNone)
  let surplus := (a.pieces.map (fun p => p.1 + p.2.length - Nat.max n p.1)).foldl (· + ·) 0
  (b2n (decide (top < n)) + 2 * b2n (decide (n < top)) + 4 * b2n hole, surplus)

/-- An AREA frame's lines up to index `k` that were not received are formed MISSING, with the stamp of the line
before. DESIGN CHOICE, entry 38. -/
def Dev.fillArea (s : Dev) (st k : Nat) : Dev :=
  match (s.stream st).openFrame with
  | none => s
  | some f =>
    s.forEach (List.range (k - f.lines)) (fun s _ =>
      let x := s.stream st
      let id := match x.areaExp with | some e => e.trigId | none => 0
      s.missingLine st ⟨0, 0, x.lastStamp, 8, x.lastExp, id, 0, (s.head (s.headOf st)).temp,
        (match x.areaExp with | some e => e.target | none => f.lastAt), 0⟩)

/-- A line that a cleared HOLD waited for has come or timed out; with the last of them the frame ends, with HELD (R134).
DESIGN CHOICE, entry 32. -/
def Dev.heldLine (s : Dev) (st : Nat) : Dev :=
  let n := (s.stream st).toHold
  if n = 0 ∨ (s.stream st).openFrame.any (fun f => f.cfg.mode == E.plateFrameMode.AREA) then s
  else
    let s := s.modStream st (fun x => { x with toHold := n - 1 })
    if n = 1 then (s.closeFrame st 16).endRun st else s

/-- Exposure sets of a stream not yet seen in a line; the last is `plate.expset.pending` (R154). -/
def Dev.setSets (s : Dev) (st : Nat) (l : List Nat) : Dev :=
  (s.modStream st (fun x => { x with sets := l })).setP P.plateExpsetPending st (l.getLast?.getD 0)

/-- A line carries set `id`: it and the sets sent before it are no longer pending. DESIGN CHOICE, entry 27. -/
def Dev.expSeen (s : Dev) (st id : Nat) : Dev :=
  let l := (s.stream st).sets
  if l.contains id then s.setSets st (l.reverse.takeWhile (· != id)).reverse else s

/-- The line in assembly ends: filled, flagged, through the stages. DESIGN CHOICE, entry 37. -/
def Dev.finishLine (s : Dev) (st : Nat) : Dev :=
  match (s.stream st).asm with
  | none => s
  | some a =>
    let s := (s.setP P.plateExpsetActive st a.exp).expSeen st a.exp
    let s := match (s.stream st).openFrame with
      | none => s
      | some f =>
        let s := if f.cfg.mode = E.plateFrameMode.AREA then s.fillArea st a.line else s
        let (fl, surplus) := a.lineFlags (lineLen f.cfg.width f.cfg.inBits a.packing)
        let s := if surplus = 0 then s else s.bump P.plateTruncBytes st surplus
        let w := f.cfg.asmSpan a.slot
        let (s, bad, left) := s.readRun (.stream st) w.1 w.2 a.errs
        s.lineIn st ⟨0, 0, a.stamp, a.flags ||| fl ||| 256 * b2n bad, a.exp, a.trigId, a.skipped, a.temp, a.at', 0⟩
          (if bad then List.replicate f.cfg.width f.cfg.fill else a.pixels f.cfg left)
    (s.modStream st (fun x => { x with asm := none, lastExp := a.exp, lastStamp := a.stamp })).heldLine st

/-! ## AREA frames (R129) -/

/-- The AREA frame in progress closes with a count of lines. DESIGN CHOICE, entry 38. -/
def Dev.completeArea (s : Dev) (st : Nat) (count : Option Nat) (flags : Nat) : Dev :=
  let s := s.finishLine st
  match (s.stream st).openFrame with
  | none => s
  | some f =>
    let n := count.getD (f.lines - f.missing)
    let s := s.fillArea st f.cfg.height
    let held := 16 * b2n (decide (0 < (s.stream st).toHold))
    let s := s.modStream st (fun x => { x with toHold := 0 })
    s.closeFrame st (flags ||| held ||| b2n (decide (n < f.cfg.height)))

/-! ## The end of a frame by HOLD or a stop (R134, R142, R265) -/

/-- The queues that a stopped stream produces into are flushed, after its last frame: commit output, taps, previews,
statistics (R265, with the words before it in 09_memory_and_queues.md). DESIGN CHOICE, entry 49. -/
def Dev.flushOwn (s : Dev) (st : Nat) : Dev :=
  let u := s.pv P.plateUnit st
  let s := if s.tiles' st then s.qFlush st else s
  let s := s.forEach (List.range 16) (fun s t =>
    if s.pv P.plateTapStream t = st ∧ s.pv P.plateTapPoint t ≠ E.plateTapPoint.NONE then s.qFlush (68 + t) else s)
  let s := if (List.range 64).any (fun v => s.pv P.plateSurveyStream v == st) then s.qFlush (84 + u) else s
  if s.pv P.plateStatsPoint st = E.plateStatsPoint.OFF then s else s.qFlush (92 + u)

/-- A stream has stopped. -/
def Dev.stopped (s : Dev) (st : Nat) : Dev :=
  let s := s.endRun st
  let s := s.modStream st (fun x => { x with
    running := false, held := false, ending := 0, holdAt := none, asm := none, expect := [], areaExp := none
    toHold := 0 })
  let s := (s.plateState st E.plateState.STOPPED).allocStream st 0
  let s := (s.setTrig st .reset).flushOwn st
  let s := (s.forEach (List.range 4) (fun s w => if (s.webMembers w).contains st then s.webHalt w else s)).switchAll.modePending
  s.wake (fun w => match w with | .streams m => bit m st | _ => false) (fun s m =>
    match (s.mb m).wait with
    | .streams mask => if (bitsOf 64 mask).any (fun i => (s.stream i).running) then s else s.done m
    | _ => s)

/-- The frame in progress ends, with a frame flag. -/
def Dev.endFrame (s : Dev) (st flag : Nat) : Dev :=
  match (s.stream st).openFrame with
  | none => s
  | some f =>
    if f.cfg.mode = E.plateFrameMode.AREA then s.completeArea st none flag
    else (s.finishLine st).closeFrame st flag

/-- What a HOLD or a stop has waited for has come: the frame ends, the stream is HELD or STOPPED; a web whose slot 0
holds takes the hold with it. A hold at frame F ends frame F - 1 without HELD (R345). -/
def Dev.endNow (s : Dev) (st : Nat) : Dev :=
  let x := s.stream st
  if x.ending = 2 then (s.endFrame st 32).stopped st
  else
    let s := (s.endFrame st (if x.ending = 3 then 0 else 16)).endRun st
    let s := s.modStream st (fun x => { x with held := true, ending := 0, holdAt := none, areaExp := none, toHold := 0 })
    let s := s.forEach (List.range 4) (fun s w =>
      if (s.web w).running && s.ligSlot w 0 == st && (s.web w).ending == 0 && !(s.web w).held then
        ((s.setWeb w { s.web w with ending := 1 }).webDrain w).webEndNow w
      else s)
    (s.plateState st E.plateState.HELD).modePending

/-- A line whose trigger was sent is still due: it has neither arrived nor timed out (R131, R134). An AREA frame has no
line timeout of its own; it is waited for as long as its trigger's line would be. -/
def Dev.linesDue (s : Dev) (st : Nat) : Bool :=
  let x := s.stream st
  let lim := us (s.pv P.plateLineTimeoutUs st)
  match x.openFrame with
  | some f =>
    if f.cfg.mode = E.plateFrameMode.AREA then
      (x.areaExp.toList ++ x.expect).any (fun e => decide (s.now < e.target + lim))
    else !x.expect.isEmpty || x.asm.isSome
  | none =>
    if s.pv P.plateFrameMode st = E.plateFrameMode.AREA then x.expect.any (fun e => decide (s.now < e.target + lim))
    else !x.expect.isEmpty || x.asm.isSome

end Sys2Proof.Machine
end

