-- ==== Sys2Proof/Machine/TileOps.lean ====
section
/-! DEFINITION. Tiles: the footprint check, cutting, the items of a sequence, compute domain resets (R162 to R164, R190 to
R201, R215, R216). -/
namespace Sys2Proof.Machine

/-! ## Geometry (R163, R190, R191) -/

/-- Core size: the parameter, or the container's; 0 in both is the whole width, or one line. -/
def coreW (par : Nat) (p : Prog) (width : Nat) : Nat :=
  if par ≠ 0 then par else if p.tileW ≠ 0 then p.tileW else width
def coreH (par : Nat) (p : Prog) : Nat := if par ≠ 0 then par else if p.tileH ≠ 0 then p.tileH else 1

def rowPitch (cw mx sb : Nat) : Nat := roundUp ((cw + 2 * mx) * sb) 64

/-- Bytes of an input buffer. -/
def inputBytes (cw ch mx my sb planes : Nat) : Nat :=
  planes * (rowPitch cw mx sb * (ch + 2 * my)) + 16 * (ch + 2 * my)

/-- Output width, planes and bits of a sequence. -/
def Dev.seqShape (s : Dev) (q : Nat) : Nat × Nat × Nat :=
  if q < 64 then
    let c := s.cfgOf q
    (c.outW, c.planes, c.outBits)
  else
    let w := q - 64
    let c := s.cfgOf (s.ligSlot w 0)
    let xs := (List.range (s.ligCount w)).map (fun m => s.ligX w m none)
    (s.ligWidthAt w xs, c.planes, c.outBits)

/-- The state with every write that waits for a frame boundary in force, on which a batch or a load is judged. -/
def Dev.asWritten (s : Dev) : Dev :=
  { s with frc := s.writes.foldl (fun m w =>
      m.set (pdef (pkey w.id w.inst w.word)) (pkey w.id w.inst w.word) w.value) s.frc }

/-- Whether a full-size tile of a sequence fits 128 KiB with a program (R191). -/
def Dev.fitsWith (s : Dev) (q : Nat) (p : Prog) : Bool :=
  let (width, planes, bits') := s.seqShape q
  let cw := coreW (s.pv P.ephTileW q) p width
  let ch := coreH (s.pv P.ephTileH q) p
  decide (inputBytes cw ch p.marginX p.marginY (sampleBytes bits') planes ≤ 131072)

/-- The same with every program of its slot, in force or loaded. -/
def Dev.fits (s : Dev) (q : Nat) : Bool :=
  let k := s.slot (s.seqSlot q)
  let ps := k.active.toList ++ k.mid.map Prod.fst ++ (k.pending.map Prod.fst).toList
  !s.tiles' q || ps.all (s.fitsWith q)

/-! ## The lines of a tile (R164, R192) -/

/-- Lines that stand above index `i` in the same run, or in the same AREA frame. -/
def linesAbove (ls : List SLine) : Nat → Nat
  | 0 => 0
  | i + 1 =>
    match ls[i + 1]? with
    | some l => if l.runFirst || (l.area && l.frameFirst) then 0 else 1 + linesAbove ls i
    | none => 0

/-- Lines that follow index `i`, up to `n`, and whether the run, or the AREA frame, ends within them. -/
def linesBelow (ls : List SLine) (i : Nat) : Nat → Nat × Bool
  | 0 => (0, false)
  | n + 1 =>
    match ls[i]? with
    | none => (0, false)
    | some l =>
      if l.runLast || (l.area && l.frameLast) then (0, true)
      else
        match ls[i + 1]? with
        | none => (0, false)
        | some _ => let r := linesBelow ls (i + 1) n; (r.1 + 1, r.2)

/-- Core lines of the band that begins at index `i`: at most `h`, up to the frame's last. -/
def bandLines (ls : List SLine) (i : Nat) : Nat → Nat
  | 0 => 0
  | h + 1 =>
    match ls[i]? with
    | none => 0
    | some l => if l.frameLast then 1 else 1 + bandLines ls (i + 1) h

/-- The column a column position reads (R142, R164): the nearest same-phase one inside, or the nearest one. -/
def marginCol (p width : Nat) (x : Int) : Nat :=
  match substitute p 0 (width - 1) x with
  | some c => c
  | none => if x < 0 then 0 else width - 1

/-- One input row: a plane's samples for columns `x0 - mx` on, padded to the pitch. -/
def tileRow (row : Row) (p sb x0 cw mx : Nat) : Bytes :=
  let n := cw + 2 * mx
  slice ((List.range n).flatMap (fun i => le sb (row.getD (marginCol p row.length ((x0 + i : Nat) - (mx : Int))) 0))) 0
    (rowPitch cw mx sb)

/-- The fill value of a sequence's output. -/
def Dev.seqFill (s : Dev) (q : Nat) : Nat := if q < 64 then (s.cfgOf q).outFill else s.pv P.ligFill (q - 64)

def ringPoison (fill frame index : Nat) (r : List RingItem) : List RingItem :=
  r.map (fun i => match i with
    | .line l b c x y => if l.info.frame = frame ∧ l.info.index = index then .line (l.poisoned fill) b c x y else i
    | _ => i)

/-- Change the ring of a sequence. -/
def Dev.modRing (s : Dev) (q : Nat) (f : List RingItem → List RingItem) : Dev :=
  if q < 64 then s.modStream q (fun x => { x with ring := f x.ring })
  else s.setWeb (q - 64) { s.web (q - 64) with ring := f (s.web (q - 64)).ring }

/-- A word of a line in a sequence's ring is uncorrectable: the line is fill for every reader. -/
def Dev.poisonLine (s : Dev) (q frame index : Nat) : Dev :=
  let fill := s.seqFill q
  let x := s.seqn q
  let s := s.setSeqn q { x with lines := x.lines.map (fun l =>
    if l.line.info.frame = frame ∧ l.line.info.index = index then { l with line := l.line.poisoned fill } else l) }
  s.modRing q (ringPoison fill frame index)

/-- Lines that Ephemeris keeps no longer are free in the ring. -/
def Dev.freeLines (s : Dev) (q : Nat) (gone : List SLine) : Dev :=
  let drop := fun (l : PLine) => gone.any (fun g => g.line.info.frame == l.info.frame && g.line.info.index == l.info.index)
  let host := (s.chanFor q).isSome
  s.modRing q (fun r => pruneRing host (r.map (fun i => match i with
    | .line l b c _ y => if drop l then .line l b c false y else i
    | _ => i)))

/-! ## Cutting (R162, R163, R192 to R195) -/

/-- The period of R142 for a sequence. -/
def Dev.seqPeriod (s : Dev) (q : Nat) : Nat :=
  (cfaOf (s.pv P.plateCfaPattern (if q < 64 then q else s.ligSlot (q - 64) 0))).size

/-- The descriptor. DESIGN CHOICE, entry 43. -/
def tileDesc (q seq planes sb frame y0 x0 cw ch mx my edge exp : Nat) (stamp : Int) (args : List Nat) : Bytes :=
  let pitch := rowPitch cw mx sb
  let plane := pitch * (ch + 2 * my)
  le 4 seq ++ le 1 (seqKind q) ++ le 1 (seqIndex q) ++ le 1 planes ++ le 1 sb ++ le 4 frame ++ le 4 y0 ++ le 4 x0
    ++ le 2 cw ++ le 2 ch ++ le 2 mx ++ le 2 my ++ le 4 pitch ++ le 4 plane ++ le 4 (planes * plane) ++ le 2 edge ++ le 2 exp
    ++ le 4 0 ++ le 8 (toTwos 64 stamp) ++ le 8 0 ++ (args.map (le 4)).flatten ++ le 128 0

/-- An entry of the line table. -/
def lineEntry (m : LineMeta) : Bytes := le 8 (toTwos 64 m.stamp) ++ le 2 m.flags ++ le 2 m.exp ++ le 4 m.index

/-- A wait for a slot or a footprint is counted once (R195). -/
def Dev.stall (s : Dev) (q id : Nat) : Dev :=
  let x := s.seqn q
  if x.stalled then s else (s.setSeqn q { x with stalled := true }).bump id 0 1

/-- The band is done: the lines no tile reads again leave, the frame's settings with its last line. -/
def Dev.bandDone (s : Dev) (q frame n : Nat) (frameLast runLast : Bool) : Dev :=
  let x := s.seqn q
  let pos := x.pos + n
  let keep := if runLast then 0 else Nat.min 32 pos
  let gone := x.lines.take (pos - keep)
  let s := s.setSeqn q { x with
    lines := x.lines.drop (pos - keep), pos := keep, col := 0
    cfgs := if frameLast then x.cfgs.filter (fun c => c.frame != frame) else x.cfgs }
  let s := s.freeLines q gone
  if frameLast then s.switchAll else s

/-- The lowest run of `n` Folio pages that no tile holds (R194, R247). DESIGN CHOICE, entry 81. -/
def Dev.folioFit (s : Dev) (n : Nat) : Option Nat :=
  let ok := fun (c : Nat) => decide (c + n ≤ 256 * s.folioMib)
    && s.tiles.all (fun t => decide (t.page0 + t.pages ≤ c) || decide (c + n ≤ t.page0))
  ((0 :: s.tiles.map (fun t => t.page0 + t.pages)).filter ok).foldl
    (fun m c => match m with | some b => some (Nat.min b c) | none => some c) none

/-- A line of a sequence read from its ring, with the errors of its words: with POISON it is fill for every reader
(R250 to R253). -/
def Dev.readLine (s : Dev) (q bits' : Nat) (l : PLine) (errs : List (Nat × Bytes)) : Dev × PLine :=
  if bit l.info.flags 4 then (s, l)
  else
    let (h, a, n, base) :=
      if q < 64 then
        let c := s.cfgOf q
        (Holder.stream q, (c.ringSpan l.info.slot).1, (c.ringSpan l.info.slot).2, 8 * c.inBytes + l.info.slot * c.outBytes)
      else
        let w := q - 64
        (Holder.web w, (s.webRingSpan w l.info.slot).1, (s.webRingSpan w l.info.slot).2,
          s.bufBase w (s.ligCount w) + l.info.slot * s.webLineBytes w)
    let (s, bad, left) := s.readRun h a n errs
    if bad then (s.poisonLine q l.info.frame l.info.index, l.poisoned (s.seqFill q))
    else if left.isEmpty then (s, l)
    else (s, l.withErrors bits' left base)

/-- Cut the next tile of a sequence if its lines, a slot and its footprint are there. `errs`: errors with which words of
the lines are read, by the row of the tile and the word's place in the line. A band whose lines are all there is cut once
it is known whether its last line ends the frame or the run, on which EDGE and FRAME_DONE depend.
DESIGN CHOICE, entry 43. -/
def Dev.cutTile (s : Dev) (q : Nat) (errs : List (Nat × Nat × Bytes)) : Dev :=
  let x := s.seqn q
  match x.lines[x.pos]? with
  | none => s
  | some l0 =>
    let frame := l0.line.info.frame
    match x.cfgs.find? (fun c => c.frame == frame) with
    | none => s
    | some cfg =>
      match cfg.prog.or (s.slot cfg.slot).active with
      | none => s
      | some p =>
        let width := (l0.line.planes.headD []).length
        let sb := sampleBytes l0.bits
        let planes := l0.line.planes.length
        let h := coreH cfg.tileH p
        let ch := bandLines x.lines x.pos h
        let lastIx := x.pos + ch - 1
        let last := x.lines.getD lastIx l0
        let (below, ends) := linesBelow x.lines lastIx p.marginY
        let whole := decide (ch = h) || last.frameLast
        let known := last.frameLast || decide (lastIx + 1 < x.lines.length)
        if !whole || !known || !(decide (p.marginY ≤ below) || ends) then s
        else
          let cw := Nat.min (coreW cfg.tileW p width) (width - x.col)
          let pages := ceilDiv (256 + inputBytes cw ch p.marginX p.marginY sb planes) 4096
          if 1024 ≤ s.tiles.length then s.stall q P.ephSlotStallCount
          else match s.folioFit pages with
          | none => s.stall q P.ephFolioStallCount
          | some page0 =>
            let above := Nat.min p.marginY (linesAbove x.lines x.pos)
            let ix := fun (r : Nat) =>
              let i : Int := (x.pos + r : Nat) - (p.marginY : Int)
              if i < (x.pos - above : Nat) then x.pos - above
              else if i.toNat ≤ lastIx + below then i.toNat else lastIx + below
            let n := ch + 2 * p.marginY
            let (s, rows) := (List.range n).foldl (fun (a : Dev × List SLine) r =>
              let l := ((a.1.seqn q).lines).getD (ix r) l0
              let (s, m) := a.1.readLine q l.bits l.line ((errs.filter (fun e => e.1 == r)).map Prod.snd)
              (s, a.2 ++ [{ l with line := m }])) (s, [])
            let ls := (s.seqn q).lines
            let per := s.seqPeriod q
            let input := ((List.range planes).map (fun pl =>
                (rows.map (fun r => tileRow (r.line.planes.getD pl []) per sb x.col cw p.marginX)).flatten)).flatten
              ++ (rows.map (fun r => lineEntry r.line.info)).flatten
            let edge := b2n (decide (x.col < p.marginX)) + 2 * b2n (decide (width < x.col + cw + p.marginX))
              + 4 * b2n (decide (above < p.marginY)) + 8 * b2n (decide (below < p.marginY))
              + 16 * b2n l0.frameFirst + 32 * b2n last.frameLast
            let core := (ls.drop x.pos).take ch
            let info := (core.headD l0).line.info
            let y0 := (core.headD l0).row
            let seq := s.pv P.ephNextSeq q
            let done := decide (width ≤ x.col + cw)
            let t : Tile := {
              no := s.tileNo, q := q, seq := seq, slot := cfg.slot, load := cfg.load, frame := frame
              x0 := x.col, y0 := y0, coreW := cw, coreH := ch, stamp0 := info.stamp
              stamps := core.map (fun l => l.line.info.stamp), budget := cfg.budget
              desc := tileDesc q seq planes sb frame y0 x.col cw ch p.marginX p.marginY edge info.exp info.stamp
                cfg.args
              input := input, pages := pages, page0 := page0, st := .waiting, since := s.now, failed := [], replays := 0, result := none
              dropped := rows.any (fun r => bit r.line.info.flags 4), poison := rows.any (fun r => bit r.line.info.flags 8)
              lastOfFrame := last.frameLast && done, released := 0 }
            let y := s.seqn q
            let s := s.setSeqn q { y with
              col := x.col + cw, stalled := false
              frames := if y.frames.any (fun f => f.1 == frame) then y.frames else y.frames ++ [(frame, seq)] }
            let s := { s with tiles := s.tiles ++ [t], tileNo := s.tileNo + 1 }
            let s := (s.setP P.ephNextSeq q ((seq + 1) % 2 ^ 32)).countTiles
            let s := s.rewrite .folio (128 * page0) (ceilDiv (256 + input.length) 32)
            let s := if done then s.bandDone q frame ch last.frameLast last.runLast else s
            s.noNibGaps

/-! ## Items of a sequence (R198 to R201, R216) -/

/-- The tile leaves Ephemeris: its slot, footprint and grants are free. -/
def Dev.dropTile (s : Dev) (no : Nat) : Dev :=
  { s.ungrant (fun g => g.tile == no) with tiles := s.tiles.filter (fun t => t.no != no) }.countTiles

/-- Records of a sequence that wait for room in its queue go in, oldest first (R258). -/
def Dev.flushLate (s : Dev) (q : Nat) : Dev :=
  s.forEach (List.range (s.seqn q).late.length) (fun s _ =>
    match (s.seqn q).late with
    | [] => s
    | r :: l =>
      if s.qTakes q (ceilDiv r.length 32) then (s.setSeqn q { s.seqn q with late := l }).qItem q r else s)

/-- A record of a sequence goes into its queue, or waits until there is room for it: a RESERVE producer finds none full
in the middle of an item (R258, R261). -/
def Dev.seqItem (s : Dev) (q : Nat) (r : Bytes) : Dev := (s.setSeqn q { s.seqn q with late := (s.seqn q).late ++ [r] }).flushLate q

/-- FRAME_DONE of a frame whose tiles are all settled. -/
def Dev.frameDone (s : Dev) (q frame lastSeq : Nat) : Dev :=
  let x := s.seqn q
  match x.frames.find? (fun f => f.1 == frame) with
  | none => s
  | some f =>
    let s := s.setSeqn q { x with frames := x.frames.filter (fun g => g.1 != frame) }
    let s := s.seqItem q (recFrameDone q frame f.2 lastSeq)
    let s := if 64 ≤ q then s.webFrameDone (q - 64) frame else s
    if s.isRegSeq q then s.edgeFrameDone frame else s

/-- A GAP record takes the lost tiles' place. -/
def Dev.writeGap (s : Dev) (q first count cause firstFrame lastFrame : Nat) : Dev :=
  let s := (s.bump P.ephGapCount q count).fireAsync 93
  let s := s.seqItem q (recGap q first count cause firstFrame lastFrame s.tb)
  s.progress.setP P.ephCommitSeq q ((first + count) % 2 ^ 32)

/-- What follows a tile that is settled. -/
def Dev.settled (s : Dev) (t : Tile) : Dev :=
  let s := s.dropTile t.no
  let s := if t.lastOfFrame then s.frameDone t.q t.frame t.seq else s
  s.settleReplay.switchAll

/-- The RESULT record of a settled tile (R198, R200, R201). -/
def Tile.record (t : Tile) (r : TileResult) : Bytes :=
  let st := commitStatus r.outcome t.dropped t.poison r.status t.replays
  if r.outcome = outDone then recResult t st r.image r.recs else recResult t st [] []

/-- Words of a record from word `i` on go to the queue; `n` is how many are written, the last one marked when it is the
record's end. -/
def Dev.qWords (s : Dev) (q : Nat) (item : Bytes) (i n : Nat) : Dev :=
  let all := ceilDiv item.length 32
  s.forEach (List.range n) (fun s k => s.qWrite q (slice item (32 * (i + k)) 32) (i + k + 1 == all) all)

/-- Words of a record already in the queue under CUTTHRU. -/
def Tile.sent (t : Tile) : Nat := if t.released = 0 then 0 else 2 + t.released / 32

/-- Commit a completed tile. -/
def Dev.commitTile (s : Dev) (t : Tile) (r : TileResult) : Dev :=
  let item := t.record r
  let s := s.qWords t.q item t.sent (ceilDiv item.length 32 - t.sent)
  let s := if r.outcome = outDone then s else s.bump P.ephFaultCommitCount t.q 1
  let s := if s.isRegSeq t.q && r.outcome == outDone then
      r.wouts.foldl (fun s w => s.edgeValue t.frame w.1 w.2) s else s
  (s.progress.setP P.ephCommitSeq t.q ((t.seq + 1) % 2 ^ 32)).settled t

/-- Words of the RESULT record that a sequence's next settlement still has to write; 0 for a gap, whose record may wait. -/
def Tile.words (t : Tile) : Nat :=
  match t.st, t.result with
  | .done, some r => ceilDiv (t.record r).length 32 - t.sent
  | _, _ => 0

/-! ## The compute domain (R215, R216) -/

/-- SEQ values of the rest of a frame whose cutting a reset ended; none while its extent is not known. -/
def Dev.restTiles (s : Dev) (q frame : Nat) : Option Nat :=
  let x := s.seqn q
  let ls := x.lines.drop x.pos
  match ls.findIdx? (fun l => l.frameLast && l.line.info.frame == frame), x.cfgs.find? (fun c => c.frame == frame), ls.head? with
  | some n, some cfg, some l0 =>
    match cfg.prog.or (s.slot cfg.slot).active with
    | none => some 0
    | some p =>
      let width := (l0.line.planes.headD []).length
      let cw := coreW cfg.tileW p width
      let per := ceilDiv width cw
      some (ceilDiv (n + 1) (coreH cfg.tileH p) * per - ceilDiv x.col cw)
  | _, _, _ => none

/-- The lines of a frame whose rest is lost leave. -/
def Dev.skipFrame (s : Dev) (q frame : Nat) : Dev :=
  let x := s.seqn q
  let ls := x.lines.drop x.pos
  match ls.findIdx? (fun l => l.frameLast && l.line.info.frame == frame) with
  | none => s
  | some n => s.bandDone q frame (n + 1) true ((ls.getD n ⟨⟨groupInfo [], []⟩, 8, true, true, true, true, false, 0⟩).runLast)

/-- A sequence's gap of a domain reset, once the extent is known (R216). DESIGN CHOICE, entry 44. -/
def Dev.domainGap (s : Dev) (q : Nat) (g : GapDue) : Dev :=
  let n := match g.rest with | some f => s.restTiles q f | none => some 0
  match n with
  | none => s
  | some n =>
    let next := s.pv P.ephNextSeq q
    let count := (next + 2 ^ 32 - g.first) % 2 ^ 32 + n
    let lastF := g.rest.getD g.lastFrame
    let s := match g.rest with | some f => s.skipFrame q f | none => s
    let s := s.setSeqn q { s.seqn q with gap := none }
    let s := s.setP P.ephNextSeq q ((next + n) % 2 ^ 32)
    let s := s.writeGap q g.first count 3 g.firstFrame lastF
    let fs := (s.seqn q).frames
    fs.zipIdx.foldl (fun s f =>
      let last := match fs[f.2 + 1]? with | some g => (g.2 + 2 ^ 32 - 1) % 2 ^ 32 | none => (g.first + count + 2 ^ 32 - 1) % 2 ^ 32
      s.frameDone q f.1.1 last) s

/-- The compute domain resets: tiles are lost, nibs reload, gaps are due (R215, R216). DESIGN CHOICE, entry 44. -/
def Dev.resetDomain (s : Dev) : Dev :=
  let lost := s.tiles
  let s := lost.foldl Dev.revoke s
  let s := s.forEach (List.range 68) (fun s q =>
    let mine := lost.filter (fun t => t.q == q)
    let x := s.seqn q
    let cutting := match x.cfgs.head? with
      | some c => if x.frames.any (fun f => f.1 == c.frame) then some c.frame else none
      | none => none
    let first := s.pv P.ephCommitSeq q
    if mine.isEmpty && cutting.isNone then s
    else
      let f0 := match mine.head? with | some t => t.frame | none => cutting.getD 0
      let f1 := match mine.getLast? with | some t => t.frame | none => f0
      if x.gap.isSome then s else s.setSeqn q { x with gap := some ⟨first, f0, f1, cutting⟩ })
  let s := { s with tiles := [], ledger := [] }
  let s := s.countTiles.putModeBit M.replay false
  let s := s.forEach (List.range 96) (fun s n =>
    if s.nibSt n = E.nibState.FENCED then s
    else
      let s := s.setNib n { s.nib n with bufA := none, bufB := none, running := false, reload := true }
      s.startReload n)
  let s := (s.bump P.ephDomainResetCount 0 1).setP P.ephState 0 E.ephState.RUNNING
  s.progress.switchAll

end Sys2Proof.Machine
end

