-- ==== Sys2Proof/Machine/Ephemeris.lean ====
section
/-! DEFINITION. Ephemeris: cutting, dispatch, commit, cut-through, progress, compute domain reset, Folio size,
PROGRAM_LOAD (R24, R178, R190 to R217, R325). -/
namespace Sys2Proof.Machine

/-- Ephemeris cuts the next tile of a sequence (R192 to R195); not while the domain resets, nor before the frame
boundary that follows a reset. -/
def runTileCut (q : Fin 68) (errs : List (Nat × Nat × Bytes)) (t : Nat) (s : Dev) : Dev :=
  let s := s.at' t
  if s.pv P.ephState 0 = E.ephState.RUNNING ∧ (s.seqn q).gap.isNone = true then (s.cutTile q errs) else s

/-- Whether a tile is of the registered program (R83). -/
def Dev.isRegTile (s : Dev) (t : Tile) : Bool :=
  s.isRegSeq t.q || (s.regQuad.isSome && s.regSlots.contains t.slot
    && (List.range 4).all (fun i => s.pv P.nibSlotDigest (4 * t.slot + i) == s.pv P.merQuadDigest i))

/-- Whether nib `n` is eligible for a tile: it holds the tile's load, and it is of the registered quad for a tile of the
registered web or program (R83, R179). -/
def Dev.eligible (s : Dev) (n : Nat) (t : Tile) : Bool := s.nibTakes n t.slot t.load && (!s.isRegTile t || s.inRegQuad n)

/-- The same, and a buffer of it is free. -/
def Dev.mayTake (s : Dev) (n : Nat) (t : Tile) : Bool := s.eligible n t && (s.nib n).freeBuf

/-- Whether the tile goes to nib `n` now: while an eligible nib has not failed it, it goes to such a one (R206). -/
def Dev.goesTo (s : Dev) (n : Nat) (t : Tile) : Bool :=
  s.mayTake n t &&
    (!t.failed.contains n || !(List.range 96).any (fun m => !t.failed.contains m && s.eligible m t))

/-- Words of the largest result of a program; where results leave early, with room for a REVOKE record (R209, R213,
R258). -/
def Dev.resultWords (s : Dev) (q : Nat) (p : Prog) : Nat :=
  2 + ceilDiv p.imageMax 32 + 2 * p.recordMax + (if s.qCutNow q = 0 then 0 else 2)

/-- A tile's descriptor and input buffer as they are copied from Folio: none with a bad word in the descriptor; the
pixels of a row with a bad word, its line table entry included, are fill and the entry has POISON (R196).
DESIGN CHOICE, entry 43. -/
def Dev.readTile (s : Dev) (t : Tile) (errD errIn : List (Nat × Bytes)) : Dev × Option (Bytes × Bytes × Bool) :=
  let w0 := 128 * t.page0
  let (s, bad, left) := s.readRun .folio w0 8 errD
  if bad then (s, none)
  else
    let (s, bad, left') := s.readRun .folio (w0 + 8) (ceilDiv t.input.length 32) errIn
    let input := withErrors left' 0 t.input
    let desc := withErrors left 0 t.desc
    if !bad then (s, some (desc, input, false))
    else
      let fill := s.seqFill t.q
      let planes := fld t.desc 6 1
      let sb := fld t.desc 7 1
      let pitch := fld t.desc 28 4
      let plane := fld t.desc 32 4
      let tab := fld t.desc 36 4
      let width := fld t.desc 20 2 + 2 * fld t.desc 24 2
      let hit := fun (a n : Nat) => (List.range (wordSpan a n).2).any (fun i =>
        let p := s.wordOf .folio (w0 + 8 + (wordSpan a n).1 + i)
        s.poison.get false (bankKey p.1 p.2))
      let row := slice ((List.range width).flatMap (fun _ => le sb fill)) 0 pitch
      let put := fun (m : Bytes) (a : Nat) (d : Bytes) => m.take a ++ d ++ m.drop (a + d.length)
      let input := (List.range (plane / pitch)).foldl (fun m r =>
        if hit (tab + 16 * r) 16 || (List.range planes).any (fun pl => hit (pl * plane + r * pitch) pitch) then
          let m := (List.range planes).foldl (fun m pl => put m (pl * plane + r * pitch) row) m
          put m (tab + 16 * r + 8) (le 2 (setBit (fld m (tab + 16 * r + 8) 2) 8))
        else m) input
      (s, some (desc, input, true))

/-- Ephemeris copies the next tile of a slot into a nib's free buffer: replays first, then in the order cut (R196, R197,
R206, R209, R258). `errD`, `errIn`: errors with which words of the
descriptor and of the input are read, by their place in it. -/
def runTileDispatch (slot : Fin 32) (nib : Fin 96) (errD errIn : List (Nat × Bytes)) (t : Nat) (s : Dev) : Dev :=
  let s := s.at' t
  let n := nib.val
  let mine := s.tiles.filter (fun t => t.slot == slot.val && t.waits)
  let tile := (mine.filter Tile.replaying ++ mine).head?
  match tile, (s.nib n).prog with
  | some t, some p =>
    let words := Nat.min (s.resultWords t.q p) (s.qLimit t.q)
    if s.pv P.ephState 0 ≠ E.ephState.RUNNING ∨ s.goesTo n t = false ∨ s.qFree t.q < s.reservedOn t.q + words then s
    else
      match s.readTile t errD errIn with
      | (s, none) => s.gapTile t.no 4
      | (s, some (desc, input, poison)) =>
        let replay := decide (t.st = .replay)
        let s := if replay then s.bump P.ephReplayCount t.q 1 else s
        let s := s.modTile t.no (fun t => { t with
          st := .inNib n, replays := if replay then t.replays + 1 else t.replays, poison := t.poison || poison })
        let x := s.nib n
        let s := s.setNib n (if x.bufA.isNone then { x with bufA := some t.no, descA := desc, inA := input, sentA := s.now }
          else { x with bufB := some t.no, descB := desc, inB := input, sentB := s.now })
        let s := [(0, 1), (1, p.imageMax + 32 * p.recordMax), (2, words), (3, 2)].foldl
          (fun s g => s.grant ⟨n, g.1, g.2, t.no⟩) s
        s.progress
  | _, _ => s

/-- The earliest tile of a sequence not yet settled, if it is next to commit. -/
def Dev.headTile (s : Dev) (q : Nat) : Option Tile :=
  s.tiles.find? (fun t => t.q == q && t.seq == s.pv P.ephCommitSeq q)

/-- The words of a result are copied to staging, in the private region, with the errors `errs`: place in the result,
word of the region, pattern. Whether POISON came, and what is left of the errors (R205, R250). DESIGN CHOICE, entry 81. -/
def Dev.readStaging (s : Dev) (errs : List (Nat × Fin 524288 × Bytes)) : Dev × Bool × List (Nat × Bytes) :=
  errs.foldl (fun (a : Dev × Bool × List (Nat × Bytes)) e =>
    match a.1.readPriv e.2.1 e.2.2 with
    | (s, none) => (s, true, a.2.2)
    | (s, some r) => (s, a.2.1, if r.all (· == 0) then a.2.2 else a.2.2 ++ [(e.1, r)])) (s, false, [])

/-- RESULT_POISON: the tile's grants end, it is replayed (R205, R213). -/
def Dev.resultPoison (s : Dev) (t : Tile) : Dev := (s.ungrant (fun g => g.tile == t.no)).placeReplay t.no 255

/-- The next tile of a sequence commits, or its gap is reported, once its result fits the queue; a result that no queue of
its size can hold is written all the same and refused OVERSIZE (R198 to R201, R205, R216, R262). Nothing commits while
the domain resets. `errs`: see `readStaging`. -/
def runTileCommit (q : Fin 68) (errs : List (Nat × Fin 524288 × Bytes)) (t : Nat) (s : Dev) : Dev :=
  let s := (s.at' t).flushLate q
  if !(s.seqn q).late.isEmpty || s.pv P.ephState 0 != E.ephState.RUNNING then s
  else
    match (s.seqn q).gap with
    | some g => s.domainGap q g
    | none =>
      match s.headTile q with
      | none => s
      | some t =>
        if !s.qTakes q t.words then s
        else
          match t.st, t.result with
          | .gap c, _ => ((s.writeGap q t.seq 1 c t.frame t.frame).settled t)
          | .done, some r =>
            let (s, bad, left) := s.readStaging errs
            if bad && r.outcome == outDone then s.resultPoison t
            else s.commitTile t { r with image := withErrors left 0 r.image }
          | _, _ => s

/-- Under CUTTHRU the first `bytes` of the image of the tile that is next to commit go out, whole words only, behind the
record header and the result header that R296 puts before them; an uncorrectable word revokes what has gone out and
replays the tile (R212, R213, R339). DESIGN CHOICE, entry 44. -/
def runCutthruCopy (q : Fin 68) (bytes : Nat) (errs : List (Nat × Fin 524288 × Bytes)) (t : Nat) (s : Dev) : Dev :=
  let s := (s.at' t).flushLate q
  match s.headTile q with
  | none => s
  | some t =>
    match t.st, t.result with
    | .done, some r =>
      if (t.released = 0 ∧ s.qCutNow q = 0) ∨ r.outcome ≠ outDone ∨ (s.seqn q).late.isEmpty = false
          ∨ s.pv P.ephState 0 ≠ E.ephState.RUNNING then s
      else
        let (s, bad, _) := s.readStaging errs
        if bad then s.resultPoison t
        else
          let n := bytes / 32 * 32
          if n ≤ t.released ∨ r.image.length < n then s
          else
            let new := 2 + n / 32
            if s.qFree q < new - t.sent then s
            else
              let s := s.qWords q (t.record r) t.sent (new - t.sent)
              (s.modTile t.no (fun t => { t with released := n }))
    | _, _ => s

/-- Whether Ephemeris lacks progress (R215): for 1 ms a tile has waited for which an eligible nib has stood PARKED or IDLE
with a free buffer, or a completed tile with no earlier one of its sequence in a nib or waiting. -/
def Dev.noProgress (s : Dev) : Bool :=
  let long := fun (i : Nat) => decide (i + ms 1 ≤ s.now)
  let idle := fun (t : Tile) => (List.range 96).any (fun n => s.mayTake n t && !(s.nib n).halted && long (s.nib n).idleSince
    && (s.nibSt n == E.nibState.PARKED || s.nibSt n == E.nibState.IDLE))
  let before := fun (t : Tile) => s.tiles.any (fun u => u.q == t.q && decide (u.no < t.no)
    && (u.waits || (match u.st with | .inNib _ => true | _ => false)))
  s.tiles.any (fun t => long t.since && ((t.waits && idle t) || (decide (t.st = .done) && !before t)))

/-- 1 ms without progress: cutting stops and the compute domain is to reset (R215). -/
def runNoProgressTimeout (t : Nat) (s : Dev) : Dev :=
  let s := s.at' t
  if s.pv P.ephState 0 = E.ephState.RUNNING ∧ s.ephAt + ms 1 ≤ s.now ∧ s.noProgress = true then
    (((s.setP P.ephState 0 E.ephState.RESETTING).fireAsync 94).raise0 305)
  else s

/-- The compute domain resets: after a lack of progress, or at once where Ephemeris reports an uncorrectable error in
its own state, which this command also stands for (R215, R253). Commands on nibs and slots that have not committed end
with ABORTED (R326). -/
def runDomainReset (t : Nat) (s : Dev) : Dev :=
  let s := s.at' t
  let s := if s.pv P.ephState 0 = E.ephState.RUNNING then
      (s.fireAsync 94).raise0 305 else s
  let s := s.resetDomain
  (s.forEach (List.range 21) (fun s m =>
    let b := s.mb m
    if b.st = .queued ∧ ((b.request m).op = 0x0041 ∨ (b.request m).op = 0x0042) then s.fail m C.aborted else s))

/-- A Folio size that waits takes effect once no tile is in flight (R24). -/
def runFolioResize (s : Dev) : Dev :=
  if s.tiles.isEmpty then { s with folioMib := s.pv P.ephFolioMib 0 } else s

/-! ## PROGRAM_LOAD (R83, R176 to R178, R191, R325, R382) -/

/-- A container read for a command: the bytes, or the status it fails with; none while it waits for an item. -/
inductive Source where
  | bytes (b : Bytes)
  | code (c : Nat)
  | wait
  deriving DecidableEq, Repr

/-- The next item of Q(104 + i), taken whole (R325). -/
def Dev.takeItem (s : Dev) (i : Nat) (errs : List (Nat × Bytes)) : Dev × Source :=
  let q := 104 + i
  let x := s.queue q
  if x.tornDue then ((s.qRead q []).1, .code C.sourceError)
  else
    match x.words.findIdx? QWord.last with
    | none => (s, .wait)
    | some n =>
      let (s, ws) := (List.range (n + 1)).foldl (fun (a : Dev × List QWord) i =>
        let (s, w) := a.1.qRead q (errOf errs i)
        (s, a.2 ++ w.toList)) (s, [])
      if ws.any (fun w => w.poison || w.torn) then (s, .code C.sourceError)
      else (s, .bytes (ws.flatMap QWord.data))

/-- HOSTBUF, QUEUE or STORE: `n` bytes of a container (R325, R409); `errs`: errors with which words of a queue's item are
read. DESIGN CHOICE, entry 14. -/
def Dev.source (s : Dev) (src i n : Nat) (host : Option Bytes) (errs : List (Nat × Bytes)) : Dev × Source :=
  if src = 0 then
    match host with
    | none => (s, .code C.busError)
    | some b => (s, .bytes (slice b 0 n))
  else if src = 1 then
    match s.takeItem i errs with
    | (s, .bytes b) => if b.length = roundUp n 32 then (s, .bytes (slice b 0 n)) else (s, .code C.sourceError)
    | r => r
  else if s.pv P.almStoreState i = E.almStoreState.VALID ∧ s.alm.storeLen.get 0 i = n then
    (s, .bytes ((List.range n).map (fun a => ((s.alm.store.get .empty i).get none a).getD 0)))
  else (s, .code C.sourceError)

/-- Load a container into a slot: it takes effect at the next frame boundary of each stream and web bound to the slot, or
from frame F. A load that is on its way and has taken effect nowhere is replaced; one that some of them run stays theirs
until they reach the new one's boundary (R178). -/
def Dev.loadSlot (s : Dev) (k : Nat) (p : Prog) (frame : Option Nat) : Dev :=
  let x := s.slot k
  let mid := match x.pending with
    | some (old, _) => if x.passed.isEmpty then x.mid else x.mid ++ [(old, x.passed)]
    | none => x.mid
  (s.putSlot k { x with pending := some (p, frame), passed := [], mid := mid }).trySwitch k

def runProgramLoad (mb : Fin 21) (host : Option Bytes) (errs : List (Nat × Bytes)) (s : Dev) : Dev :=
  s.cmd mb 0x0041 (fun s r =>
    let k := fld r.pay 0 1
    let src := fld r.pay 1 1
    let i := fld r.pay 2 1
    let atF := fld r.pay 3 1
    let frame := fld r.pay 4 4
    let n := fld r.pay 16 4
    if 31 < k ∨ 2 < src ∨ 1 < atF ∨ (src = 1 ∧ 15 < i) ∨ (src = 2 ∧ 63 < i) then s.fail mb C.badValue
    else
      match s.source src i n host errs with
      | (s, .wait) => s
      | (s, .code c) => s.fail mb c
      | (s, .bytes b) =>
        match parseProg b with
        | none => s.fail mb C.badProgram
        | some p =>
          let bound := (List.range 68).filter (fun q => s.seqSlot q == k)
          let begun := bound.any (fun q => s.seqRunning q
            && decide (frame < (if q < 64 then (s.stream q).frameNo else (s.web (q - 64)).frameNo)))
          if !s.progSigOk p then s.fail mb C.badSignature
          else if s.sealClosed && s.quadRegistered && s.regSlots.contains k && p.digest != s.regDigest then
            s.fail mb C.isSealed
          else if bound.any (fun q => !s.fitsWith q p || !s.asWritten.fitsWith q p) then s.fail mb C.badValue
          else if atF = 1 ∧ begun then s.fail mb C.late
          else (s.loadSlot k p (if atF = 1 then some frame else none)).done mb)

/-! ## The commands -/

/-- TILE_CUT. -/
def execTileCut (q : Fin 68) (errs : List (Nat × Nat × Bytes)) (t : Nat) (s : State) : Out := s.onDev (runTileCut q errs t)

/-- TILE_DISPATCH. -/
def execTileDispatch (slot : Fin 32) (nib : Fin 96) (desc input : List (Nat × Bytes)) (t : Nat) (s : State) : Out :=
  s.onDev (runTileDispatch slot nib desc input t)

/-- TILE_COMMIT. -/
def execTileCommit (q : Fin 68) (errs : List (Nat × Fin 524288 × Bytes)) (t : Nat) (s : State) : Out :=
  s.onDev (runTileCommit q errs t)

/-- CUTTHRU_COPY. -/
def execCutthruCopy (q : Fin 68) (bytes : Nat) (errs : List (Nat × Fin 524288 × Bytes)) (t : Nat) (s : State) : Out :=
  s.onDev (runCutthruCopy q bytes errs t)

/-- NO_PROGRESS_TIMEOUT. -/
def execNoProgressTimeout (t : Nat) (s : State) : Out := s.onDev (runNoProgressTimeout t)

/-- DOMAIN_RESET. -/
def execDomainReset (t : Nat) (s : State) : Out := s.onDev (runDomainReset t)

/-- FOLIO_RESIZE. -/
def execFolioResize (s : State) : Out := s.onDev (runFolioResize)

/-- PROGRAM_LOAD. -/
def execProgramLoad (mb : Fin 21) (given : Option Bytes × List (Nat × Bytes)) (s : State) : Out :=
  s.onDev (runProgramLoad mb given.1 given.2)

end Sys2Proof.Machine
end

