-- ==== Sys2Proof/Machine/Plate.lean ====
section
/-! DEFINITION. The plate's commands: pixel packets, AREA frames, line timeouts, HOLD and stops, starting streams,
exposure sets, head registers, tables, held taps (R18, R21, R113, R116 to R122, R126 to R156, R312, R332). -/
namespace Sys2Proof.Machine

/-! ## PIXEL (R18, R113, R116, R119, R120, R128 to R132) -/

/-- A line that a trigger expected before the present one never came: it is formed MISSING (R131). -/
def Dev.missed (s : Dev) (st : Nat) (e : Expect) : Dev :=
  let exp := (s.stream st).lastExp
  let s := s.lineOpen st exp e.stamp
  let s := s.missingLine st ⟨0, 0, e.stamp, 8 + 32 * b2n (decide (0 < e.skipped)) + 64 * b2n e.late, exp, e.trigId, e.skipped,
    (s.head (s.headOf st)).temp, e.target, 0⟩
  (s.modStream st (fun x => { x with lastStamp := e.stamp })).heldLine st

/-- The trigger that exposed a line, by TAG, with the expectations before and after it. -/
def matchTag (l : List Expect) (tag : Nat) : Option (List Expect × Expect × List Expect) :=
  match l.findIdx? (fun e => e.trigId % 65536 == tag) with
  | none => none
  | some i =>
    match l[i]? with
    | some e => some (l.take i, e, l.drop (i + 1))
    | none => none

/-- Where a line that begins stands: its stamp, TRIG_ID, SKIPPED, flags GAP and TRIG_LATE, and uptime of exposure. -/
structure Begin where
  stamp : Int
  trigId : Nat
  skipped : Nat
  flags : Nat
  at' : Nat
  deriving DecidableEq, Repr

def Expect.begin' (e : Expect) : Begin :=
  ⟨e.stamp, e.trigId, e.skipped, 32 * b2n (decide (0 < e.skipped)) + 64 * b2n e.late, e.target⟩

/-- The packet's line has a place: the trigger of its TAG, or the position at this instant for a free-running line; a
TAG of no expected trigger is counted and the packet discarded (R21, R131). DESIGN CHOICE, entry 37. -/
def Dev.placeLine (s : Dev) (st tag : Nat) (area : Bool) : Dev × Option Begin :=
  let x := s.stream st
  let mode := s.pv P.trigMode st
  let here : Begin := ⟨s.axisPos (s.pv P.trigAxis st) s.now, 0, 0, 0, s.now⟩
  if mode = E.trigMode.FREE then (s, some here)
  else
    let again := match x.areaExp with | some e => area && e.trigId % 65536 == tag | none => false
    if again then (s, x.areaExp.map Expect.begin')
    else
      match matchTag x.expect tag with
      | some (before, e, after) =>
        let s := s.setStream st { x with expect := after, areaExp := if area then some e else none }
        let s := if trigExpects mode && !area then before.foldl (fun s e => s.missed st e) s else s
        (s, some e.begin')
      | none =>
        if trigExpects mode then (s.bump P.plateMissingCount st 1, none) else (s, some here)

/-- Flag LINE_JUMP and the count of lines skipped, in FREE and TIME mode (R132). -/
def Dev.lineJump (s : Dev) (st line : Nat) : Dev × Nat :=
  let gap := match (s.stream st).lastLine with
    | some l => (line + 2 ^ 33 - l - 1) % 2 ^ 32
    | none => 0
  if trigExpects (s.pv P.trigMode st) ∨ gap = 0 then (s, 0) else (s.bump P.plateLineGapCount st gap, 512)

/-- The first packet of a line: what stood in assembly ends, the line finds its place and its frame.
DESIGN CHOICE, entry 37. -/
def Dev.beginLine (s : Dev) (st : Nat) (p : Pkt) (area : Bool) : Dev :=
  let s := s.finishLine st
  let (s, at') := s.placeLine st p.tag area
  match at' with
  | none => s
  | some b =>
    let (s, jump) := if area then (s, 0) else s.lineJump st p.line
    let s := if area then s else s.lineOpen st p.expset b.stamp
    let s := s.lineEnters st
    let slot := (s.stream st).asmNo % 8
    let w := (match (s.stream st).openFrame with | some f => f.cfg | none => s.cfgOf st).asmSpan slot
    (s.modStream st (fun x => { x with
      lastLine := some p.line, asmNo := x.asmNo + 1
      asm := some ⟨p.frame, p.line, p.tag, b.stamp, [], p.expset, b.flags ||| jump, b.trigId, b.skipped, p.format / 32,
        (s.head (s.headOf st)).temp, b.at', slot, []⟩ })).rewrite (.stream st) w.1 w.2

/-- The packet's bytes enter the line in assembly; LAST ends it. The line takes the errors its words are read with. -/
def Dev.putBytes (s : Dev) (st h : Nat) (p : Pkt) (errs : List (Nat × Bytes)) : Dev :=
  match (s.stream st).asm with
  | none => s
  | some a =>
    let s := if p.headLate && !bit a.flags 7 then s.bump P.headLateExposureCount h 1 else s
    let fl := a.flags ||| 128 * b2n p.headLate
    let s := s.modStream st (fun x => { x with asm := some { a with
      pieces := a.pieces ++ [(p.offset, p.pay)], flags := fl, errs := a.errs ++ errs } })
    if p.last then s.finishLine st else s

/-- Whether the packet belongs to the line in assembly. -/
def Asm.takes (a : Asm) (p : Pkt) : Bool := a.frame == p.frame && a.line == p.line && a.tag == p.tag

/-- A PIXEL packet of a running stream. The packet that begins a line of a LINES or POSITION stream is held against the
configuration of the frame its line falls into (R128, R330). -/
def Dev.pixelIn (s : Dev) (h st : Nat) (p : Pkt) (errs : List (Nat × Bytes)) : Dev :=
  let x := s.stream st
  let fresh := x.openFrame.isNone
  let value := fun (id : Nat) => if fresh then s.dueValue st id else s.pv id st
  let area := value P.plateFrameMode == E.plateFrameMode.AREA
  let goes := x.asm.any (fun a => a.takes p)
  let wrong := fun (area : Bool) (bits : Nat) => p.lineScan == area || p.format % 32 != bits || decide (1 < p.format / 32)
  let next := s.beginLine st p false
  if !goes && !area && p.lineScan then
    let bad := match (next.stream st).asm, (next.stream st).openFrame with
      | some _, some f => wrong (f.cfg.mode == E.plateFrameMode.AREA) f.cfg.inBits
      | _, _ => wrong area (value P.plateInBits)
    if bad then s.bump P.plateFormatErrCount st 1 else next.putBytes st h p errs
  else if wrong area (value P.plateInBits) then s.bump P.plateFormatErrCount st 1
  else if goes then s.putBytes st h p errs
  else if area then
    match x.openFrame with
    | none => s
    | some f =>
      if f.no ≠ p.frame then s
      else if f.cfg.height ≤ p.line then
        (if x.lastLine = some p.line then s
         else
           let s := (s.finishLine st).bump P.plateLongCount st 1
           let s := s.modFrame st f.no (fun f => { f with flags := setBit f.flags 1 })
           s.modStream st (fun x => { x with lastLine := some p.line }))
      else if p.line < f.lines then s
      else (s.beginLine st p true).putBytes st h p errs
  else s

/-- A PIXEL packet is checked and its bytes placed into its stream's line. `errs`: errors with which words of the line
are read from the assembly buffer, by their place in the line (R250). DESIGN CHOICE, entry 37. -/
def runPixel (h : Fin 32) (pkt : Option Bytes) (errs : List (Nat × Bytes)) (t : Nat) (s : Dev) : Dev :=
  ((s.at' t).rxPkt h 0x01 pkt (fun s p =>
    s.onStream h p (fun s st =>
      if (s.stream st).running then s.pixelIn h st p errs else s)))

/-! ## AREA frames (R129) -/

/-- The flag of a frame that ends while a HOLD or a stop waits for its lines (R134, R345). -/
def Stream.endFlag (x : Stream) : Nat := if x.ending = 1 then 16 else if x.ending = 2 then 32 else 0

/-- FRAME_START: a frame in progress closes with the lines received; the new one opens, unless HOLD or a stop keeps new
frames from beginning. DESIGN CHOICE, entry 38. -/
def Dev.areaStart (s : Dev) (st : Nat) (p : Pkt) : Dev :=
  let x := s.stream st
  if x.openFrame.any (fun f => f.no == p.frame && f.cfg.mode == E.plateFrameMode.AREA) then s
  else
    let s := if x.openFrame.any (fun f => f.cfg.mode == E.plateFrameMode.AREA) then s.completeArea st none x.endFlag else s
    let s := s.modStream st (fun x => { x with areaExp := none, lastLine := none })
    let x := s.stream st
    let hold := match x.holdAt with | some f => decide (f ≤ p.frame) | none => false
    if x.openFrame.isSome || x.held || x.ending != 0 || hold || s.dueValue st P.plateFrameMode != E.plateFrameMode.AREA then s
    else s.openFrame st p.frame p.expset x.lastStamp

def runFrameStart (h : Fin 32) (pkt : Option Bytes) (t : Nat) (s : Dev) : Dev :=
  ((s.at' t).rxPkt h 0x02 pkt (fun s p => s.onStream h p (fun s st =>
    if (s.stream st).running then s.areaStart st p else s)))

/-- FRAME_END: the AREA frame of that number closes with LINE_COUNT. -/
def runFrameEnd (h : Fin 32) (pkt : Option Bytes) (t : Nat) (s : Dev) : Dev :=
  ((s.at' t).rxPkt h 0x03 pkt (fun s p => s.onStream h p (fun s st =>
    let x := s.stream st
    if x.running && x.openFrame.any (fun f => f.no == p.frame && f.cfg.mode == E.plateFrameMode.AREA) then
      s.completeArea st (some p.line) x.endFlag
    else s)))

/-! ## Timeouts and ends (R131, R134) -/

/-- The line of a fired trigger has not begun `plate.line_timeout_us` after its target: it is formed MISSING. -/
def runLineTimeout (st : Fin 64) (t : Nat) (s : Dev) : Dev :=
  let s := s.at' t
  let x := s.stream st
  match x.expect with
  | e :: rest =>
    if x.running = true ∧ trigExpects (s.pv P.trigMode st) = true ∧ s.pv P.plateFrameMode st ≠ E.plateFrameMode.AREA
        ∧ e.target + us (s.pv P.plateLineTimeoutUs st) ≤ s.now then
      let s := s.finishLine st
      ((s.modStream st (fun x => { x with expect := rest })).missed st e)
    else s
  | [] => s

/-- A HOLD or a stop of a POSITION- or INPUT-triggered stream ends its frame once every line whose trigger was sent has
come or timed out (R134). -/
def runHeldFrameEnd (st : Fin 64) (t : Nat) (s : Dev) : Dev :=
  let s := s.at' t
  let x := s.stream st
  if x.running = true ∧ x.ending ≠ 0 ∧ s.linesDue st = false then (s.endNow st) else s

/-! ## STREAM_START and STREAM_STOP (R46, R127, R191, R265, R332) -/

/-- The checks of a stream's plate parameters: a crop inside the line whose width the column scale divides (R144), a
PIXEL table on an AREA stream only (R140), a full-size tile within 128 KiB (R191). -/
def Dev.startOk (s : Dev) (st : Nat) : Bool :=
  let c := s.cfgOf st
  let w := if c.cropW = 0 then c.width - c.cropX else c.cropW
  decide (c.cropX < c.width) && decide (c.cropX + w ≤ c.width) && w % c.sx == 0
    && (c.ff != E.plateFfMode.PIXEL || (c.mode == E.plateFrameMode.AREA && decide (c.width * c.height ≤ 4194304)))
    && s.fits st

/-- A sequence starts at SEQ 0; what its last run left in flight is discarded. DESIGN CHOICE, entry 43. -/
def Dev.startSeq (s : Dev) (q : Nat) : Dev :=
  let old := s.tiles.filter (fun t => t.q == q)
  let s := old.foldl (fun s t =>
    let s := match t.st with
      | .inNib n => s.setNib n { (s.nib n).drop t.no with running := (s.nib n).running && (s.nib n).cur != some t.no }
      | _ => s
    s.dropTile t.no) s
  let s := s.setSeqn q { Seqn.reset with hold := (s.seqn q).hold }
  let s := (s.setP P.ephNextSeq q 0).setP P.ephCommitSeq q 0
  let s := { s with slots := s.slots.mapVal .reset (fun _ k => { k with
      passed := k.passed.filter (· != q), mid := k.mid.map (fun (m : Prog × List Nat) => (m.1, m.2.filter (· != q))) }) }
  s.settleReplay

/-- A stream begins to run. -/
def Dev.startStream (s : Dev) (st : Nat) : Dev :=
  let s := s.startSeq st
  let x := s.stream st
  let held := s.mode M.hold && trigExpects (s.pv P.trigMode st)
  let s := s.setStream st { Stream.reset with
    running := true, held := held, active := x.active, pendDefect := x.pendDefect, pendFlat := x.pendFlat
    lastExp := x.lastExp, sets := x.sets
    modes := s.pv P.modeWord 0 % 8 }
  let s := s.forEach (List.range 16) (fun s k =>
    if s.pv P.plateTapStream k = st then s.setTap k { s.tap k with tags := [] } else s)
  let s := s.allocStream st (s.plateNeed st)
  (s.trigEnter st).plateState st (if held then E.plateState.HELD else E.plateState.RUNNING)

def runStreamStart (mb : Fin 21) (t : Nat) (s : Dev) : Dev :=
  (s.at' t).cmd mb 0x0030 (fun s r =>
    let l := bitsOf 64 (fld r.pay 0 8)
    let need : Nat := (l.map s.plateNeed).foldl (· + ·) 0
    let held : Nat := (l.map (fun i => (s.stream i).mem)).foldl (· + ·) 0
    if l.any (fun i => (s.stream i).running) then s.fail mb C.busy
    else if l.any (fun i => !s.startOk i) then s.fail mb C.badValue
    else if s.memFree + (held : Nat) < (need : Nat) then s.fail mb C.noMemory
    else ((s.forEach l Dev.startStream).modePending).done mb)

/-- A stop of one stream: POSITION- and INPUT-triggered frames wait for their lines (R134). -/
def Dev.stopStream (s : Dev) (st : Nat) : Dev :=
  if !(s.stream st).running then s
  else if trigExpects (s.pv P.trigMode st) && !(s.stream st).held then
    let s := s.modStream st (fun x => { x with ending := 2 })
    if s.linesDue st then s else s.endNow st
  else (s.endFrame st 32).stopped st

def runStreamStop (mb : Fin 21) (t : Nat) (s : Dev) : Dev :=
  (s.at' t).cmd mb 0x0031 (fun s r =>
    let mask := fld r.pay 0 8
    if (bitsOf 64 mask).any (fun i => (s.stream i).running) then
      let s := s.await mb (.streams mask) true
      let s := s.forEach (bitsOf 64 mask) Dev.stopStream
      (if (bitsOf 64 mask).any (fun i => (s.stream i).running) then s else s.done mb)
    else s.answer mb 0 [])

/-! ## Exposure sets (R121, R122, R152 to R155) -/

/-- TRIG_ID of the first line of the frame that begins next, if every grid point on the way fires (R153). -/
def Dev.trigIdOf (s : Dev) (st : Nat) : Nat :=
  let x := s.stream st
  let fired := s.pv P.trigFiredCount st
  let nth := fun (n : Nat) =>
    match x.expect[n]? with | some e => e.trigId | none => (fired + (n - x.expect.length) + 1) % 2 ^ 32
  match x.openFrame with
  | none => nth 0
  | some f =>
    if f.cfg.mode = E.plateFrameMode.LINES then
      nth (f.cfg.height - f.lines - b2n x.asm.isSome)
    else if s.pv P.trigMode st ≠ E.trigMode.POSITION then nth x.expect.length
    else
      let o := s.ps 64 P.plateFrameOrigin st
      let len := s.ps 64 P.plateFrameLength st
      let here := frameIndexOf o len f.lastStamp
      match x.expect.find? (fun e => frameIndexOf o len e.stamp != here) with
      | some e => e.trigId
      | none =>
        let fw := s.fwd (s.pv P.trigAxis st)
        let pitch := s.ps 64 P.trigPitch st
        let edge := wrap64 (o + len * (if 0 < fw then here + 1 else here))
        match s.nextPoint st with
        | none => (fired + 1) % 2 ^ 32
        | some p =>
          let d := posDiff edge p * fw
          let n := if d < 0 then 0 else if 0 < fw then (-((-d).fdiv pitch)).toNat else (d.fdiv pitch + 1).toNat
          (fired + n + 1) % 2 ^ 32

/-- EXPOSE_SET messages of a head that await their ACK. -/
def Head.exposures (x : Head) : Nat := (x.waiting.filter (fun m => m.ty == 0x81)).length

/-- Whether frame `frame` of a stream has begun. -/
def Dev.begun (s : Dev) (frame st : Nat) : Bool := (s.stream st).running && decide (frame < (s.stream st).frameNo)

/-- Send an EXPOSE_SET if its instant has come and fewer than 4 await their ACK (R153, R155).
DESIGN CHOICE, entry 27. -/
def Dev.tryExpose (s : Dev) (mb : Nat) (r : Req) : Dev :=
  let p := r.pay
  let l := bitsOf 64 (fld p 0 8)
  let st := l.headD 0
  let h := s.headOf st
  let from' := fld p 10 1 == 1
  let frame := fld p 12 4
  let area := s.pv P.plateFrameMode st == E.plateFrameMode.AREA
  let early := from' && !area && decide ((s.stream st).frameNo < frame)
  if from' && l.any (s.begun frame) then s.fail mb C.late
  else if early || decide (4 ≤ (s.head h).exposures) then s.await mb (.slotFree h) false
  else
    let chans := l.foldl (fun m i => m ||| 2 ^ s.chanOf i) 0
    let applyAt := if !from' then 0 else if area then frame else s.trigIdOf st
    let f := le 2 (fld p 8 2) ++ le 1 (fld p 10 1) ++ le 1 chans ++ le 4 applyAt ++ le 4 (fld p 16 4) ++ le 2 (fld p 20 2)
    let s := s.forEach l (fun s i => s.setSets i ((s.stream i).sets ++ [fld p 8 2]))
    let tag := (s.head h).nextTag
    let s := s.sendMsg h 0x81 0 (slice f 0 15) (if fld p 11 1 = 32 then slice p 24 32 else []) mb (fld p 8 2) (fld p 0 8)
    s.await mb (.ack h tag) true

def runExposeSet (mb : Fin 21) (t : Nat) (s : Dev) : Dev :=
  (s.at' t).cmd mb 0x0034 (fun s r =>
    let p := r.pay
    let l := bitsOf 64 (fld p 0 8)
    let h := s.headOf (l.headD 0)
    let from' := fld p 10 1
    let frame := fld p 12 4
    if l.isEmpty ∨ l.any (fun i => s.headOf i != h) ∨ fld p 8 2 = 0 ∨ 1 < from' ∨ (fld p 11 1 ≠ 0 ∧ fld p 11 1 ≠ 32) then
      s.fail mb C.badValue
    else if from' = 1 ∧ l.any (fun i => s.pv P.plateFrameMode i != E.plateFrameMode.AREA
        && s.pv P.trigMode i == E.trigMode.FREE) then s.fail mb C.badValue
    else if !s.headUp h then s.fail mb C.headAbsent
    else if from' = 1 ∧ l.any (s.begun frame) then s.fail mb C.late
    else s.tryExpose mb r)

/-- An EXPOSE_SET that waits is sent when frame F - 1 begins, or when one of the four awaiting is answered; one that the
head has left meanwhile fails. -/
def runExposeSetDeferredSend (mb : Fin 21) (t : Nat) (s : Dev) : Dev :=
  let s := s.at' t
  let b := s.mb mb
  match b.wait with
  | .slotFree h => (if s.headUp h then s.tryExpose mb (b.request mb) else s.fail mb C.headAbsent)
  | _ => s

/-! ## Head registers (R121) -/

/-- Send a register message for a command. -/
def Dev.headReg (s : Dev) (mb ty : Nat) (r : Req) (write : Bool) : Dev :=
  let h := fld r.pay 0 1
  if 31 < h then s.fail mb C.badValue
  else if !s.headUp h then s.fail mb C.headAbsent
  else
    let f := le 4 (fld r.pay 4 4) ++ (if write then le 4 (fld r.pay 8 4) else le 4 0)
    let tag := (s.head h).nextTag
    (s.sendMsg h ty 0 (slice f 0 15) [] mb 0 0).await mb (.ack h tag) write

def runHeadRegRead (mb : Fin 21) (t : Nat) (s : Dev) : Dev :=
  (s.at' t).cmd mb 0x0035 (fun s r => s.headReg mb 0x83 r false)

def runHeadRegWrite (mb : Fin 21) (t : Nat) (s : Dev) : Dev :=
  (s.at' t).cmd mb 0x0036 (fun s r => s.headReg mb 0x82 r true)

/-! ## PLATE_TABLE_LOAD (R139, R140, R147) -/

/-- Whether a table fits its stream. DESIGN CHOICE, entry 39. -/
def PlateCfg.tableOk (c : PlateCfg) (flat : Bool) (tab : List Nat) : Bool :=
  if flat then
    (if c.ff = E.plateFfMode.COLUMN then tab.length == c.width
     else if c.ff = E.plateFfMode.PIXEL then
       c.mode == E.plateFrameMode.AREA && tab.length == c.width * c.height && decide (tab.length ≤ 4194304)
     else tab.length == c.width || (c.mode == E.plateFrameMode.AREA && tab.length == c.width * c.height))
  else decide (tab.length ≤ 4096) && (c.mode == E.plateFrameMode.AREA || tab.all (fun e => e / 65536 == 65535))

/-- Entries of 4 bytes. -/
def entriesOf (n : Nat) (b : Bytes) : List Nat := (List.range n).map (fun i => fld b (4 * i) 4)

/-- PLATE_TABLE_LOAD (R147). DESIGN CHOICE, entry 39. -/
def runPlateTableLoad (mb : Fin 21) (host : Option Bytes) (errs : List (Nat × Bytes)) (s : Dev) : Dev :=
  s.cmd mb 0x0040 (fun s r =>
    let st := fld r.pay 0 1
    let flat := fld r.pay 1 1
    let src := fld r.pay 2 1
    let i := fld r.pay 3 1
    let n := fld r.pay 4 4
    if 63 < st ∨ 1 < flat ∨ 1 < src ∨ (src = 1 ∧ 15 < i) then s.fail mb C.badValue
    else if 4194304 < n then s.fail mb C.badTable
    else
      match s.source src i (4 * n) host errs with
      | (s, .wait) => s
      | (s, .code c) => s.fail mb c
      | (s, .bytes b) =>
        let tab := entriesOf n b
        if !(s.cfgOf st).tableOk (flat == 1) tab then s.fail mb C.badTable
        else
          let s' := s.modStream st (fun x =>
            if flat = 1 then { x with pendFlat := some tab } else { x with pendDefect := some tab })
          if (s.stream st).running then
            (if s.memFree + ((s.stream st).mem : Nat) < (s'.plateNeed st : Nat) then s.fail mb C.noMemory
             else (s'.allocStream st (s'.plateNeed st)).done mb)
          else s'.done mb)

/-! ## Held taps (R312) -/

/-- The hold of a POS-armed tap ends: each frame of its stream whose first line it holds is copied or not. While a POS
event at or before the frame's stamp is still on its way, the hold goes on. DESIGN CHOICE, entry 40. -/
def runTapHoldRelease (k : Fin 16) (t : Nat) (s : Dev) : Dev :=
  let s := s.at' t
  let st := s.pv P.plateTapStream k
  let nos := ((s.stream st).frames.filter (fun f => decide (0 < f.lines) && f.taps.any (fun x => x.tap == k.val && x.st == 0)
    && !s.flight.any (fun e => e.2.pos && e.2.axis == s.pv P.trigAxis st && decide (posDiff e.2.tag f.firstStamp ≤ 0)))).map
    Frame.no
  (s.forEach nos (fun s no => s.tapDecide st no k))

/-! ## The commands -/

/-- PIXEL. -/
def execPixel (h : Fin 32) (pkt : Option Bytes) (errs : List (Nat × Bytes)) (t : Nat) (s : State) : Out := s.onDev (runPixel h pkt errs t)

/-- FRAME_START. -/
def execFrameStart (h : Fin 32) (pkt : Option Bytes) (t : Nat) (s : State) : Out := s.onDev (runFrameStart h pkt t)

/-- FRAME_END. -/
def execFrameEnd (h : Fin 32) (pkt : Option Bytes) (t : Nat) (s : State) : Out := s.onDev (runFrameEnd h pkt t)

/-- LINE_TIMEOUT. -/
def execLineTimeout (st : Fin 64) (t : Nat) (s : State) : Out := s.onDev (runLineTimeout st t)

/-- HELD_FRAME_END. -/
def execHeldFrameEnd (st : Fin 64) (t : Nat) (s : State) : Out := s.onDev (runHeldFrameEnd st t)

/-- STREAM_START. -/
def execStreamStart (mb : Fin 21) (t : Nat) (s : State) : Out := s.onDev (runStreamStart mb t)

/-- STREAM_STOP. -/
def execStreamStop (mb : Fin 21) (t : Nat) (s : State) : Out := s.onDev (runStreamStop mb t)

/-- EXPOSE_SET. -/
def execExposeSet (mb : Fin 21) (t : Nat) (s : State) : Out := s.onDev (runExposeSet mb t)

/-- EXPOSE_SET_DEFERRED_SEND. -/
def execExposeSetDeferredSend (mb : Fin 21) (t : Nat) (s : State) : Out := s.onDev (runExposeSetDeferredSend mb t)

/-- HEAD_REG_READ. -/
def execHeadRegRead (mb : Fin 21) (t : Nat) (s : State) : Out := s.onDev (runHeadRegRead mb t)

/-- HEAD_REG_WRITE. -/
def execHeadRegWrite (mb : Fin 21) (t : Nat) (s : State) : Out := s.onDev (runHeadRegWrite mb t)

/-- PLATE_TABLE_LOAD. -/
def execPlateTableLoad (mb : Fin 21) (given : Option Bytes × List (Nat × Bytes)) (s : State) : Out :=
  s.onDev (runPlateTableLoad mb given.1 given.2)

/-- TAP_HOLD_RELEASE. -/
def execTapHoldRelease (k : Fin 16) (t : Nat) (s : State) : Out := s.onDev (runTapHoldRelease k t)

end Sys2Proof.Machine
end

