-- ==== Sys2Proof/Machine/Position.lean ====
section
/-! DEFINITION. Encoder edges and faults, the axis update, triggers sent and checked (R30 to R53). -/
namespace Sys2Proof.Machine

/-- The axes that take encoder `e` from this device. -/
def Dev.axesOf (s : Dev) (e : Nat) : List Nat :=
  (List.range 4).filter (fun x => (s.members x).contains e && !s.follows x)

def setEncBit (s : Dev) (e b : Nat) (v : Bool) : Dev :=
  s.setP P.posEncStatus e (putBit (s.pv P.posEncStatus e) b v)

/-- The encoder after a counted step at `t` (R31, R34). -/
def Enc.step (x : Enc) (a b : Bool) (d : Int) (t : Nat) (fast : Bool) : Enc :=
  let l := (x.t1, x.count, x.t0, x.d1, x.d0) :: x.past
  let recent := fun (p : Nat × Int × Nat × Int × Int) => decide (t < p.1 + ms 20)
  { x with
    a := a, b := b, count := x.count + d, t1 := t, t0 := x.t1, d1 := d, d0 := x.d1
    fastEnd := if fast then some t else x.fastEnd
    past := l.takeWhile recent ++ (l.dropWhile recent).take 1 }

/-- What a counted step of encoder `e` does to an axis: span, SLIP, reversal, re-arming, INTERVAL records. -/
def Dev.edgeOnAxis (s : Dev) (e t : Nat) (before : Int) (x : Nat) : Dev :=
  let (s, rev) := s.axisStep x e t before
  let s := (if rev then s.merReversed x else s).merTouch
  let out := s.axisPos x t
  (s.rearm x out).lenMoved x out

/-- One filtered change of the decoder inputs of encoder `e` at the instant `T` of the time-to-digital converter (R31 to
R43). -/
def Dev.encEdge (s : Dev) (e : Nat) (a b : Bool) (T : Nat) : Dev :=
  let x := s.enc e
  let d := quadStep x.a x.b a b
  if d = 0 then s
  else
    let T := Nat.max T x.t1
    let fast := x.d1 != 0 && decide (T - x.t1 < 20000)
    let before := (x.count * 65536 * (s.pv P.posEncRatioNum e : Int)).fdiv (s.pv P.posEncRatioDen e)
    let s := s.setEnc e (x.step a b d T fast)
    let s := if fast then setEncBit s e 2 true else s
    (s.forEach (s.axesOf e) (fun s x => s.edgeOnAxis e T before x)).merTouch

/-- A and B changed within one filter interval: nothing is counted but the error (R31). -/
def Dev.encError (s : Dev) (e : Nat) (a b : Bool) : Dev :=
  let s := s.setEnc e { s.enc e with a := a, b := b, qAt := s.now }
  (setEncBit (s.bump P.posEncQerrCount e 1) e 0 true).merTouch

/-- A and B at their balls, with the instants since which they have held their levels. A change passes the glitch filter
once it has held for `pos.enc.filter_ns`, as an edge of the instant at which it began; where both have changed within one
filter interval, neither is counted (R30 to R43). DESIGN CHOICE, entry 18; DESIGN CHOICE, entry 28. -/
def runEncoderEdge (e : Fin 8) (a b : Bool) (ta tb t : Nat) (s : Dev) : Dev :=
  let s := s.at' t
  if s.pv P.posEncStandard e = E.posEncStandard.OFF then s
  else
    let inv := s.pv P.posEncInvert e
    let pa := (a != bit inv 0, ta)
    let pb := (b != bit inv 1, tb)
    let (pa, pb) := if s.pv P.posEncSwapAb e = 1 then (pb, pa) else (pa, pb)
    let x := s.enc e
    let w := 1000 * s.pv P.posEncFilterNs e
    let newA := pa.1 != x.a
    let newB := pb.1 != x.b
    if newA && newB && decide (Nat.max pa.2 pb.2 - Nat.min pa.2 pb.2 < Nat.max 1 w) then
      (if Nat.max pa.2 pb.2 + w ≤ s.now then s.encError e pa.1 pb.1 else s)
    else
      let stepA := fun (s : Dev) =>
        if newA && decide (pa.2 + w ≤ s.now) then s.encEdge e pa.1 (s.enc e).b (tdc pa.2) else s
      let stepB := fun (s : Dev) =>
        if newB && decide (pb.2 + w ≤ s.now) then s.encEdge e (s.enc e).a pb.1 (tdc pb.2) else s
      if pa.2 ≤ pb.2 then stepB (stepA s) else stepA (stepB s)

/-- A Z edge, filtered like A and B: on the rising edge the count since the last one is compared with
`pos.enc.z_period` (R30, R33). DESIGN CHOICE, entry 28. -/
def runZEdge (e : Fin 8) (level : Bool) (tEdge t : Nat) (s : Dev) : Dev :=
  let s := s.at' t
  if s.pv P.posEncStandard e = E.posEncStandard.OFF ∨ s.now < tEdge + 1000 * s.pv P.posEncFilterNs e then s
  else
    let z := level != bit (s.pv P.posEncInvert e) 2
    let x := s.enc e
    let s1 := s.setEnc e { x with z := z, zAt := if z && !x.z then some x.count else x.zAt }
    if z && !x.z then
      let per := s.pv P.posEncZPeriod e
      match x.zAt with
      | none => s1
      | some c =>
        if per = 0 then s1
        else
          let n : Int := (x.count - c).natAbs
          (setEncBit s1 e 3 (decide (s.pv P.posEncZTol e < (n - per).natAbs)))
    else s1

/-- Open-wire detection: RS422 and HTL detect it, TTL does not (R32, R41). -/
def runLos (e : Fin 8) (t : Nat) (s : Dev) : Dev :=
  let s := s.at' t
  let std := s.pv P.posEncStandard e
  if std = E.posEncStandard.RS422 ∨ std = E.posEncStandard.HTL then
    let was := s.encLos e
    let s := (setEncBit s e 1 true).setEnc e { s.enc e with losEnd := none }
    if was then s
    else ((s.forEach (s.axesOf e) (fun s x => s.losOn x e s.now)).merTouch)
  else s

/-- QERR, OVERSPEED and LOS clear 1 ms after their condition ends; `openWire` and `fast` say whether the conditions
still hold (R32, R41). -/
def runEncFlagClear (e : Fin 8) (openWire fast : Bool) (t : Nat) (s : Dev) : Dev :=
  let s := s.at' t
  let x := s.enc e
  let s := if x.qAt + ms 1 ≤ s.now then setEncBit s e 0 false else s
  let fastEnd := if fast then some s.now else x.fastEnd
  let s := match fastEnd with
    | some i => if i + ms 1 ≤ s.now then setEncBit s e 2 false else s
    | none => s
  let losEnd := if !s.encLos e || openWire then none else some (x.losEnd.getD s.now)
  let s := s.setEnc e { x with fastEnd := fastEnd, losEnd := losEnd }
  match losEnd with
  | some i =>
    if i + ms 1 ≤ s.now then
      let s := setEncBit (s.setEnc e { s.enc e with losEnd := none }) e 1 false
      (s.forEach (s.axesOf e) (fun s x =>
        if s.axisBit x deadBit then (s.revive x s.now).resumeAxis x else s))
    else s
  | none => s

/-- SLIP has been cleared in `pos.axis.events` and every member agreed over one full span: a new reference, with the
output where it is (R40). -/
def runFusionResume (x : Fin 4) (t : Nat) (s : Dev) : Dev :=
  let s := s.at' t
  let ok := s.axisBit x slipBit && !bit (s.pv P.posAxisEvents x) slipBit && (s.axis x).spanOk
    && (s.members x).all (fun e => !s.encLos e) && !s.axisDead x && !s.follows x
  if ok then
    let s := s.turnAxis x (fun s => s.takeRef x s.now (s.localPos x s.now))
    ((s.setAxisBit x slipBit false).setAxisBit x lostBit false)
  else s

/-- The 1 µs update of an axis (R43, R44, R237). -/
def runAxisUpdate (x : Fin 4) (t : Nat) (s : Dev) : Dev :=
  let s := s.at' t
  let (v, a) :=
    if s.follows x then
      (match s.frameOf x with
       | some f => (f.vel.getD x 0, f.acc.getD x 0)
       | none => (0, 0))
    else s.rates x
  let s := (s.setAxis x { s.axis x with v := v, a := a }).setP P.posAxisVelocity x (toTwos 32 v)
  (s.rearm x (s.axisPos x s.now))

/-- The instant at which an axis reaches a point, on Meridian's uptime (R44, R237). -/
def Dev.predictAt (s : Dev) (x : Nat) (p : Int) : Option Nat :=
  let span := s.mode M.span && bit (s.pv P.spanAxisMask 0) x
  match (if span then s.span.last else none) with
  | some f =>
    (predict (posDiff p (f.pos.getD x 0)) (f.vel.getD x 0) (f.acc.getD x 0)).map (fun d =>
      (((f.tbTx * 1000 / 256 + d : Nat) : Int) - s.tbOff).toNat)
  | none => (predict (posDiff p (s.trigPos x s.now)) (s.axis x).v (s.axis x).a).map (fun d => s.now + d)

/-- The target instant of a generator's point `p`: a point that the axis has reached or passed unfired is due now (R44,
R48). -/
def Dev.pointAt (s : Dev) (st : Nat) (p : Int) : Option Nat :=
  let x := (s.nextGrid st).1
  let passed := s.pointPassed st p
  if passed && !(s.mode M.span && bit (s.pv P.spanAxisMask 0) x) then some s.now
  else
    match s.predictAt x p with
    | some t => some t
    | none => if passed then some s.now else none

/-- A POSITION generator whose next point is due sends its message, or skips the point (R44 to R49, R345). -/
def Dev.sendPosition (s : Dev) (st : Nat) : Dev :=
  let x := (s.nextGrid st).1
  if s.axisStops x then s
  else
    match s.nextPoint st with
    | none => s
    | some p =>
      if s.holdPlaced st p then s.placeHold st
      else
      match s.pointAt st p with
      | none => s
      | some target =>
        if s.now + 1000 * s.pv P.trigLeadNs st < target then s
        else
          let close := match (s.trig st).lastTarget with
            | some t0 => decide (target < t0 + 1000 * s.pv P.trigMinIntervalNs st)
            | none => false
          let s := s.passPoint st p
          if close || s.loopOf (s.headOf st) == E.laneLoop.FAR then s.skipPoint st else s.fireTrig st x target p

/-- A TIME generator whose next instant is due sends its message (R47); the first message of a run sets the phase of the
instants, which lie a period apart on TB. DESIGN CHOICE, entry 31. -/
def Dev.sendTime (s : Dev) (st : Nat) : Dev :=
  let per := 1000 * s.pv P.trigPeriodNs st
  let g := s.trig st
  let tb :=
    if g.nextTime = 0 then s.tbPs + 1000 * s.pv P.trigLeadNs st
    else if g.nextTime < s.tbPs then g.nextTime + roundUp (s.tbPs - g.nextTime) per
    else g.nextTime
  if s.tbPs + 1000 * s.pv P.trigLeadNs st < tb then s
  else
    let s := s.setTrig st { g with nextTime := tb + per }
    if s.loopOf (s.headOf st) = E.laneLoop.FAR then s.skipPoint st
    else s.fireTrig st (s.pv P.trigAxis st) ((tb : Int) - s.tbOff).toNat (s.axisPos (s.pv P.trigAxis st) s.now)

/-- The generator of a stream sends what is due. DESIGN CHOICE, entry 31. -/
def runTriggerSend (st : Fin 64) (t : Nat) (s : Dev) : Dev :=
  let s := s.at' t
  if !s.trigLive st then s
  else if s.pv P.trigMode st = E.trigMode.POSITION then (s.sendPosition st)
  else if s.pv P.trigMode st = E.trigMode.TIME then (s.sendTime st)
  else s

/-- At a target instant: the firing error of a grid point, the stamp of a TIME line (R50, table *Trigger modes*).
DESIGN CHOICE, entry 31. -/
def runFiringErrorCheck (st : Fin 64) (t : Nat) (s : Dev) : Dev :=
  let s := s.at' t
  let g := s.trig st
  let due := g.checks.filter (fun c => decide (c.1 ≤ s.now))
  let s := s.setTrig st { g with checks := g.checks.filter (fun c => decide (s.now < c.1)) }
  (due.foldl (fun s c =>
    let p := s.axisPos c.2.2.1 c.1
    if c.2.2.2 = E.trigMode.POSITION then s.peak P.trigErrMax st (posDiff p c.2.1).natAbs
    else if c.2.2.2 = E.trigMode.TIME then
      let y := s.stream st
      s.setStream st { y with expect := y.expect.map (fun e => if e.target = c.1 then { e with stamp := p } else e) }
    else s) s)

/-! ## The commands -/

/-- ENCODER_EDGE. -/
def execEncoderEdge (e : Fin 8) (a b : Bool × Nat) (t : Nat) (s : State) : Out :=
  s.onDev (runEncoderEdge e a.1 b.1 a.2 b.2 t)

/-- Z_EDGE. -/
def execZEdge (e : Fin 8) (z : Bool × Nat) (t : Nat) (s : State) : Out := s.onDev (runZEdge e z.1 z.2 t)

/-- LOS. -/
def execLos (e : Fin 8) (t : Nat) (s : State) : Out := s.onDev (runLos e t)

/-- ENC_FLAG_CLEAR. -/
def execEncFlagClear (e : Fin 8) (openWire fast : Bool) (t : Nat) (s : State) : Out := s.onDev (runEncFlagClear e openWire fast t)

/-- FUSION_RESUME. -/
def execFusionResume (x : Fin 4) (t : Nat) (s : State) : Out := s.onDev (runFusionResume x t)

/-- AXIS_UPDATE. -/
def execAxisUpdate (x : Fin 4) (t : Nat) (s : State) : Out := s.onDev (runAxisUpdate x t)

/-- TRIGGER_SEND. -/
def execTriggerSend (st : Fin 64) (t : Nat) (s : State) : Out := s.onDev (runTriggerSend st t)

/-- FIRING_ERROR_CHECK. -/
def execFiringErrorCheck (st : Fin 64) (t : Nat) (s : State) : Out := s.onDev (runFiringErrorCheck st t)

end Sys2Proof.Machine
end

