-- ==== Sys2Proof/Machine/Lanes.lean ====
section
/-! DEFINITION. Lanes and heads: bring-up, alignment, low power, retrains, the one-way delay, head messages, lane PLLs
(R93 to R125, R369). -/
namespace Sys2Proof.Machine

/-! ## Training frames (R96, R100 to R103, R109) -/

/-- Whether a 64-bit control field has its CRC8. DESIGN CHOICE, entry 22. -/
def fieldCrcOk (f : Nat) : Bool := fieldCrc f == f % 256

/-- One tap of magnitude up to `top` after a request; the step is refused at the end of the range (R101).
DESIGN CHOICE, entry 22. -/
def tapStep (req top v : Nat) : Nat × Bool :=
  if req = 1 then (if v = 0 then (v, true) else (v - 1, false))
  else if req = 2 then (if v = top then (v, true) else (v + 1, false))
  else (v, false)

/-- COEF_REQ at the own transmitter. `main` is what the other two leave, so a step of it alone leaves its range. -/
def Lane.coef (x : Lane) (req : Nat) : Lane :=
  let rp := req / 16 % 4
  let rm := req / 4 % 4
  let rq := req % 4
  if rp = 3 ∨ rm = 3 ∨ rq = 3 then { x with pre := 4, post := 8, limit := 0 }
  else
    let (pre, a) := tapStep rp 16 x.pre
    let (post, c) := tapStep rq 24 x.post
    { x with pre := pre, post := post, limit := 4 * b2n a + 2 * b2n (rm != 0) + b2n c }

/-- RATE, WIDTH and PROTO agree; otherwise the `lane.last_fail` a timeout gives (R103). -/
def Dev.eqAgrees (s : Dev) (b f : Nat) : Bool × Nat :=
  if bits f 43 2 ≠ s.widthCode b then (false, E.laneLastFail.WIDTH)
  else if bits f 40 3 ≠ 1 then (false, E.laneLastFail.PROTO)
  else (bits f 48 1 == b2n (s.halfRate b), 0)

/-- The link advances when every lane has met the exit condition. -/
def Dev.advance (s : Dev) (b : Nat) : Dev :=
  let ph := (s.lane b).phase
  let all := fun (p : Lane → Bool) => (s.linkLanes b).all (fun l => p (s.lane l))
  let times := (s.linkLanes b).map (fun l => (s.lane l).alignAt)
  if ph = phTrain ∧ all (fun x => decide (16 ≤ x.good)) = true then s.enterPhase b phEq
  else if ph = phEq ∧ all (fun x => decide (8 ≤ x.good)) = true then s.enterPhase b phAlign
  else if ph = phAlign ∧ all (fun x => x.aligned && decide (64 ≤ x.good)) = true
      ∧ times.foldl Nat.max 0 ≤ times.foldl Nat.min (times.headD 0) + s.laneTime b 80000 then
    (if s.shortBringup b then s.linkCameUp b else
      ((s.setHead b { s.head b with echoes := 0, delaySum := 0 }).enterPhase b phDelay).sendProbe b)
  else s

/-- The control field of the frame a lane's receiver sees: in a near-end loop, whose receiver sees no balls, the own
frame's (R123); none without the marker (R100). -/
def Dev.heardField (s : Dev) (l : Nat) (frame : List (Fin 4)) : Option Nat :=
  let loop := s.loopOf (s.linkBase l)
  if loop = E.laneLoop.NES ∨ loop = E.laneLoop.NEP then some (s.trainField l) else frameField (frame.map Fin.val)

/-- TRAINING_FRAME: 1,024 symbols from the partner (R100, R101, R102). DESIGN CHOICE, entry 22. -/
def runTrainingFrame (l : Fin 32) (frame : List (Fin 4)) (t : Nat) (s : Dev) : Dev :=
  let s := s.at' t
  let b := s.linkBase l
  let heard := s.heardField l frame
  let f := heard.getD 0
  let x : Lane := { s.lane l with rx := { (s.lane l).rx with last := 0 } }
  let crc := heard.isSome && fieldCrcOk f
  let good := crc && bits f 60 4 == 9
  if s.pv P.laneMode l ≠ E.laneMode.LINK ∨ s.tileUnlocked l = true then s
  else if s.pv P.laneState l = E.laneState.ABSENT then (if crc then s.attempt b 1 else s)
  else if x.phase = phTrain ∨ x.phase = phEq then
    let s := if good then s.setP P.lanePrecodeTx l (bits f 49 1) else s
    let x := if good then x.coef (bits f 54 6) else x
    let x :=
      if x.phase = phTrain then { x with good := if good then x.good + 1 else 0 }
      else if !good then { x with good := 0 }
      else
        let (agrees, fail) := s.eqAgrees b f
        { x with eqFail := fail, good := if agrees && bit f 50 then x.good + 1 else 0 }
    (((s.setLane l x).sendFrames l 1).advance b)
  else (s.setLane l { x with downPower := 0, sleepSeen := 0 })

/-! ## Failure and backoff (R102, R103, R105) -/

/-- The transmitters of a link's lanes go idle. -/
def Dev.idleLanes (s : Dev) (b : Nat) : Dev := s.forEach (s.linkLanes b) (fun s l => s.emit (.elecIdle l))

def runBringupTimeout (l : Fin 32) (t : Nat) (s : Dev) : Dev :=
  let s := s.at' t
  let b := s.linkBase l
  let x := s.lane l
  if 1 ≤ x.phase ∧ x.phase ≤ 5 ∧ x.since + s.laneTime b (phaseTimeout x.phase) ≤ s.now then
    let n := s.pv P.laneAttempt b
    let cause :=
      if x.phase = phEq then
        ((s.linkLanes b).map (fun i => (s.lane i).eqFail)).foldl (fun a e => if a = E.laneLastFail.TIMEOUT ∧ e ≠ 0 then e else a)
          E.laneLastFail.TIMEOUT
      else E.laneLastFail.TIMEOUT
    let s := s.enterPhase b 0
    let s := s.forEach (s.linkLanes b) (fun s i => s.setP P.laneLastFail i cause)
    (if 8 ≤ n then (s.setLaneSts b E.laneState.ABSENT).idleLanes b else s.setLaneSts b E.laneState.BACKOFF)
  else s

def runBackoffExpire (l : Fin 32) (t : Nat) (s : Dev) : Dev :=
  let s := s.at' t
  let b := s.linkBase l
  let n := s.pv P.laneAttempt b
  if s.pv P.laneState l = E.laneState.BACKOFF ∧ (s.lane l).since + s.laneTime b (ms (2 ^ (n - 1))) ≤ s.now then (s.attempt b (n + 1))
  else s

def runAbsentProbe (l : Fin 32) (t : Nat) (s : Dev) : Dev :=
  let s := s.at' t
  let x := s.lane l
  if s.pv P.laneState l = E.laneState.ABSENT ∧ x.since + s.laneTime (s.linkBase l) (ms 250) ≤ s.now then
    ((s.setLane l { x with since := s.now }).sendFrames l 8)
  else s

/-! ## Codewords and control blocks (R98, R99, R108, R109, R111, R124, R369) -/

/-- A block of the link joins the packet that is being received; a whole packet has arrived. A data block that begins no
packet is passed over until one with a good header (R115); a packet with a lost block is discarded (R99). -/
def Head.takeBlock (x : Head) (o : Option Blk) : Head :=
  let put := fun (part : List (Option Bytes)) =>
    let n := match part.head? with | some (some p) => roundUp (24 + (parsePkt p).len + 8) 32 / 32 | _ => 0
    if part.length < n then { x with part := part }
    else { x with
      part := []
      arrived := if part.all Option.isSome then x.arrived ++ [(part.filterMap id).flatten] else x.arrived }
  match o with
  | none => if x.part.isEmpty then x else put (x.part ++ [none])
  | some b =>
    if !b.data then x
    else if x.part.isEmpty && !(parsePkt b.pay).hdrOk then x
    else put (x.part ++ [some b.pay])

/-- The link takes the blocks of its lanes in turn (R111). -/
def Dev.gather (s : Dev) (b : Nat) : Dev :=
  let lanes := s.linkLanes b
  let n := (lanes.map (fun l => (s.lane l).blocks.length)).foldl (· + ·) 0
  s.forEach (List.range n) (fun s _ =>
    let x := s.head b
    let l := b + x.rxj
    match (s.lane l).blocks with
    | [] => s
    | o :: r =>
      (s.setLane l { s.lane l with blocks := r }).setHead b { x.takeBlock o with rxj := (x.rxj + 1) % lanes.length })

/-- The SLEEP blocks of one kind in a row, after another block (R109). -/
def Lane.sleepRun (x : Lane) (b : Blk) : Lane :=
  if !b.data && fld b.pay 0 1 == 0x2D then
    let k := fld b.pay 1 1
    { x with sleepSeen := if x.sleepKind = k then x.sleepSeen + 1 else 1, sleepKind := k }
  else { x with sleepSeen := 0 }

/-- Blocks that a lane has received: control blocks but IDLE await their handling, of SLEEP blocks the fourth in a row;
all but ALIGN are the link's. -/
def Lane.takeBlocks (x : Lane) (l : List Blk) : Lane :=
  l.foldl (fun x b =>
    let al := !b.data && isAlign b.pay
    let y := if al then { x with rxNo := 0 } else { x.sleepRun b with blocks := x.blocks ++ [some b] }
    let ty := fld b.pay 0 1
    if b.data || ty == 0 || (ty == 0x2D && y.sleepSeen != 4) then y else { y with ctl := y.ctl ++ [b.pay] })
    { x with rxNo := x.rxNo + 1 }

/-- A codeword that a lane has received, decoded or discarded whole (R94, R99, R104). -/
def Dev.rxCodeword (s : Dev) (l : Nat) (syms : List Nat) : Dev :=
  let x := s.lane l
  let d := decodeBlocks (s.laneInLink l) x.rxPre x.rx syms
  let x := { x with rx := d.1 }
  match d.2 with
  | none =>
    let n := if x.rxNo % 200 = 199 then 19 else 20
    (s.setLane l { x with
      bad := x.bad + 1, good := 0, rxNo := x.rxNo + 1, blocks := x.blocks ++ List.replicate n none, sleepSeen := 0 }).bump
      P.laneFecUncorrCount l 1
  | some (blks, n) =>
    let corr := x.corr.filter (fun p => decide (s.now < p.2 + ms 2))
    let x := { x with bad := 0, good := x.good + 1, corr := if n = 0 then corr else (n, s.now) :: corr }
    let s := s.setLane l (x.takeBlocks blks)
    if n = 0 then s else s.bump P.laneFecCorrCount l 1

/-- Blocks looped back before the coding reach a lane's receiver (R123). -/
def Dev.rxBlocks (s : Dev) (l : Nat) (blks : List Blk) : Dev :=
  let x := s.lane l
  s.setLane l ({ x with bad := 0, good := x.good + 1 }.takeBlocks blks)

/-- The own slot of a link in a near-end loop comes back to its receiver: as codewords from the serial output, or as blocks
(R123). -/
def Dev.loopSlot (s : Dev) (b : Nat) : Dev :=
  let nes := s.loopOf b == E.laneLoop.NES
  let (s, blks) := s.takeSlot b
  ((s.linkLanes b).zip blks).foldl (fun s p =>
    if nes then
      let (s, syms) := s.codeSlot p.1 p.2
      let x := s.lane p.1
      (s.setLane p.1 { x with rxPre := s.pv P.lanePrecodeTx p.1 == 1 }).rxCodeword p.1 syms
    else s.rxBlocks p.1 p.2) s

/-- PRBS31 symbols that came back from a loop: those that differ from the symbols sent are counted (R124). -/
def Dev.prbsSlot (s : Dev) (l : Nat) (syms : List Nat) : Dev :=
  let x := s.lane l
  let y := prbs31 syms.length (x.prbs.getD (Config.prbsSeed l % 2 ^ 31))
  let errs := ((y.2.zip syms).filter (fun p => p.1 != p.2)).length
  (s.setLane l { x with prbs := some y.1 }).bump P.lanePrbsErrCount l errs

/-- FEC_CODEWORD: 2,720 symbols at a lane's receiver. In step with the codewords of a link's lowest lane the device sends
its own; under FAR it sends the symbols received; under NES and NEP the balls are ignored, and the own slot, or the
PRBS31 pattern that has come round the loop, is received (R94, R99, R104, R123, R124). DESIGN CHOICE, entry 26. -/
def runFecCodeword (l : Fin 32) (symbols : List (Fin 4)) (t : Nat) (s : Dev) : Dev :=
  let s := s.at' t
  let b := s.linkBase l
  let x := s.lane l
  let loop := s.loopOf b
  let syms := symbols.map Fin.val
  let near := loop = E.laneLoop.NES ∨ loop = E.laneLoop.NEP
  if s.pv P.laneState l = E.laneState.WAIT_LOCK then (s.bump P.rstWaitLockDiscard (l / 8) 1)
  else if x.phase < phAlign then s
  else if near ∧ s.pv P.lanePattern b = E.lanePattern.PRBS31 ∧ x.phase = phUp then s.prbsSlot l syms
  else if near then (if l.val = b then ((s.loopSlot b).gather b).advance b else s)
  else
    let s := ((s.rxCodeword l syms).gather b).advance b
    if loop = E.laneLoop.FAR ∧ x.phase = phUp then s.emit (.codeword l syms)
    else if l.val = b ∧ (s.lane b).upPower = 0 ∧ phAlign ≤ (s.lane b).phase then s.sendSlot b
    else s

/-- The next control block of a lane, of the types `p`: given as it comes, or the next that the codewords have brought. -/
def Dev.nextCtl (s : Dev) (l : Nat) (p : Nat → Bool) (given : Option Bytes) : Dev × Option Bytes :=
  match given with
  | some b => (s, some b)
  | none =>
    match (s.lane l).ctl with
    | [] => (s, none)
    | c :: r => if p (fld c 0 1) then (s.setLane l { s.lane l with ctl := r }, some c) else (s, none)

/-- Control block types that have a command of their own. -/
def ctlOther (ty : Nat) : Bool := [0x00, 0x2D, 0x33, 0x66].contains ty

/-- ALIGN: a good block gives lock and its instant; a damaged one, or a block of unknown type, is counted.
DESIGN CHOICE, entry 23. -/
def runAlign (l : Fin 32) (payload : Option Bytes) (t : Nat) (s : Dev) : Dev :=
  let s := s.at' t
  if (s.lane l).phase < phAlign then s
  else
    match s.nextCtl l (fun ty => !ctlOther ty) payload with
    | (s, none) => s
    | (s, some p) =>
      if ctlOther (fld p 0 1) then s
      else if isAlign p = false ∨ fld p 30 2 ≠ crc16 (slice p 0 30) then (s.bump P.laneCtlErrCount l 1)
      else ((s.setLane l { s.lane l with aligned := true, alignAt := s.now, sleepSeen := 0 }).advance (s.linkBase l))

/-- SLEEP: the fourth block of one kind in a row announces the partner's low power (R109). A block that codewords have
brought is the fourth. -/
def runSleep (l : Fin 32) (kind : Option (BitVec 8)) (s : Dev) : Dev :=
  if (s.lane l).phase < phAlign then s
  else
    match kind with
    | some k =>
      let x := s.lane l
      if 1 < k.toNat then s
      else
        let n := if x.sleepKind = k.toNat then x.sleepSeen + 1 else 1
        (s.setLane l { x with
          sleepSeen := n, sleepKind := k.toNat, downPower := if 4 ≤ n then k.toNat + 1 else x.downPower })
    | none =>
      match s.nextCtl l (· == 0x2D) none with
      | (s, some p) =>
        if 1 < fld p 1 1 then s else s.setLane l { s.lane l with downPower := fld p 1 1 + 1 }
      | (s, none) => s

/-! ## Retrains (R106 to R108) -/

/-- RETRAIN_REQ of a head: a burst of the up direction is pending; the own SLEEP makes it void (R107, R108). -/
def runRetrainReq (l : Fin 32) (num : Option (BitVec 8)) (t : Nat) (s : Dev) : Dev :=
  let got := (s.at' t).nextCtl l (· == 0x33) (num.map (fun n => [0x33] ++ le 1 n.toNat))
  let s := got.1
  let b := s.linkBase l
  let x := s.head b
  if got.2.isSome = true ∧ s.linkUp b ∧ (s.lane b).upPower = 0 ∧ x.upRetrain = none then (s.setHead b { x with upRetrain := some s.now })
  else s

/-- Whether a TRIGGER of a head leaves within the next 2.5 µs, as far as it can be foreseen. -/
def Dev.triggerSoon (s : Dev) (h : Nat) : Bool :=
  let soon := s.laneTime h (us 5 / 2)
  (s.streamsOf h).any (fun st =>
    let lead := 1000 * s.pv P.trigLeadNs st
    if !s.trigLive st then false
    else if s.pv P.trigMode st = E.trigMode.TIME then
      decide ((s.trig st).nextTime ≤ s.tbPs + lead + soon)
    else if s.pv P.trigMode st = E.trigMode.POSITION then
      match s.nextPoint st with
      | none => false
      | some p =>
        (match s.pointAt st p with
         | some target => decide (target ≤ s.now + lead + soon)
         | none => false)
    else false)

def runUpRetrainStart (h : Fin 32) (t : Nat) (s : Dev) : Dev :=
  let s := s.at' t
  let x := s.head h
  match x.upRetrain with
  | none => s
  | some t0 =>
    if s.triggerSoon h = true ∧ s.now < t0 + s.laneTime h (ms 1) then s
    else
      let s := s.setHead h { x with upRetrain := none }
      if s.linkUp h ∧ (s.lane h).upPower = 0 then
        (s.forEach (s.linkLanes h) (fun s l => (s.sendFrames l 8).sendAlign l))
      else s

/-- The largest difference of two lists of codes. -/
def codeDrift (a b : List Nat) : Nat :=
  (a.zip b).foldl (fun m p => Nat.max m (Nat.max p.1 p.2 - Nat.min p.1 p.2)) 0

/-- The 10 ms check of a lane: `present` are the CTLE boost and the DFE values. While the down direction is in low power
there is nothing to adapt to, and the check waits, which the manual does not say. DESIGN CHOICE, entry 24. -/
def runEqDriftCheck (l : Fin 32) (present : List Nat) (t : Nat) (s : Dev) : Dev :=
  let s := s.at' t
  let b := s.linkBase l
  let x := s.lane l
  if x.phase ≠ phUp ∨ x.downPower ≠ 0 ∨ s.pv P.laneState l = E.laneState.RETRAIN
      ∨ s.now < x.driftAt + s.laneTime b (ms 10) then s
  else
    let s := s.setP P.laneEqCtleBoost l (present.headD 0 % 16)
    let s := s.setLane l { x with driftAt := s.now }
    let corrected := ((x.corr.filter (fun p => decide (s.now < p.2 + s.laneTime b (ms 1)))).map Prod.fst).foldl (· + ·) 0
    if s.pv P.laneEqDriftGuard l < codeDrift x.saved present ∨ s.pv P.laneFecRetrainThresh l < corrected then
      let s := s.wakeUp b
      let n := (s.lane b).reqNum
      let s := s.modLanes b (fun x => { x with reqNum := (n + 1) % 256 })
      ((s.forEach (s.linkLanes b) (fun s i =>
        (s.setLaneSt i E.laneState.RETRAIN).bump P.laneRetrainCount i 1)).pushAll b ([0x33] ++ le 1 n ++ List.replicate 30 0))
    else s

/-! ## The link goes down (R104, R123, R129, R130, R154, R369) -/

/-- What a link carried is lost: its head, the packets not fully received; a frame in progress is completed as a short
one. -/
def Dev.linkLost (s : Dev) (b : Nat) : Dev :=
  let s := s.forEach (s.streamsOf b) (fun s st =>
    let s := match (s.stream st).openFrame with
      | some f => if f.cfg.mode = E.plateFrameMode.AREA then s.completeArea st none 4 else s.finishLine st
      | none => s.finishLine st
    s)
  s.dropHead b

/-- A link in UP goes down: bring-up restarts at attempt 1 with no backoff. -/
def Dev.linkFail (s : Dev) (b : Nat) : Dev :=
  let s := s.linkLost b
  let s := s.forEach (s.linkLanes b) (fun s l => s.setP P.laneLastFail l E.laneLastFail.LOCK_LOSS)
  (s.modLanes b (fun x => { x with saved := [] })).attempt b 1

def runLinkDown (l : Fin 32) (why : DownCause) (t : Nat) (s : Dev) : Dev :=
  let s := s.at' t
  let b := s.linkBase l
  let x := s.lane l
  let due := match why with
    | .signal => x.downPower == 0
    | .uncorrectable => decide (64 ≤ x.bad)
    | .alignLoss => x.downPower == 0 && decide (x.alignAt + 3 * s.laneTime b 20480000 ≤ s.now)
  if s.linkUp b ∧ due = true then (s.linkFail b) else s

def runRetrainComplete (l : Fin 32) (converged : Bool) (values : List Nat) (t : Nat) (s : Dev) : Dev :=
  let s := s.at' t
  let b := s.linkBase l
  if s.pv P.laneState l ≠ E.laneState.RETRAIN then s
  else if converged then
    let s := (s.setLane l { s.lane l with saved := values }).setP P.laneEqCtleBoost l (values.headD 0 % 16)
    (s.setLaneSt l (if s.loopOf b = E.laneLoop.NONE then E.laneState.UP else E.laneState.LOOP))
  else ((s.bump P.laneRetrainFailCount l 1).linkFail b)

/-! ## Low power of the up direction (R109, R110) -/

/-- Announce low power with 4 SLEEP blocks on every lane of a link, then stop the drivers. -/
def Dev.sleepLink (s : Dev) (b kind : Nat) : Dev :=
  let p := [0x2D] ++ le 1 kind ++ List.replicate 30 0
  let s := ((((s.pushAll b p).pushAll b p).pushAll b p).pushAll b p).sendSlot b
  s.forEach (s.linkLanes b) (fun s l => (s.setLane l { s.lane l with upPower := kind + 1 }).emit (.elecIdle l))

def runEiEntry (l : Fin 32) (t : Nat) (s : Dev) : Dev :=
  let s := s.at' t
  let b := s.linkBase l
  let idle := s.pv P.laneIdleEiUs b
  let busy := (s.streamsOf b).any (fun st => trigExpects (s.pv P.trigMode st) || s.pv P.trigMode st == E.trigMode.TIME) || !(s.head b).waiting.isEmpty
    || (s.head b).upRetrain.isSome
  if s.pv P.laneState b = E.laneState.UP ∧ s.linkUp b = true ∧ idle ≠ 0 ∧ busy = false ∧ (s.head b).lastUp + us idle ≤ s.now then
    ((s.sleepLink b 0).setLaneSts b E.laneState.EI)
  else s

/-! ## The one-way delay (R112, R118) -/

def runDelayProbeTimer (h : Fin 32) (t : Nat) (s : Dev) : Dev :=
  let s := s.at' t
  let x := s.head h
  if s.linkUp h ∧ (s.lane h).upPower = 0 ∧ s.loopOf h = E.laneLoop.NONE ∧ x.probeAt + s.laneTime h (ms 1) ≤ s.now then
    ((s.setHead h { x with probeAt := s.now }).sendProbe h)
  else s

/-- DELAY_ECHO: in DELAY one of the 16 samples that are averaged, in UP a sample of weight 1/16.
DESIGN CHOICE, entry 25. -/
def runDelayEcho (h : Fin 32) (echo : Option (Nat × Nat)) (t : Nat) (s : Dev) : Dev :=
  let got := (s.at' t).nextCtl h (· == 0x66) (echo.map (fun e => [0x66] ++ le 2 e.1 ++ le 4 e.2))
  let s := got.1
  let num := fld (got.2.getD []) 1 2
  let turnaround := fld (got.2.getD []) 3 4
  let x := s.head h
  let ph := (s.lane h).phase
  match x.probe with
  | none => s
  | some (n, t0) =>
    if got.2 = none ∨ n ≠ num then s
    else
      let twice : Int := (s.now : Int) - t0 - turnaround
      if ph = phDelay then
        let sum : Int := (x.delaySum : Int) + twice
        let k := x.echoes + 1
        let s := s.setHead h { x with probe := none, delaySum := sum.toNat, echoes := k }
        if k < 16 then (s.sendProbe h)
        else
          let s := s.setP P.headDelayPs h ((roundTo Config.delayUp sum 32).toNat % 2 ^ 32)
          ((s.enterPhase h phIdent).putUp h 0x84 0 (List.replicate 15 0) 0 [])
      else if ph = phUp then
        let d : Int := s.pv P.headDelayPs h
        let s := s.setHead h { x with probe := none }
        (s.setP P.headDelayPs h ((d + roundTo Config.delayUp (twice - 2 * d) 32).toNat % 2 ^ 32))
      else s

def runHeadInfo (h : Fin 32) (pkt : Option Bytes) (t : Nat) (s : Dev) : Dev :=
  ((s.at' t).rxPkt h 0x41 pkt (fun s p =>
    let s := s.forEach (List.range 8) (fun s i => s.setK (pkey P.headInfo h i) (fld p.pay (8 * i) 8))
    if (s.lane h).phase = phIdent then s.linkCameUp h else s))

def runHeadStatus (h : Fin 32) (pkt : Option Bytes) (t : Nat) (s : Dev) : Dev :=
  ((s.at' t).rxPkt h 0x42 pkt (fun s p =>
    let s := (s.setP P.headTemp h (fld p.f 0 2)).setP P.headFault h (fld p.f 2 2)
    s.setHead h { s.head h with temp := some (ofTwos 16 (fld p.f 0 2)) }))

/-- A packet of a type that the device does not know. -/
def runUnknownTypePacket (h : Fin 32) (pkt : Option Bytes) (s : Dev) : Dev :=
  let ty := (parsePkt ((s.nextPkt h pkt).getD [])).ty
  if [0x01, 0x02, 0x03, 0x40, 0x41, 0x42].contains ty then s
  else (s.rxPkt h ty pkt (fun s _ => s.bump P.headUnknownCount h 1))

/-! ## Awaited messages (R121, R152, R155) -/

/-- A message is answered or given up: its command completes; a refused exposure set is no longer pending. -/
def Dev.msgEnd (s : Dev) (h : Nat) (m : Msg) (code value : Nat) (effect : Bool) : Dev :=
  let x := s.head h
  let s := s.setHead h { x with waiting := x.waiting.filter (fun y => y.tag != m.tag) }
  let s :=
    if m.ty = 0x81 ∧ code ≠ C.ok then
      s.forEach (bitsOf 64 m.streams) (fun s i =>
        s.setSets i ((s.stream i).sets.reverse.erase m.set).reverse)
    else s
  if (s.mb m.mb).wait = .ack h m.tag then s.finish m.mb code 0 value effect [] else s

/-- Exposure sets that waited for one of the four places are sent (R155). -/
def Dev.sendWaiting (s : Dev) (h : Nat) : Dev :=
  s.wake (fun w => w == .slotFree h) (fun s m => s.tryExpose m ((s.mb m).request m))

/-- ACK from a head. Its ACKED_TYPE is not compared with the TYPE of the message that its REF_TAG names, which the manual
does not ask for (R121). DESIGN CHOICE, entry 27. -/
def runAck (h : Fin 32) (pkt : Option Bytes) (t : Nat) (s : Dev) : Dev :=
  ((s.at' t).rxPkt h 0x40 pkt (fun s p =>
    let result := fld p.f 1 1
    let tag := fld p.f 2 2
    let value := fld p.f 4 4
    let x := s.head h
    match x.waiting.find? (fun m => m.tag == tag) with
    | none => if x.done.contains tag then s.bump P.headDupAckCount h 1 else s
    | some m =>
      if 3 < result then s
      else
        let s := s.setHead h { x with done := tag :: x.done }
        let eff := (s.mb m.mb).effect
        let s :=
          if result = 0 then s.msgEnd h m C.ok value eff
          else s.msgEnd h m (if result = 1 then C.late else if result = 2 then C.badValue else C.unsupported) 0 false
        s.sendWaiting h))

/-- ACK_TIMEOUT (R121). DESIGN CHOICE, entry 27. -/
def runAckTimeout (h : Fin 32) (tag : Nat) (t : Nat) (s : Dev) : Dev :=
  let s := s.at' t
  let x := s.head h
  match x.waiting.find? (fun m => m.tag == tag) with
  | none => s
  | some m =>
    if s.now < m.sentAt + us (s.pv P.headAckTimeoutUs h) then s
    else if m.resends < 3 then
      let s := s.setHead h { x with waiting := x.waiting.map (fun y =>
        if y.tag = tag then { y with resends := y.resends + 1, sentAt := s.now } else y) }
      (s.sendUp h m.ty 0 (m.pkt.take 15) m.tag (m.pkt.drop 15))
    else
      let s := s.setP P.headState h E.headState.HEAD_FAULT
      ((s.msgEnd h m C.headFault 0 true).sendWaiting h)

/-! ## PLLs (R369, R370) -/

/-- Links of a tile: their lowest lanes. -/
def Dev.linksOf (s : Dev) (tile : Nat) : List Nat :=
  ((List.range 8).map (fun i => 8 * tile + i)).filter (fun l =>
    s.linkBase l == l && s.pv P.laneMode l == E.laneMode.LINK)

/-- Bring-up of a tile's links starts anew. -/
def Dev.retrainTile (s : Dev) (tile : Nat) : Dev := s.forEach (s.linksOf tile) (fun s b => s.attempt b 1)

/-- A PLL reports lock: its block leaves reset or WAIT_LOCK; the PCI Express edge starts link training unless
PE_PERST_N is asserted. -/
def runPllLock (tile : Fin 5) (t : Nat) (s : Dev) : Dev :=
  let s := s.at' t
  if s.rst.unlocked.get false tile then
    let s := { s with rst := { s.rst with
      unlocked := s.rst.unlocked.set false tile false, waitLock := s.rst.waitLock.set false tile false } }
    if tile.val = 4 then (if s.rst.perstLow then s else s.emit .linkTrain)
    else (s.retrainTile tile)
  else s

/-- A running tile's PLL loses lock: WAIT_LOCK, and its links go down. -/
def runPllLockLoss (tile : Fin 4) (t : Nat) (s : Dev) : Dev :=
  let s := s.at' t
  if s.rst.unlocked.get false tile then s
  else
    let s := { s with rst := { s.rst with
      unlocked := s.rst.unlocked.set false tile true, waitLock := s.rst.waitLock.set false tile true } }
    (s.forEach (s.linksOf tile) (fun s b =>
      let s := if s.linkUp b then s.linkFail b else s.attempt b 1
      s.idleLanes b))

/-! ## The commands -/

/-- TRAINING_FRAME. -/
def execTrainingFrame (l : Fin 32) (frame : List (Fin 4)) (t : Nat) (s : State) : Out := s.onDev (runTrainingFrame l frame t)

/-- BRINGUP_TIMEOUT. -/
def execBringupTimeout (l : Fin 32) (t : Nat) (s : State) : Out := s.onDev (runBringupTimeout l t)

/-- BACKOFF_EXPIRE. -/
def execBackoffExpire (l : Fin 32) (t : Nat) (s : State) : Out := s.onDev (runBackoffExpire l t)

/-- ABSENT_PROBE. -/
def execAbsentProbe (l : Fin 32) (t : Nat) (s : State) : Out := s.onDev (runAbsentProbe l t)

/-- FEC_CODEWORD. -/
def execFecCodeword (l : Fin 32) (msg parity : List (Fin 4)) (t : Nat) (s : State) : Out :=
  s.onDev (runFecCodeword l (msg ++ parity) t)

/-- ALIGN. -/
def execAlign (l : Fin 32) (payload : Option Bytes) (t : Nat) (s : State) : Out := s.onDev (runAlign l payload t)

/-- SLEEP. -/
def execSleep (l : Fin 32) (kind : Option (BitVec 8)) (s : State) : Out := s.onDev (runSleep l kind)

/-- RETRAIN_REQ. -/
def execRetrainReq (l : Fin 32) (num : Option (BitVec 8)) (t : Nat) (s : State) : Out := s.onDev (runRetrainReq l num t)

/-- UP_RETRAIN_START. -/
def execUpRetrainStart (h : Fin 32) (t : Nat) (s : State) : Out := s.onDev (runUpRetrainStart h t)

/-- EQ_DRIFT_CHECK. -/
def execEqDriftCheck (l : Fin 32) (boost : Nat) (dfe : List Nat) (t : Nat) (s : State) : Out :=
  s.onDev (runEqDriftCheck l (boost :: dfe) t)

/-- LINK_DOWN. -/
def execLinkDown (l : Fin 32) (why : DownCause) (t : Nat) (s : State) : Out := s.onDev (runLinkDown l why t)

/-- RETRAIN_COMPLETE. -/
def execRetrainComplete (l : Fin 32) (converged : Bool) (values : List Nat) (t : Nat) (s : State) : Out := s.onDev (runRetrainComplete l converged values t)

/-- EI_ENTRY. -/
def execEiEntry (l : Fin 32) (t : Nat) (s : State) : Out := s.onDev (runEiEntry l t)

/-- DELAY_PROBE_TIMER. -/
def execDelayProbeTimer (h : Fin 32) (t : Nat) (s : State) : Out := s.onDev (runDelayProbeTimer h t)

/-- DELAY_ECHO. -/
def execDelayEcho (h : Fin 32) (num : Option Nat) (turnaround : Nat) (t : Nat) (s : State) : Out :=
  s.onDev (runDelayEcho h (num.map (·, turnaround)) t)

/-- HEAD_INFO. -/
def execHeadInfo (h : Fin 32) (pkt : Option Bytes) (t : Nat) (s : State) : Out := s.onDev (runHeadInfo h pkt t)

/-- HEAD_STATUS. -/
def execHeadStatus (h : Fin 32) (pkt : Option Bytes) (t : Nat) (s : State) : Out := s.onDev (runHeadStatus h pkt t)

/-- UNKNOWN_TYPE_PACKET. -/
def execUnknownTypePacket (h : Fin 32) (pkt : Option Bytes) (s : State) : Out := s.onDev (runUnknownTypePacket h pkt)

/-- ACK. -/
def execAck (h : Fin 32) (pkt : Option Bytes) (t : Nat) (s : State) : Out := s.onDev (runAck h pkt t)

/-- ACK_TIMEOUT. -/
def execAckTimeout (h : Fin 32) (tag : Nat) (t : Nat) (s : State) : Out := s.onDev (runAckTimeout h tag t)

/-- PLL_LOCK. -/
def execPllLock (tile : Fin 5) (t : Nat) (s : State) : Out := s.onDev (runPllLock tile t)

/-- PLL_LOCK_LOSS. -/
def execPllLockLoss (tile : Fin 4) (t : Nat) (s : State) : Out := s.onDev (runPllLockLoss tile t)

end Sys2Proof.Machine
end

