-- ==== Sys2Proof/Machine/Ligature.lean ====
section
/-! DEFINITION. Webs: forming lines, starting and stopping (R218 to R229, R332). -/
namespace Sys2Proof.Machine

/-- Ligature forms the web line of the next grid point once every member line it needs is there, or will not come; the
last point of a web that HOLD or a stop ends closes its frame (R227, R228). `excess`: the members' input exceeds what the web
can accept at present, and its line is dropped (R230); `errs`: errors with which words of the line buffers are read, by
member, line and place (R253). -/
def runWebLineForm (w : Fin 4) (excess : Bool) (errs : List (Nat × Nat × Nat × Bytes)) (t : Nat) (s : Dev) : Dev :=
  let s := s.at' t
  if (s.web w).running then ((s.webForm w excess errs).1.webEndNow w) else s

/-- The conditions on the members of a web (R218, R219), and the footprint of R191. -/
def Dev.webOk (s : Dev) (w : Nat) : Bool :=
  let n := s.ligCount w
  let m0 := s.ligSlot w 0
  decide (0 < n) && (List.range n).all (fun i =>
    let m := s.ligSlot w i
    let same := fun (id : Nat) => s.pv id m == s.pv id m0
    s.pv P.trigMode m == E.trigMode.POSITION && s.pv P.trigRearm m == E.trigRearm.NONE && same P.trigAxis
      && same P.trigPitch && same P.plateOutBits && same P.plateOutPlanes)
  && s.fits (64 + w)

/-- A web begins to run, its frames and tiles numbered from 0 (R193, R228, R332). -/
def Dev.startWeb (s : Dev) (w : Nat) : Dev :=
  let s := s.startSeq (64 + w)
  let s := { s with mer := { s.mer with webFrames := s.mer.webFrames.filter (fun f => f.web != w) } }
  let held := s.mode M.hold
  let s := s.setWeb w { Web.reset with running := true, held := held, modes := s.pv P.modeWord 0 % 8 }
  (s.allocWeb w (s.webNeed w)).setP P.ligState w (if held then E.ligState.HELD else E.ligState.RUNNING)

def runWebStart (mb : Fin 21) (t : Nat) (s : Dev) : Dev :=
  (s.at' t).cmd mb 0x0032 (fun s r =>
    let mask := fld r.pay 0 1
    let l := bitsOf 4 mask
    let need : Nat := (l.map s.webNeed).foldl (· + ·) 0
    let held : Nat := (l.map (fun i => (s.web i).mem)).foldl (· + ·) 0
    if 15 < mask then s.fail mb C.badValue
    else if l.any (fun w => (s.web w).running) then s.fail mb C.busy
    else if l.any (fun w => !s.webOk w) then s.fail mb C.badValue
    else if s.memFree + (held : Nat) < (need : Nat) then s.fail mb C.noMemory
    else ((s.forEach l Dev.startWeb).modePending).done mb)

/-- A stop of one web: its frame ends when the lines of the points fired so far are formed (R134, R228). -/
def Dev.stopWeb (s : Dev) (w : Nat) : Dev :=
  if (s.web w).running then
    let s := s.webDrain w
    if (s.web w).points.isEmpty then s.webHalt w else s.setWeb w { s.web w with ending := 2 }
  else s

def runWebStop (mb : Fin 21) (t : Nat) (s : Dev) : Dev :=
  (s.at' t).cmd mb 0x0033 (fun s r =>
    let mask := fld r.pay 0 1
    if 15 < mask then s.fail mb C.badValue
    else if (bitsOf 4 mask).any (fun w => (s.web w).running) then
      let s := s.await mb (.webs mask) true
      let s := s.forEach (bitsOf 4 mask) Dev.stopWeb
      (if (bitsOf 4 mask).any (fun w => (s.web w).running) then s else s.done mb)
    else s.answer mb 0 [])

/-! ## The commands -/

/-- WEB_LINE_FORM. -/
def execWebLineForm (input : WebInput) (t : Nat) (s : State) : Out :=
  s.onDev (runWebLineForm input.web input.excess input.errs t)

/-- WEB_START. -/
def execWebStart (mb : Fin 21) (t : Nat) (s : State) : Out := s.onDev (runWebStart mb t)

/-- WEB_STOP. -/
def execWebStop (mb : Fin 21) (t : Nat) (s : State) : Out := s.onDev (runWebStop mb t)

end Sys2Proof.Machine
end

