-- ==== Sys2Proof/Machine/QuillOps.lean ====
section
/-! DEFINITION. Quill: descriptors and their footprints, completion, credits, what a channel delivers next (R271, R276,
R281 to R299, R346, R347). -/
namespace Sys2Proof.Machine

/-! ## Channel states (R274) -/

abbrev chIdle : Nat := 0
abbrev chRun : Nat := 1
abbrev chTail : Nat := 2
abbrev chStopping : Nat := 3
abbrev chStopped : Nat := 4
abbrev chFetchErr : Nat := 5
abbrev chHeld : Nat := 6

def Dev.modChan (s : Dev) (c : Nat) (f : Chan → Chan) : Dev := s.setChan c (f (s.chan c))

/-- Put a channel in a state; `quill.state` shows it. -/
def Dev.chanState (s : Dev) (c v : Nat) : Dev :=
  (s.modChan c (fun x => { x with state := v })).setP P.quillState c v

/-- A bit of QCn_EVENTS; INT_CH_ERR when it goes from 0 to 1 (R274). -/
def Dev.chanEvent (s : Dev) (c b : Nat) : Dev :=
  if bit (s.chan c).events b then s
  else (s.modChan c (fun x => { x with events := setBit x.events b })).raise0 (64 + c)

/-- Whether a channel moves data at present: RUN or STOPPING, with Bus Master Enable (R280). -/
def Dev.chanMoves (s : Dev) (c : Nat) : Bool :=
  s.quill.bme0 && ((s.chan c).state == chRun || (s.chan c).state == chStopping)

/-! ## Descriptors (R281 to R284) -/

def Desc.endBit (d : Desc) : Bool := bit (fld d.words 0 8) 0
def Desc.irq (d : Desc) : Bool := bit (fld d.words 0 8) 1
def Desc.close (d : Desc) : Bool := bit (fld d.words 0 8) 2
def Desc.buf (d : Desc) : Nat := fld d.words 8 8
def Desc.limit (d : Desc) : Nat := fld d.words 16 5
def Desc.start (d : Desc) : Nat := fld d.words 24 5

/-- A 16-bit count, 0 meaning 65,536. -/
def count16 (v : Nat) : Nat := if v = 0 then 65536 else v

def Desc.elem (d : Desc) : Nat := count16 (fld d.words 29 2)
def Desc.swap (d : Desc) : Nat := fld d.words 31 1 % 4
def Desc.c0 (d : Desc) : Nat := count16 (fld d.words 32 2)
def Desc.c1 (d : Desc) : Nat := count16 (fld d.words 34 2)
def Desc.c2 (d : Desc) : Nat := count16 (fld d.words 36 2)
def Desc.s0 (d : Desc) : Int := ofTwos 32 (fld d.words 40 4)
def Desc.s1 (d : Desc) : Int := ofTwos 32 (fld d.words 44 4)
def Desc.s2 (d : Desc) : Int := ofTwos 32 (fld d.words 48 4)

/-- T of R282. -/
def Desc.total (d : Desc) : Nat := d.elem * d.c0 * d.c1 * d.c2

/-- Whether a RSV field is not zero. -/
def Desc.rsvBad (d : Desc) : Bool :=
  bits (fld d.words 0 8) 3 3 != 0 || fld d.words 21 3 != 0 || fld d.words 31 1 / 4 != 0 || fld d.words 38 2 != 0

/-- lo and hi of R283. -/
def Desc.span (d : Desc) : Int × Int :=
  let l := [((d.c0 - 1 : Nat) : Int) * d.s0, ((d.c1 - 1 : Nat) : Int) * d.s1, ((d.c2 - 1 : Nat) : Int) * d.s2]
  (l.foldl (fun a x => a + min 0 x) (d.start : Int), l.foldl (fun a x => a + max 0 x) (d.start : Int) + d.elem)

/-- CODE of a bad descriptor (R283); none for a good one. DESIGN CHOICE, entry 50. -/
def Desc.badCode (d : Desc) (pack : Bool) : Option Nat :=
  if d.span.1 < 0 ∨ (d.limit : Int) < d.span.2 ∨ 2 ^ 64 < d.buf + d.limit then some 1
  else if d.rsvBad = true ∨ (d.swap = 1 ∧ d.elem % 2 = 1) ∨ (2 ≤ d.swap ∧ d.elem % 4 ≠ 0)
      ∨ (pack = true ∧ d.elem % 32 ≠ 0) then some 2
  else none

/-- Address of element `e` in the order of R282. -/
def Desc.elemAddr (d : Desc) (e : Nat) : Nat :=
  let a : Int := (d.buf : Int) + d.start + (e % d.c0 : Nat) * d.s0 + (e / d.c0 % d.c1 : Nat) * d.s1
    + (e / d.c0 / d.c1 : Nat) * d.s2
  (a % 2 ^ 64).toNat

/-- Cut bytes at an offset of the descriptor into pieces of one element each: element address, offset, bytes. -/
def Desc.cut (d : Desc) : Nat → Nat → Bytes → List (Nat × Nat × Bytes)
  | 0, _, _ => []
  | n + 1, off, b =>
    if b.isEmpty then []
    else
      let w := off % d.elem
      let k := d.elem - w
      (d.elemAddr (off / d.elem), w, b.take k) :: Desc.cut d n (off + k) (b.drop k)

/-- Reorder the bytes of whole groups (R284): byte k of an element goes to place k XOR SWAP. -/
def swapBytes (m : Nat) (b : Bytes) : Bytes :=
  if m = 0 then b else (List.range b.length).map (fun i => b.getD (i ^^^ m) 0)

/-- The host writes of one piece; a group that is not whole goes byte by byte. -/
def pieceWrites (ns : Bool) (m addr w : Nat) (b : Bytes) : List Output :=
  let g := if m = 0 then 1 else if m = 1 then 2 else 4
  let full := if w % g = 0 then b.length / g * g else 0
  (if full = 0 then [] else [.hostWrite (addr + w) (swapBytes m (b.take full)) ns])
    ++ (b.drop full).zipIdx.map (fun p => .hostWrite (addr + ((w + full + p.2) ^^^ m)) [p.1] ns)

def Desc.writes (d : Desc) (ns : Bool) (b : Bytes) : List Output :=
  (d.cut (b.length / d.elem + 2) d.moved b).flatMap (fun p => pieceWrites ns d.swap p.1 p.2.1 p.2.2)

/-- Write payload bytes into the descriptor in progress. -/
def Dev.putFootprint (s : Dev) (c : Nat) (b : Bytes) : Dev :=
  match (s.chan c).desc with
  | none => s
  | some d =>
    let s := (d.writes (s.pv P.quillNosnoop c == 1) b).foldl Dev.emit s
    let s := s.modChan c (fun x => { x with desc := some { d with moved := d.moved + b.length } })
    s.bump P.quillBytes c b.length

/-- Complete the descriptor in progress: the completion word, INT_CH_DONE with IRQ; the LINK read is issued, which
clears the pending flag (R285, R287). DESIGN CHOICE, entry 50. -/
def Dev.completeDesc (s : Dev) (c code : Nat) : Dev :=
  match (s.chan c).desc with
  | none => s
  | some d =>
    let s := s.emit (.hostWrite (d.addr + 56) (le 5 d.moved ++ le 1 code ++ [0, 0x80]) false)
    let s := s.modChan c (fun x => { x with
      lastCode := code, doneCount := (x.doneCount + 1) % 2 ^ 32, desc := none, phase := .link d.addr, pendFlag := false })
    if d.irq then s.raise0 c else s

/-- The channel is STOPPED: DMA_STOP completes (R290). -/
def Dev.chanStopped (s : Dev) (c : Nat) : Dev :=
  let s := (s.modChan c (fun x => { x with phase := .none, desc := none, pendFlag := false })).chanState c chStopped
  s.wake (· == .chan c) (fun s m => s.done m)

/-- A STOPPING channel has come to its end (R290). DESIGN CHOICE, entry 51. -/
def Dev.stopHere (s : Dev) (c : Nat) : Dev := (s.completeDesc c 5).chanStopped c

/-- A descriptor or LINK read failed (R286). -/
def Dev.fetchError (s : Dev) (c : Nat) : Dev :=
  let s := ((s.modChan c (fun x => { x with phase := .none, desc := none })).chanState c chFetchErr).chanEvent c 1
  s.wake (· == .chan c) (fun s m => s.done m)

/-! ## Credits (R291, R292, R346, R347) -/

/-- A of R291. -/
def Dev.rateA (s : Dev) (share : Nat) : Nat := share * s.pv P.quillLinkMbps 0 * 16 / 2500

/-- A credit `dt` rt later. -/
def grow (k : Int) (a dt : Nat) : Int := min (k + (a * dt : Nat)) (256 * 4096)

/-- The source whose mode a channel belongs to: a metadata channel's is that of its IMAGE channel. -/
def Dev.modeSrc (s : Dev) (c : Nat) : Nat :=
  if s.pv P.quillSrc c = 0xFFFF then
    match (List.range 48).find? (fun i => s.pv P.quillForm i == E.quillForm.IMAGE && s.pv P.quillMetaChan i == c) with
    | some i => s.pv P.quillSrc i
    | none => 0xFFFF
  else s.pv P.quillSrc c

/-- The shared credits that apply to a channel: the previews', ACQUIRE's, TAP's. -/
def Dev.shares (s : Dev) (c : Nat) : Bool × Bool × Bool :=
  if 48 ≤ c ∨ s.mode M.survey = false then (false, false, false)
  else
    let src := s.modeSrc c
    let acqSrc := decide (src < 0x44) || (decide (0x100 ≤ src) && decide (src < 0x144))
      || (decide (0x15C ≤ src) && decide (src < 0x168))
    let tapSrc := decide (0x144 ≤ src) && decide (src < 0x154)
    let both := s.mode M.acquire && s.mode M.tap
    (decide (0x154 ≤ src) && decide (src < 0x15C),
     (s.mode M.acquire && acqSrc) || (both && tapSrc),
     s.mode M.tap && !both && tapSrc)

/-- Bring a channel's credit and the shared ones up to the present rt; a rate written since takes effect (R291).
DESIGN CHOICE, entry 50. -/
def Dev.accrue (s : Dev) (c : Nat) : Dev :=
  let s := s.modChan c (fun x => { x with
    credit := grow x.credit (s.rateA x.rate) (s.rt - x.creditAt), creditAt := s.rt, rate := s.pv P.quillRate c })
  let q := s.quill
  let dt := s.rt - q.at'
  { s with quill := { q with
      survey := grow q.survey (s.rateA 16) dt, acq := grow q.acq (s.rateA 240) dt, tap := grow q.tap (s.rateA 240) dt
      at' := s.rt } }

/-- Whether every credit that applies allows a request. DESIGN CHOICE, entry 50. -/
def Dev.creditOk (s : Dev) (c : Nat) : Bool :=
  let (v, a, t) := s.shares c
  (s.pv P.quillRate c == 0 || decide (0 ≤ (s.chan c).credit)) && (!v || decide (0 ≤ s.quill.survey))
    && (!a || decide (0 ≤ s.quill.acq)) && (!t || decide (0 ≤ s.quill.tap))

/-- Charge the payload bytes moved. -/
def Dev.spend (s : Dev) (c n : Nat) : Dev :=
  let (v, a, t) := s.shares c
  let k : Int := 256 * n
  let s := if s.pv P.quillRate c = 0 then s else s.modChan c (fun x => { x with credit := x.credit - k })
  let q := s.quill
  { s with quill := { q with
      survey := if v then q.survey - k else q.survey
      acq := if a then q.acq - k else q.acq
      tap := if t then q.tap - k else q.tap } }

/-! ## Rings (R145, R280, R295) -/

/-- The ring of a source 0–67. -/
def Dev.ringOf (s : Dev) (src : Nat) : List RingItem :=
  if src < 64 then (s.stream src).ring else (s.web (src - 64)).ring

def RingItem.forHost : RingItem → Bool
  | .line _ _ _ _ h => h
  | _ => true

/-- The next item of a ring that a channel delivers. -/
def Dev.ringNext (s : Dev) (src : Nat) : Option RingItem := (s.ringOf src).find? RingItem.forHost

/-- The first item for the host is done with. -/
def ringDone : List RingItem → List RingItem
  | [] => []
  | .line l b c t true :: r => .line l b c t false :: r
  | .line l b c t false :: r => .line l b c t false :: ringDone r
  | .start .. :: r => r
  | .fin .. :: r => r

/-- Quill has written the first item: a line of it is free (R280). DEDUCED, entry 70. -/
def Dev.ringPop (s : Dev) (src : Nat) : Dev := s.modRing src (fun r => pruneRing true (ringDone r))

/-- The next item of a ring, its line read with the errors `errs` (R250, R253). -/
def Dev.ringRead (s : Dev) (src : Nat) (errs : List (Nat × Bytes)) : Dev × Option RingItem :=
  match s.ringNext src with
  | some (.line l b c x y) =>
    let (s, l) := s.readLine src b l errs
    (s, some (.line l b c x y))
  | i => (s, i)

/-- The record of a ring item, with the first samples of the lines before. -/
def ringRecord (src : Nat) (prev : List (Option Nat)) : RingItem → Bytes × List (Option Nat)
  | .start frame planes sb coded width =>
    (recFrameStart (seqKind src) (seqIndex src) frame planes sb (b2n coded) 0 width, [])
  | .line l bits' coded _ _ =>
    (recLine (seqKind src) (seqIndex src) l.info (linePixels bits' coded prev l.planes) false, firstSamples l.planes)
  | .fin _ rec => (rec, [])

/-! ## Queue items (R260, R266, R293, R299) -/

/-- The records an item holds, by their LENGTH. -/
def splitRecs : Nat → Bytes → List Bytes
  | 0, b => [b]
  | n + 1, b =>
    let len := fld b 4 4
    if len < 32 ∨ b.length ≤ len then [b] else b.take len :: splitRecs n (b.drop len)

/-- A record as it goes out: TB, and POISON in its FLAGS. -/
def outRecord (tb : Nat) (poison : Bool) (r : Bytes) : Bytes :=
  let r := stampTb r tb
  if poison then r.modify 2 (fun x => x ||| 1) else r

/-- Take up to `n` words of one item, as far as they may be taken. -/
def Dev.takeWords (s : Dev) (q : Nat) : Nat → List QWord → Dev × List QWord
  | 0, l => (s, l.reverse)
  | n + 1, l =>
    match s.qRead q [] with
    | (s, none) => (s, l.reverse)
    | (s, some w) => if w.last || w.torn then (s, (w :: l).reverse) else Dev.takeWords s q n (w :: l)

/-- SRC_KIND and SRC_INDEX of a queue's records, as far as the queue alone tells them. -/
def queueKind (q : Nat) : Nat × Nat :=
  if q < 68 then (seqKind q, seqIndex q) else if q < 84 then (2, q - 68) else if q < 92 then (3, 0)
  else if 100 ≤ q ∧ q < 104 then (1, q - 100) else (0, 0)

/-- What is left in the queue of the last of the records in `r`: none of it if it is whole; all of an item that is no
record. -/
def recLeft (r : Bytes) : Nat := if fld r 4 4 < 32 then 2 ^ 40 else fld r 4 4 - r.length

/-- The words as they go out: the first `left` bytes belong to a record begun before; each later record gets TB, and
POISON if one of its words, taken or still to be taken (`after`), is poisoned (R293, R299). With the TYPE of the last
record and what is left of it in the queue. -/
def outItem (tb left ty : Nat) (after : List Bool) (data : List QWord) : Bytes × Nat × Nat :=
  let raw := data.flatMap (fun w => if w.poison then List.replicate 32 0 else slice w.data 0 32)
  let marks := data.map QWord.poison
  let old := raw.take left
  let recs := if raw.length ≤ left then [] else splitRecs data.length (raw.drop left)
  let left' := match recs.getLast? with | some r => recLeft r | none => left - old.length
  let out := (recs.foldl (fun (a : Bytes × Nat) r =>
    let far := if a.2 + r.length / 32 < data.length then [] else after.take (left' / 32)
    let p := ((marks.drop a.2).take (r.length / 32) ++ far).any id
    (a.1 ++ outRecord tb p r, a.2 + r.length / 32)) (old, old.length / 32)).1
  (out, match recs.getLast? with | some r => fld r 0 1 | none => ty, left')

/-- Take what a queue has of one record for a channel, word by word, no further than the descriptor has room (R259, R266,
R280, R290). `errs`: errors with which words of the record are read, by their place from the first still in the queue; they
are found when the record's header goes out, so that its FLAGS tell of them (R299). DESIGN CHOICE, entry 50. -/
def Dev.queueTake (s : Dev) (c q : Nat) (errs : List (Nat × Bytes)) : Dev :=
  let s := errs.foldl (fun s e => s.qCheck q e.1 (slice e.2 0 35)) s
  let x := s.chan c
  let room := match x.desc with | some d => (d.total - d.moved) / 32 | none => 0
  let (s, ws) :=
    if x.left = 0 then
      match s.takeWords q (Nat.min room 1) [] with
      | (s, [w]) =>
        if w.last || w.torn then (s, [w])
        else
          let n := fld w.data 4 4 / 32
          s.takeWords q (if n = 0 then room - 1 else Nat.min (room - 1) (n - 1)) [w]
      | r => r
    else s.takeWords q (Nat.min room (x.left / 32)) []
  let data := ws.filter (fun w => !w.torn)
  let torn := ws.any QWord.torn
  let last := ws.any QWord.last
  let poisoned := (data.filter QWord.poison).length
  let marks := (s.queue q).words.map (fun w =>
    let p := s.wordOf (.queue q) w.at'
    w.poison || s.poison.get false (bankKey p.1 p.2))
  let (out, ty, left) := outItem s.tb x.left x.restType marks data
  let src := if x.left = 0 ∧ ¬ data.isEmpty then (fld out 8 1, fld out 9 1) else if x.left = 0 then queueKind q else x.restSrc
  let tail := if torn then stampTb (recordOf 0x3F 0 src.1 src.2 0 0 []) s.tb else []
  let more := if ws.isEmpty then x.more else !torn && !last && decide (0 < left)
  let s := s.modChan c (fun x => { x with
    rest := x.rest ++ out ++ tail, restType := if torn then 0x3F else ty, more := more, left := if more then left else 0
    restSrc := src })
  let s := if poisoned = 0 then s else (s.bump P.quillPoisonCount c poisoned).chanEvent c 3
  if torn then (s.bump P.quillTornCount c 1).chanEvent c 4 else s

/-- The record in progress was cut off behind its last word taken: it ends there (R299). -/
def Dev.recordCut (s : Dev) (c q : Nat) : Dev :=
  if (s.queue q).cutOff then
    (s.setQueue q { s.queue q with cutOff := false }).modChan c (fun x => { x with more := false, left := 0 })
  else s

/-- The next record of a channel in PACK form becomes its `rest`. DESIGN CHOICE, entry 50. -/
def Dev.loadRecord (s : Dev) (c : Nat) (errs : List (Nat × Bytes)) : Dev :=
  let src := s.pv P.quillSrc c
  if src < 68 then
    match s.ringRead src errs with
    | (s, none) => s
    | (s, some i) =>
      let (r, prev) := ringRecord src (s.chan c).prev0 i
      let s := if r.isEmpty then s.ringPop src else s
      s.modChan c (fun x => { x with
        rest := stampTb r s.tb, restType := fld r 0 1, ringHeld := !r.isEmpty, prev0 := prev })
  else if 0x100 ≤ src ∧ src < 0x168 then s.queueTake c (src - 0x100) errs
  else
    match (s.chan c).metas with
    | [] => s
    | r :: l => s.modChan c (fun x => { x with metas := l, rest := stampTb r s.tb, restType := fld r 0 1 })

/-- Records that end a descriptor with CLOSE (R297). -/
def closes (ty : Nat) : Bool := [0x03, 0x11, 0x20, 0x21].contains ty

/-- The record in progress has been written whole. -/
def Dev.recordEnd (s : Dev) (c : Nat) : Dev :=
  let x := s.chan c
  let s := if x.ringHeld then (s.ringPop (s.pv P.quillSrc c)).modChan c (fun x => { x with ringHeld := false }) else s
  let s := match (s.chan c).desc with
    | some d => if d.close && closes x.restType then s.completeDesc c 0 else s
    | none => s
  if x.state = chStopping then s.stopHere c else s

/-- The bytes of the next request from `n` bytes: within one element and the largest payload (R270, R291). -/
def Dev.requestOf (s : Dev) (c max n : Nat) : Nat :=
  match (s.chan c).desc with
  | none => 0
  | some d => Nat.min (Nat.min max n) (Nat.min (d.elem - d.moved % d.elem) (d.total - d.moved))

/-- Write bytes into the descriptor in progress, request by request, as far as the credits and the descriptor allow; what
is left. -/
def Dev.writeRequests (s : Dev) (c : Nat) : Nat → Bytes → Dev × Bytes
  | 0, b => (s, b)
  | fuel + 1, b =>
    let n := s.requestOf c (s.pv P.quillMps 0) b.length
    if n = 0 ∨ s.creditOk c = false then (s, b)
    else Dev.writeRequests ((s.putFootprint c (b.take n)).spend c n) c fuel (b.drop n)

/-- Write what is left of the record in progress into the descriptor, as far as it goes (R291, R297). -/
def Dev.pour (s : Dev) (c : Nat) : Dev :=
  let x := s.chan c
  let (s, left) := s.writeRequests c x.rest.length x.rest
  let s := s.modChan c (fun x => { x with rest := left })
  let s := match (s.chan c).desc with
    | some d => if d.moved = d.total then s.completeDesc c 0 else s
    | none => s
  if left.isEmpty && !x.more && !x.rest.isEmpty then s.recordEnd c else s

end Sys2Proof.Machine
end

