-- ==== Sys2Proof/Machine/Quill.lean ====
section
/-! DEFINITION. Quill's commands: starting and stopping channels, descriptors, LINK words, records, images, host reads,
MSI-X and Bus Master Enable (R265, R272, R276, R279 to R299). -/
namespace Sys2Proof.Machine

/-! ## DMA_START, DMA_STOP, QUEUE_FLUSH, doorbells (R265, R279, R287, R290, R298) -/

/-- Whether DMA_START's checks of an IMAGE channel fail: its source has no IMAGE form, or the cases of R298.
DESIGN CHOICE, entry 51. -/
def Dev.imageBad (s : Dev) (c : Nat) : Bool :=
  if 48 ≤ c ∨ s.pv P.quillForm c ≠ E.quillForm.IMAGE then false
  else
    let src := s.pv P.quillSrc c
    let m := s.pv P.quillMetaChan c
    let named := (List.range 48).any (fun i => i != c && s.pv P.quillForm i == E.quillForm.IMAGE
      && s.pv P.quillMetaChan i == m && [chRun, chTail, chStopping, chHeld].contains (s.chan i).state)
    decide (68 ≤ src) || (decide (src < 64) && s.ak (pkey P.plateOutCompress src 0) == 1)
      || (m != 255 && (s.pv P.quillSrc m != 0xFFFF || s.pv P.quillForm m != E.quillForm.PACK || named))

/-- DMA_START (R287, R298). DESIGN CHOICE, entry 69. -/
def runDmaStart (mb : Fin 21) (t : Nat) (s : Dev) : Dev :=
  (s.at' t).cmd mb 0x0050 (fun s r =>
    let c := fld r.pay 0 1
    let addr := fld r.pay 8 8
    if 63 < c ∨ addr % 64 ≠ 0 then s.fail mb C.badValue
    else if ! [chIdle, chStopped, chFetchErr].contains (s.chan c).state then s.fail mb C.busy
    else if s.imageBad c then s.fail mb C.badValue
    else
      let s := s.modChan c (fun x => { x with
        phase := .fetch addr, desc := none, pendFlag := false, credit := 0, creditAt := s.rt, heldFrom := chRun
        rate := s.pv P.quillRate c, feed := [] })
      (s.chanState c (if s.quill.bme0 then chRun else chHeld)).done mb)

/-- Whether something of a channel is in progress that a stop lets end: a record, an image frame, a host-to-device
descriptor. -/
def Dev.chanBusy (s : Dev) (c : Nat) : Bool :=
  let x := s.chan c
  if 48 ≤ c then x.desc.isSome
  else if s.pv P.quillForm c = E.quillForm.IMAGE then x.image.isSome
  else !x.rest.isEmpty || x.more

/-- DMA_STOP (R290). DESIGN CHOICE, entry 51. -/
def runDmaStop (mb : Fin 21) (s : Dev) : Dev :=
  s.cmd mb 0x0051 (fun s r =>
    let c := fld r.pay 0 1
    let x := s.chan c
    if 63 < c then s.fail mb C.badValue
    else if [chIdle, chStopped, chFetchErr].contains x.state then s.answer mb 0 []
    else
      let s := s.await mb (.chan c) true
      if x.state = chHeld then
        (if x.desc.isNone && !s.chanBusy c then s.chanStopped c
         else s.modChan c (fun x => { x with heldFrom := chStopping }))
      else
        let s := s.chanState c chStopping
        if x.state = chTail ∨ s.chanBusy c = false then s.stopHere c else s)

def runQueueFlush (mb : Fin 21) (s : Dev) : Dev :=
  s.cmd mb 0x0052 (fun s r =>
    let q := fld r.pay 0 1
    if 119 < q then s.fail mb C.badValue else (s.qFlush q).done mb)

/-- A ring of QCn_DOORBELL (R287). -/
def Dev.ringChan (s : Dev) (c : Nat) : Dev :=
  let x := s.chan c
  if x.state = chTail then
    let s := s.modChan c (fun x => { x with pendFlag := false })
    if s.quill.bme0 then s.chanState c chRun
    else (s.modChan c (fun x => { x with heldFrom := chRun })).chanState c chHeld
  else if x.state = chRun ∨ x.state = chStopping ∨ x.state = chHeld then s.modChan c (fun x => { x with pendFlag := true })
  else s

/-! ## Descriptors and LINK words (R283, R286, R287) -/

/-- A channel reads a descriptor; `none` is a failed read. A bad one completes with BYTES 0 and its CODE. -/
def runDescriptorFetch (c : Fin 64) (words : Option Bytes) (s : Dev) : Dev :=
  match s.chanMoves c, (s.chan c).phase with
  | true, .fetch addr =>
    (match words with
     | none => (s.fetchError c)
     | some b =>
       let d : Desc := ⟨addr, slice b 0 64, 0⟩
       let s := (s.modChan c (fun x => { x with desc := some d, phase := .fill })).setP P.quillCurDesc c addr
       let pack := decide (c.val < 48) && s.pv P.quillForm c == E.quillForm.PACK
       match d.badCode pack with
       | none => s
       | some code =>
         let s := (s.completeDesc c code).bump P.quillBadCount c 1
         (s.chanEvent c 0))
  | _, _ => s

/-- The LINK word of the last completed descriptor comes. With END set the channel parks, but reads again at once where a
doorbell has come since the read was issued. -/
def runLinkRead (c : Fin 64) (link : Option (BitVec 64)) (s : Dev) : Dev :=
  match s.chanMoves c, (s.chan c).phase with
  | true, .link _ =>
    (match link with
     | none => (s.fetchError c)
     | some w =>
       if bit w.toNat 0 then
         (if (s.chan c).state = chStopping then s.chanStopped c
           else if (s.chan c).pendFlag then s.modChan c (fun x => { x with pendFlag := false }) else s.chanState c chTail)
       else (s.modChan c (fun x => { x with phase := .fetch (w.toNat / 64 * 64) })))
  | _, _ => s

/-! ## Device to host (R291 to R299) -/

/-- Whether a channel may issue a data request now. -/
def Dev.mayMove (s : Dev) (c : Nat) : Bool :=
  s.chanMoves c && (s.chan c).phase == ChPhase.fill && s.creditOk c

/-- PACK form: one record, or what is left of one, goes into the footprint. `errs`: errors with which its words are
read. -/
def runRecordDeliver (c : Fin 64) (errs : List (Nat × Bytes)) (t : Nat) (s : Dev) : Dev :=
  let s := (s.at' t).accrue c
  let src := s.pv P.quillSrc c
  if 48 ≤ c.val ∨ s.pv P.quillForm c ≠ E.quillForm.PACK ∨ s.mayMove c = false then s
  else
    let s := if 0x100 ≤ src ∧ src < 0x168 ∧ (s.chan c).rest.isEmpty = true ∧ (s.queue (src - 0x100)).cutOff = true then
        (let more := (s.chan c).more
         let s := s.recordCut c (src - 0x100)
         if more then s.recordEnd c else s)
      else s
    if s.mayMove c then
      let s := if (s.chan c).rest.isEmpty then s.loadRecord c errs else s
      if (s.chan c).rest.isEmpty then s else s.pour c
    else s

/-- A record for the metadata channel of an IMAGE channel, if it has one. -/
def Dev.putMeta (s : Dev) (c : Nat) (r : Bytes) : Dev :=
  let m := s.pv P.quillMetaChan c
  if m = 255 then s else s.modChan m (fun x => { x with metas := x.metas ++ [r] })

/-- What the next item of the ring does to the image in progress. -/
inductive Imaged where
  /-- the item is done with -/
  | item
  /-- the credit has run out within a line -/
  | part
  /-- the frame has ended -/
  | frame
  deriving DecidableEq, Repr

/-- One item of the ring into the image in progress. -/
def Dev.imageItem (s : Dev) (c src : Nat) : RingItem → Dev × Imaged
  | .start frame planes sb coded width =>
    let s := s.putMeta c (recFrameStart (seqKind src) (seqIndex src) frame planes sb (b2n coded) 0 width)
    (s.modChan c (fun x => { x with image := some frame, truncated := false }), .item)
  | .line l bits' _ _ _ =>
    let px := linePixels bits' false [] l.planes
    let done := (s.chan c).lineAt
    let room := match (s.chan c).desc with | some d => d.total - d.moved | none => 0
    let n := Nat.min (px.length - done) room
    let (s, left) := s.writeRequests c n ((px.drop done).take n)
    if left.isEmpty then
      let s := s.modChan c (fun x => { x with
        image := some l.info.frame, truncated := x.truncated || decide (done + n < px.length), lineAt := 0 })
      (s.putMeta c (recLine (seqKind src) (seqIndex src) l.info (px.take (done + n)) true), .item)
    else (s.modChan c (fun x => { x with image := some l.info.frame, lineAt := done + n - left.length }), .part)
  | .fin _ rec =>
    let x := s.chan c
    let s := s.completeDesc c (if x.state = chStopping then 5 else if x.truncated then 4 else 0)
    let s := if x.truncated then (s.bump P.quillTruncCount c 1).chanEvent c 2 else s
    let s := (s.modChan c (fun x => { x with image := none, truncated := false })).putMeta c rec
    (if x.state = chStopping then s.chanStopped c else s, .frame)

/-- The items of a frame, as far as the ring holds them and the credits go. `errs`: errors of the words of the lines read,
by the line's place among the items and the word's in the line. -/
def Dev.imageRun (s : Dev) (c src : Nat) (errs : List (Nat × Nat × Bytes)) : Nat → Nat → Dev
  | 0, _ => s
  | n + 1, k =>
    match s.ringRead src ((errs.filter (fun e => e.1 == k)).map Prod.snd) with
    | (s, none) => s
    | (s, some i) =>
      match s.imageItem c src i with
      | (s, .part) => s
      | (s, .frame) => s.ringPop src
      | (s, .item) => Dev.imageRun (s.ringPop src) c src errs n (k + 1)

/-- IMAGE form: one frame's pixel bytes, as they come, go into one descriptor; its records go to the metadata
channel. -/
def runImageFrameDeliver (c : Fin 64) (errs : List (Nat × Nat × Bytes)) (t : Nat) (s : Dev) : Dev :=
  let s := (s.at' t).accrue c
  let src := s.pv P.quillSrc c
  if 48 ≤ c.val ∨ s.pv P.quillForm c ≠ E.quillForm.IMAGE ∨ 68 ≤ src ∨ s.mayMove c = false then s
  else s.imageRun c src errs (s.ringOf src).length 0

/-! ## Host to device (R258, R279, R286, R291) -/

/-- Whether a producer's word can enter a queue now, be it to be discarded (R258, R262, R266). -/
def Dev.qReady (s : Dev) (q : Nat) : Bool :=
  let x := s.queue q
  x.owed != 0 || x.discard || decide (s.qLimit q ≤ x.openLen) || decide (0 < s.qFree q)

/-- Words read enter the queue as far as there is room, each as soon as one is free; `whole`: the descriptor has been
read to its end. -/
def Dev.feedQueue (s : Dev) (c q : Nat) (whole : Bool) (total : Nat) : Dev :=
  s.forEach (List.range (ceilDiv (s.chan c).feed.length 32)) (fun s _ =>
    let b := (s.chan c).feed
    if s.qReady q && (decide (32 ≤ b.length) || whole) then
      let s := s.qWrite q (slice b 0 32) (whole && decide (b.length ≤ 32)) (ceilDiv total 32)
      s.modChan c (fun x => { x with feed := b.drop 32 })
    else s)

/-- Read requests of a descriptor, one after another, while the credit allows one, the data for it has come and what was
read before is in the queue; the data not asked for. -/
def Dev.readRequests (s : Dev) (c q : Nat) : Nat → Bytes → Dev × Bytes
  | 0, b => (s, b)
  | fuel + 1, b =>
    match (s.chan c).desc with
    | none => (s, b)
    | some d =>
      let n := s.requestOf c s.quill.mrrs (d.total - d.moved)
      if n = 0 ∨ b.length < n ∨ s.creditOk c = false ∨ 32 ≤ (s.chan c).feed.length then (s, b)
      else
        let s := s.modChan c (fun x => { x with
          desc := some { d with moved := d.moved + n }, feed := x.feed ++ swapBytes d.swap (b.take n) })
        let s := ((s.spend c n).bump P.quillBytes c n).feedQueue c q (d.moved + n == d.total) d.total
        Dev.readRequests s c q fuel (b.drop n)

/-- A bus error: the bytes that came before it count, the item is abandoned as R266 says, the next descriptor follows
(R286). -/
def Dev.busErrorHere (s : Dev) (c q : Nat) (b : Bytes) : Dev :=
  match (s.chan c).desc with
  | none => s
  | some d =>
    let n := s.requestOf c s.quill.mrrs b.length
    let s := (s.modChan c (fun x => { x with desc := some { d with moved := d.moved + n }, feed := [] })).spend c n
    let x := s.queue q
    let y := { x.removeOpen (s.pv P.qSizeLog2 q) with discard := false }
    let s := if x.openLen = 0 ∧ x.discard = false then s else s.putQueue q y
    let s := if y.tornDue && !x.tornDue then (s.bump P.qTornCount q 1).qEvent q 1 else s
    let s := (s.bump P.quillBytes c n).bump P.quillBusErrCount c 1
    let s := s.completeDesc c 3
    if (s.chan c).state = chStopping then s.chanStopped c else s

/-- Data of a descriptor is read into Q(104 + i) as one item, word by word; a read waits while words read before it wait
for room. With `busError` the request after the data fails. DESIGN CHOICE, entry 50. -/
def runHostReadData (c : Fin 64) (data : Bytes) (busError : Bool) (t : Nat) (s : Dev) : Dev :=
  let s := (s.at' t).accrue c
  match (s.chan c).desc with
  | none => s
  | some d =>
    let q := 104 + (c.val - 48)
    if c.val < 48 ∨ s.chanMoves c = false ∨ (s.chan c).phase ≠ ChPhase.fill then s
    else
      let s := s.feedQueue c q (d.moved == d.total) d.total
      let (s, b) := s.readRequests c q data.length data
      let moved := match (s.chan c).desc with | some d => d.moved | none => d.total
      if moved = d.total then
        (if (s.chan c).feed.isEmpty then (if (s.chan c).state = chStopping then s.stopHere c else s.completeDesc c 0) else s)
      else if busError && s.creditOk c && decide ((s.chan c).feed.length < 32) then s.busErrorHere c q b
      else s

/-! ## MSI-X and Bus Master Enable (R272, R276, R280) -/

/-- Send the pending messages of unmasked vectors. -/
def Dev.sendPending (s : Dev) (fn : Fn) : Dev :=
  match fn with
  | .pf0 =>
    if s.quill.bme0 then
      s.forEach (List.range 256) (fun s v =>
        if s.quill.pend0.get false v && !(s.quill.masked0.get true v) then
          { s with quill := { s.quill with pend0 := s.quill.pend0.set false v false } }.emit (s.quill.msg .pf0 v)
        else s)
    else s
  | .pf1 =>
    if s.quill.bme1 then
      s.forEach (List.range 16) (fun s v =>
        if s.quill.pend1.get false v && !(s.quill.masked1.get true v) then
          { s with quill := { s.quill with pend1 := s.quill.pend1.set false v false } }.emit (s.quill.msg .pf1 v)
        else s)
    else s

def runMsixUnmask (fn : Fn) (vector : Fin 256) (s : Dev) : Dev :=
  match fn with
  | .pf0 =>
    ({ s with quill := { s.quill with masked0 := s.quill.masked0.set true vector false } }.sendPending .pf0)
  | .pf1 =>
    if 15 < vector.val then s
    else ({ s with quill := { s.quill with masked1 := s.quill.masked1.set true vector false } }.sendPending .pf1)

/-- Bus Master Enable of PF0 clears: every channel that runs is HELD at its next request boundary. -/
def runBmeClear (fn : Fn) (s : Dev) : Dev :=
  match fn with
  | .pf1 => { s with quill := { s.quill with bme1 := false } }
  | .pf0 =>
    let s := { s with quill := { s.quill with bme0 := false } }
    (s.forEach (List.range 64) (fun s c =>
      let x := s.chan c
      if x.state = chRun ∨ x.state = chStopping then
        (s.modChan c (fun x => { x with heldFrom := x.state })).chanState c chHeld
      else s))

/-- Bus Master Enable sets: channels go on where they stopped, pending messages are sent. A HELD channel that DMA_STOP
has named stops. -/
def runBmeSet (fn : Fn) (s : Dev) : Dev :=
  match fn with
  | .pf1 => ({ s with quill := { s.quill with bme1 := true } }.sendPending .pf1)
  | .pf0 =>
    let s := { s with quill := { s.quill with bme0 := true } }
    let s := s.forEach (List.range 64) (fun s c =>
      let x := s.chan c
      if x.state = chHeld then
        let s := s.chanState c x.heldFrom
        if x.heldFrom = chStopping ∧ s.chanBusy c = false then s.stopHere c else s
      else s)
    (s.sendPending .pf0)

/-! ## The commands -/

/-- DMA_START. -/
def execDmaStart (mb : Fin 21) (t : Nat) (s : State) : Out := s.onDev (runDmaStart mb t)

/-- DMA_STOP. -/
def execDmaStop (mb : Fin 21) (s : State) : Out := s.onDev (runDmaStop mb)

/-- QUEUE_FLUSH. -/
def execQueueFlush (mb : Fin 21) (s : State) : Out := s.onDev (runQueueFlush mb)

/-- DESCRIPTOR_FETCH. -/
def execDescriptorFetch (c : Fin 64) (words : Option Bytes) (s : State) : Out := s.onDev (runDescriptorFetch c words)

/-- LINK_READ. -/
def execLinkRead (c : Fin 64) (link : Option (BitVec 64)) (s : State) : Out := s.onDev (runLinkRead c link)

/-- RECORD_DELIVER. -/
def execRecordDeliver (c : Fin 64) (errs : List (Nat × Bytes)) (t : Nat) (s : State) : Out := s.onDev (runRecordDeliver c errs t)

/-- IMAGE_FRAME_DELIVER. -/
def execImageFrameDeliver (c : Fin 64) (errs : List (Nat × Nat × Bytes)) (t : Nat) (s : State) : Out :=
  s.onDev (runImageFrameDeliver c errs t)

/-- HOST_READ_DATA. -/
def execHostReadData (c : Fin 64) (data : Bytes) (busError : Bool) (t : Nat) (s : State) : Out := s.onDev (runHostReadData c data busError t)

/-- MSIX_UNMASK. -/
def execMsixUnmask (fn : Fn) (vector : Fin 256) (s : State) : Out := s.onDev (runMsixUnmask fn vector)

/-- BME_CLEAR. -/
def execBmeClear (fn : Fn) (s : State) : Out := s.onDev (runBmeClear fn)

/-- BME_SET. -/
def execBmeSet (fn : Fn) (s : State) : Out := s.onDev (runBmeSet fn)

end Sys2Proof.Machine
end

