-- ==== Sys2Proof/Machine/Span.lean ====
section
/-! DEFINITION. The Collimator ring: sync frames, the lock of a follower, leaders, loss, hop delays, the span-derived
reference (R231 to R244). -/
namespace Sys2Proof.Machine

/-- Ductus channels of the span (R302). -/
abbrev evSpanLocked : Nat := 96
abbrev evSpanLost : Nat := 97
abbrev evSpanLeader : Nat := 98
abbrev evSpanRing : Nat := 99

/-- The span axes. -/
def Dev.spanAxes (s : Dev) : List Nat := bitsOf 4 (s.pv P.spanAxisMask 0)

/-- The span axes of a device that follows set DEAD: their output holds (R41, R241). -/
def Dev.spanKill (s : Dev) : Dev :=
  s.forEach s.spanAxes (fun s x =>
    if (s.axis x).spanDead then s
    else
      let out := s.axisPos x s.now
      let s := s.turnAxis x (fun s => s.setAxis x { s.axis x with held := out, spanDead := true, v := 0, a := 0 })
      (s.axisEvent x deadBit).setP P.posAxisVelocity x 0)

/-- The span axes are valid again: their generators resume (R52, R241). -/
def Dev.spanRevive (s : Dev) : Dev :=
  s.forEach (List.range 4) (fun s x =>
    if (s.axis x).spanDead then
      (s.turnAxis x (fun s => s.setAxis x { s.axis x with spanDead := false })).resumeAxis x
    else s)

def Dev.spanState (s : Dev) (v : Nat) : Dev := s.setP P.spanState 0 v

/-- Start the lock sequence (R241). -/
def Dev.spanLocking (s : Dev) (run : Nat) : Dev :=
  let s := if s.spanLeading then s else s.spanKill
  { s with span := { s.span with validRun := run, settled := 0, stepped := false, counted := false } }

/-- A leader is in use; a change of leader fires SPAN_LEADER (R239). -/
def Dev.spanLeader (s : Dev) (id epoch : Nat) : Dev :=
  let s := match s.span.leader with
    | some (old, _) => if old = id then s else s.fireAsync evSpanLeader
    | none => s
  let s := { s with span := { s.span with leader := some (id, epoch), seenEpoch := some epoch } }
  (s.setP P.spanLeaderId 0 id).setP P.spanEpoch 0 epoch

/-- The device begins to lead (R239). -/
def Dev.spanLead (s : Dev) : Dev :=
  let epoch := match s.span.seenEpoch with | some e => (e + 1) % 65536 | none => 0
  let s := (s.spanLeader (s.pv P.spanMemberId 0) epoch).spanState E.spanState.LEADING
  let s := { s with span := { s.span with missed := 0, returned := true, hops := .empty } }
  s.spanRevive

/-! ## Sending (R232, R233, R240) -/

/-- A service slot with its check (R232). -/
def slotBytes (ty sender num turn : Nat) : Bytes :=
  let body := le 1 ty ++ le 1 sender ++ le 2 num ++ le 4 turn ++ List.replicate 6 0
  body ++ le 2 (crc16 body)

/-- Idle symbols: K28.5 and D16.2 in turn (R232). -/
def idleSymbols (n : Nat) : List (Bool × Nat) :=
  (List.range n).map (fun i => if i % 2 = 0 then (true, 0xBC) else (false, 0x50))

/-- Whether an output may send a service slot now: one in each period (R232). -/
def Dev.slotTurn (s : Dev) (port : Nat) : Bool :=
  s.span.frameOpen.get none port == some true
    || (match s.span.slotAt.get none port with | some t => decide (t + us 1 ≤ s.now) | none => true)

/-- The oldest service slot that waits goes out, if its turn has come. A PROBE is timed from here; the turnaround of an
ECHO includes its wait (R232, R234). -/
def Dev.giveSlot (s : Dev) (port : Nat) : Dev :=
  match s.span.slots.get [] port with
  | [] => s
  | (ty, num, since) :: rest =>
    if !s.slotTurn port then s
    else
      let x := s.span
      let turn := if ty = 0x12 then (s.now - since + (Config.slotTurnaround since).toNat) % 2 ^ 32 else 0
      let x := { x with
        slots := x.slots.set [] port rest
        slotAt := x.slotAt.set none port (some s.now)
        frameOpen := x.frameOpen.set none port ((x.frameOpen.get none port).map (fun _ => false))
        probes := if ty = 0x11 then x.probes.set none port (some (num, s.now)) else x.probes }
      { s with span := x }.emit (.slot port (slotBytes ty (s.pv P.spanMemberId 0) num turn))

/-- Ask for a service slot (R234). -/
def Dev.askSlot (s : Dev) (port ty num : Nat) : Dev :=
  let x := s.span
  { s with span := { x with slots := x.slots.set [] port (x.slots.get [] port ++ [(ty, num, s.now)]) } }.giveSlot port

/-- A frame goes out: the period before it ends with its service slot, EMPTY if none was asked for, and its idle symbols
(R232). -/
def Dev.sendFrame (s : Dev) (port idle : Nat) (f : Bytes) : Dev :=
  let s := match s.span.frameOpen.get none port with
    | some true => (s.emit (.slot port (slotBytes 0 (s.pv P.spanMemberId 0) 0 0))).emit (.idle port (idleSymbols idle))
    | some false => s.emit (.idle port (idleSymbols idle))
    | none => s
  let x := s.span
  ({ s with span := { x with frameOpen := x.frameOpen.set none port (some true) } }.emit (.sync port f)).giveSlot port

/-- The 96 bytes of the leader's frame. -/
def Dev.syncFrame (s : Dev) (redundant : Bool) : Bytes :=
  let tb := s.tbPs
  let axis := fun (x : Nat) => le 8 (toTwos 64 (s.axisPos x s.now)) ++ le 4 (toTwos 32 (s.axis x).v) ++ le 4 (toTwos 32 (s.axis x).a)
  let status := ((List.range 4).map (fun x => s.axisStatus x % 16 * 16 ^ x)).foldl (· + ·) 0
  let body := [0xA5, 0] ++ le 1 (s.pv P.spanMemberId 0) ++ le 1 (s.pv P.spanPriority 0) ++ le 2 (s.pv P.spanEpoch 0)
    ++ le 1 (b2n redundant) ++ le 1 (tb % 1000 * 256 / 1000) ++ le 8 (tb / 1000) ++ le 4 s.span.frameNo ++ le 4 0
    ++ ((List.range 4).map axis).flatten ++ le 2 status ++ le 2 0
  body ++ le 4 (crc32c body)

/-- What a frame says. -/
def syncInfo (f : Bytes) : SyncInfo :=
  let ax := fun (x : Nat) => 24 + 16 * x
  ⟨fld f 8 8 * 256 + fld f 7 1, (List.range 4).map (fun x => ofTwos 64 (fld f (ax x) 8)),
   (List.range 4).map (fun x => ofTwos 32 (fld f (ax x + 8) 4)),
   (List.range 4).map (fun x => ofTwos 32 (fld f (ax x + 12) 4)), fld f 88 2, fld f 16 4⟩

/-- The 1 µs frame of a leading device: its own copies on both outputs, and the check that the last frame returned. -/
def runSyncFrameSend (t : Nat) (s : Dev) : Dev :=
  let s := s.at' t
  let early := match s.span.sentAt with | some t0 => decide (s.now < t0 + us 1) | none => false
  if !s.mode M.span ∨ s.spanLeading = false ∨ early = true then s
  else
    let x : Span := { s.span with sentAt := some s.now }
    let missed := if x.returned then 0 else x.missed + 1
    let s := { s with span := { x with missed := missed, returned := false } }
    let s :=
      if missed = 8 then (s.setP P.spanRing 0 E.spanRing.BROKEN).fireAsync evSpanRing else s
    let f := s.syncFrame false
    let s := (s.sendFrame 1 11 f).sendFrame 0 11 (s.syncFrame true)
    { s with span := { s.span with last := some (syncInfo f), frameNo := (s.span.frameNo + 1) % 2 ^ 32 } }

/-! ## Receiving (R233 to R236, R239 to R242) -/

/-- Relay a frame out of the other port (R232, R233). -/
def Dev.relay (s : Dev) (port : Nat) (f : Bytes) (latencyPs : Nat) : Dev :=
  if fld f 1 1 = 31 then s
  else
    let idle := 10 + (Config.relayIdle s.now).val
    if fld f 92 4 ≠ crc32c (f.take 92) then
      s.sendFrame (1 - port) idle (f.take 92 ++ (f.drop 92).map (fun b => b ^^^ 0xFF))
    else
    let body := f.take 1 ++ le 1 (fld f 1 1 + 1) ++ slice f 2 18
      ++ le 4 ((fld f 20 4 + s.pv P.spanHopDelayPs port + latencyPs) % 2 ^ 32) ++ slice f 24 68
    s.sendFrame (1 - port) idle (body ++ le 4 (crc32c body))

/-- e = E - TB in ps, of a frame that came on a port at an instant (R235). -/
def Dev.syncError (s : Dev) (port : Nat) (f : Bytes) (came : Nat) : Int :=
  let i := syncInfo f
  ((i.tbTx * 1000 + 256 * (fld f 20 4 + s.pv P.spanHopDelayPs port) : Nat) : Int).fdiv 256 - (came + s.tbOff)

/-- Frames of one leader and epoch follow one another, or one is missing: the runs of the lock sequence count consecutive
frames (R241). -/
def Dev.countFrame (s : Dev) (f : SyncInfo) : Dev :=
  let x := s.span
  let next := match x.last with | some l => decide ((l.frameNo + 1) % 2 ^ 32 = f.frameNo) | none => false
  { s with span := if next then { x with validRun := x.validRun + 1 } else { x with validRun := 1, settled := 0 } }

/-- A follower uses a copy of a frame, which came at an instant: leader, timebase, lock (R235, R237, R240, R241).
DESIGN CHOICE, entry 47. -/
def Dev.follow (s : Dev) (port : Nat) (f : Bytes) (came : Nat) : Dev :=
  let id := fld f 2 1
  let epoch := fld f 4 2
  let st := s.pv P.spanState 0
  let new := s.span.leader != some (id, epoch)
  let s :=
    if new ∨ st = E.spanState.SEARCH ∨ st = E.spanState.LOST then
      ((s.spanLeader id epoch).spanLocking 1).spanState E.spanState.LOCKING
    else s.countFrame (syncInfo f)
  let dir := if port = 0 then E.spanDir.PRIMARY else E.spanDir.REDUNDANT
  let s := if s.pv P.spanDir 0 = dir then s else (s.setP P.spanDir 0 dir).bump P.spanSwitchCount 0 1
  let s := s.setP P.spanHop 0 (fld f 1 1)
  let e := s.syncError port f came
  let s := s.setP P.spanTbErrPs 0 (toTwos 32 (clampI (-(2 ^ 31)) (2 ^ 31 - 1) e))
  let s := { s with span := { s.span with last := some (syncInfo f) } }
  let x := s.span
  if !x.counted then
    (if 8 ≤ x.validRun then { s with span := { x with counted := true, hops := .empty } } else s)
  else if !x.stepped then
    (if 16 ≤ (x.hops.get (0, 0) port).1 then
      { s with tbOff := s.tbOff + e, span := { x with stepped := true, settled := 0, steerAt := s.now } }
     else s)
  else
    let lim : Int := (s.now - x.steerAt : Nat) / 10000
    let part := clampI (min e 0) (max e 0) (Config.steer e)
    let s := { s with tbOff := s.tbOff + clampI (-lim) lim part, span := { x with steerAt := s.now } }
    if s.spanLocked then s
    else
      let n := if e.natAbs < 1000 then x.settled + 1 else 0
      let s := { s with span := { s.span with settled := n } }
      if 64 ≤ n then ((s.spanState E.spanState.LOCKED).spanRevive).fireAsync evSpanLocked else s

/-- Whether a frame's leader ranks above this device (R239). DESIGN CHOICE, entry 47. -/
def Dev.betterLeader (s : Dev) (f : Bytes) : Bool :=
  let p := s.pv P.spanPriority 0
  decide (p < fld f 3 1) || (fld f 3 1 == p && decide (fld f 2 1 < s.pv P.spanMemberId 0))

/-- Whether a frame is one that the follower has not used: another leader or epoch, or another number (R240). -/
def Dev.newFrame (s : Dev) (f : Bytes) : Bool :=
  s.span.leader != some (fld f 2 1, fld f 4 2)
    || (match s.span.last with | some l => l.frameNo != fld f 16 4 | none => true)

/-- The redundant copy that waits is used, as its primary copy failed to come (R240). -/
def Dev.useSpare (s : Dev) : Dev :=
  match s.span.spare with
  | none => s
  | some (f, came) =>
    let s := { s with span := { s.span with spare := none } }
    if s.newFrame f then s.follow 1 f came else s

/-- A follower takes a valid frame: the primary copy where it is valid, and otherwise the redundant copy. A redundant copy
waits for the primary copy of its frame while primary copies come (R240). DESIGN CHOICE, entry 47. -/
def Dev.takeFrame (s : Dev) (port : Nat) (f : Bytes) : Dev :=
  let x := s.span
  let same := match x.spare with | some (g, _) => fld g 16 4 == fld f 16 4 && fld g 2 4 == fld f 2 4 | none => false
  if port = 0 then
    let s := if same then { s with span := { x with spare := none } } else s.useSpare
    let s := { s with span := { s.span with primaryAt := some s.now, primaryBad := false } }
    (if s.newFrame f then s.follow 0 f s.now else s)
  else if !s.newFrame f then s
  else
    let gone := match x.primaryAt with | some t => decide (t + us 1 < s.now) | none => true
    let s := s.useSpare
    if gone || x.primaryBad then { s with span := { s.span with primaryBad := false } }.follow 1 f s.now
    else { s with span := { s.span with spare := some (f, s.now) } }

/-- A primary copy came bad: the redundant copy of its frame is used, now or when it comes (R240). -/
def Dev.primaryFailed (s : Dev) : Dev :=
  match s.span.spare with
  | some _ => s.useSpare
  | none => { s with span := { s.span with primaryBad := true } }

/-- A received frame: counted and relayed spoilt if its CRC is bad, else its epoch noted, relayed, and used by a follower;
a leader looks for the return of its own, and for a better leader (R233 to R242). DESIGN CHOICE, entry 47. -/
def runSyncFrameReceive (port : Fin 2) (frame : Bytes) (latencyPs : Nat) (t : Nat) (s : Dev) : Dev :=
  let s := s.at' t
  let f := slice frame 0 96
  if !s.mode M.span then s
  else if fld f 92 4 ≠ crc32c (f.take 92) then
    let s := s.bump P.spanCrcErrCount port 1
    if s.spanLeading then s
    else
      let s := s.relay port f latencyPs
      if port.val = 0 then s.primaryFailed else s
  else if fld f 0 1 ≠ 0xA5 then s
  else
    let s := { s with span := { s.span with seenEpoch := some (fld f 4 2) } }
    let own := fld f 2 1 == s.pv P.spanMemberId 0
    if s.spanLeading && own then
      (if port.val = 0 then
          { s with span := { s.span with returned := true, missed := 0 } }.setP P.spanRing 0 E.spanRing.CLOSED
        else s)
    else if s.spanLeading && !s.betterLeader f then s
    else
      let s := if s.spanLeading then s.spanState E.spanState.SEARCH else s
      let s := s.relay port f latencyPs
      let s := { s with span := { s.span with lastValid := s.now } }
      if own then (s.setP P.spanConflict 0 1) else s.takeFrame port f

/-! ## Service slots (R234) -/

/-- PROBE is answered on the paired output; ECHO gives a sample of the hop delay: 16 are averaged, then each weighs
1/16. -/
def runServiceSlot (port : Fin 2) (slot : Bytes) (t : Nat) (s : Dev) : Dev :=
  let s := s.at' t
  let b := slice slot 0 16
  if !s.mode M.span ∨ fld b 14 2 ≠ crc16 (b.take 14) then s
  else if fld b 0 1 = 0x11 then
    s.askSlot port 0x12 (fld b 2 2)
  else if fld b 0 1 = 0x12 then
    match s.span.probes.get none port with
    | none => s
    | some (n, t0) =>
      if n ≠ fld b 2 2 then s
      else
        let twice : Int := (s.now : Int) - t0 - fld b 4 4
        let (k, sum) := s.span.hops.get (0, 0) port
        let x := { s.span with
          probes := s.span.probes.set none port none
          hops := if k < 16 then s.span.hops.set (0, 0) port (k + 1, sum + twice) else s.span.hops }
        let s := { s with span := x }
        let d : Int := s.pv P.spanHopDelayPs port
        let new : Int :=
          if k < 15 then d
          else if k = 15 then roundTo Config.delayUp (sum + twice) 32
          else d + roundTo Config.delayUp (twice - 2 * d) 32
        (s.setP P.spanHopDelayPs port (new.toNat % 2 ^ 32))
  else s

/-- A PROBE on an output: once per µs while locking and once per ms otherwise. -/
def runHopProbe (port : Fin 2) (t : Nat) (s : Dev) : Dev :=
  let s := s.at' t
  let every := if s.pv P.spanState 0 = E.spanState.LOCKING then us 1 else ms 1
  let early := match s.span.probeAt.get none port with | some t0 => decide (s.now < t0 + every) | none => false
  if !s.mode M.span ∨ early = true then s
  else
    let n := s.span.probeNum
    let s := { s with span := { s.span with
      probeAt := s.span.probeAt.set none port (some s.now), probeNum := (n + 1) % 65536 } }
    s.askSlot port 0x11 n

/-! ## Loss (R239, R241, R243) -/

def runSpanLossTimeout (t : Nat) (s : Dev) : Dev :=
  let s := s.at' t
  let st := s.pv P.spanState 0
  if !s.mode M.span ∨ s.spanLeading = true ∨ s.now < s.span.lastValid + us (s.pv P.spanLossUs 0) then s
  else if s.pv P.spanRole 0 ≠ E.spanRole.FOLLOWER ∧ s.pv P.spanConflict 0 = 0 then s.spanLead
  else if st ≠ E.spanState.LOST then
    ((s.spanKill.spanState E.spanState.LOST).fireAsync evSpanLost)
  else s

/-- Port A in has lost its signal: with REF_SEL 11 the reference switches to port B, if it has one, or to the MEMS
resonator. -/
def runRefSignalLoss (portB : Bool) (s : Dev) : Dev :=
  if s.pv P.rstRefSel 0 = 3 ∧ s.pv P.spanRefSrc 0 ≠ E.spanRefSrc.MEMS then
    (s.setP P.spanRefSrc 0 (if portB then E.spanRefSrc.PORT_B else E.spanRefSrc.MEMS))
  else s

/-! ## SPAN sets and clears (R239, R340) -/

/-- SPAN sets: a leader leads, every other device searches. -/
def Dev.spanBegin (s : Dev) : Dev :=
  let s := { s with span := { Span.reset with seenEpoch := s.span.seenEpoch, lastValid := s.now } }
  let s := s.setP P.spanConflict 0 0
  if s.pv P.spanRole 0 = E.spanRole.LEADER then s.spanLead
  else s.spanKill.spanState E.spanState.SEARCH

/-- SPAN clears: the axes of a device that was not leading hold their last output, DEAD (R340). -/
def Dev.spanEnd (s : Dev) : Dev :=
  (if s.spanLeading then s else s.spanKill).spanState E.spanState.OFF

/-! ## The commands -/

/-- SYNC_FRAME_SEND. -/
def execSyncFrameSend (t : Nat) (s : State) : Out := s.onDev (runSyncFrameSend t)

/-- SYNC_FRAME_RECEIVE. -/
def execSyncFrameReceive (port : Fin 2) (frame : Bytes) (latencyPs : Nat) (t : Nat) (s : State) : Out := s.onDev (runSyncFrameReceive port frame latencyPs t)

/-- SERVICE_SLOT. -/
def execServiceSlot (port : Fin 2) (slot : Bytes) (t : Nat) (s : State) : Out := s.onDev (runServiceSlot port slot t)

/-- HOP_PROBE. -/
def execHopProbe (port : Fin 2) (t : Nat) (s : State) : Out := s.onDev (runHopProbe port t)

/-- SPAN_LOSS_TIMEOUT. -/
def execSpanLossTimeout (t : Nat) (s : State) : Out := s.onDev (runSpanLossTimeout t)

/-- REF_SIGNAL_LOSS. -/
def execRefSignalLoss (portB : Bool) (s : State) : Out := s.onDev (runRefSignalLoss portB)

end Sys2Proof.Machine
end

