-- ==== Sys2Proof/Machine/ParamOps.lean ====
section
/-! DEFINITION. Parameters as the paths see them: entries, rights, values read, and what a written value does at its
boundary (R2 to R8, R15, R38, R51, R56, R259, R269, R279, R304 to R307, R328 to R331, R344, R378). -/
namespace Sys2Proof.Machine

/-! ## Entries (R328) -/

structure Entry where
  id : Nat
  inst : Nat
  word : Nat
  rsv : Nat
  value : Nat
  deriving DecidableEq, Repr

def entryAt (b : Bytes) (off : Nat) : Entry :=
  ⟨fld b off 2, fld b (off + 2) 2, fld b (off + 4) 1, fld b (off + 5) 3, fld b (off + 8) 8⟩

def entriesAt (b : Bytes) (off n : Nat) : List Entry := (List.range n).map (fun i => entryAt b (off + 16 * i))

def Entry.key (e : Entry) : Nat := pkey e.id e.inst e.word

def Entry.bytes (e : Entry) : Bytes := le 2 e.id ++ le 2 e.inst ++ le 1 e.word ++ le 3 e.rsv ++ le 8 e.value

/-! ## Rights (R305, R329) -/

def groupOf (id : Nat) : Nat := id / 256

/-- Whether a path may read a parameter. -/
def mayRead (p : Path) (id : Nat) : Bool := !(decide (p = .pf0) && groupOf id == 0x0F)

/-- Channel of a Ductus parameter instance. -/
def duxChan (id inst : Nat) : Nat := if id = P.duxSrc then inst / 2 else inst

def isSinkParam (id : Nat) : Bool := id == P.duxHevSrc || id == P.duxTapArm || id == P.duxSinkIgnored

/-- Write rights in group 0x0C (R305). -/
def mayWriteDux (p : Path) (id inst : Nat) : Bool :=
  let c := duxChan id inst
  if isSinkParam id then decide (p = .pf0)
  else if id = P.duxSecure then decide (p ≠ .pf0) && decide (224 ≤ c)
  else if id = P.duxSrc then ownsDux p c && decide (128 ≤ c)
  else ownsDux p c

/-- Whether a path may write a parameter instance; a read-only one that it may name is ignored (R2). -/
def mayWrite (p : Path) (id inst : Nat) : Bool :=
  let g := groupOf id
  if g = 0x05 ∨ g = 0x0E then true
  else if g = 0x0C then mayWriteDux p id inst
  else if g = 0x0D ∨ g = 0x0F then decide (p ≠ .pf0)
  else decide (p = .pf0)

/-- Instances that an entry may name: R279 lets `quill.src` be read for every channel. -/
def PRow.instances (r : PRow) : Nat := if r.id = P.quillSrc then 64 else r.inst

/-- The checks of an entry that do not depend on its value: status, OK if none fails. -/
def entryCode (p : Path) (write : Bool) (e : Entry) : Nat :=
  match paramRow e.id with
  | none => C.badParam
  | some r =>
    if r.instances ≤ e.inst ∨ r.words ≤ e.word then C.badInstance
    else if (if write then mayWrite p e.id e.inst else mayRead p e.id) then C.ok else C.denied

/-- Index and status of the first entry that fails. -/
def firstBad (l : List Entry) (f : Entry → Nat) : Option (Nat × Nat) :=
  (l.zipIdx.find? (fun x => f x.1 != C.ok)).map (fun x => (x.2, f x.1))

/-! ## The preface (R330) -/

structure Preface where
  frame : Option Nat
  host : Bool
  count : Nat
  addr : Nat
  deriving DecidableEq, Repr

/-- The preface of a batch; none where a field is outside its range. PARAM_GET ignores BOUNDARY and FRAME. -/
def parsePreface (r : Req) (set : Bool) : Option Preface :=
  let p := r.pay
  let host := fld p 1 1 == 1
  let bound := fld p 0 1
  let count := fld p 2 2
  let addr := fld p 8 8
  if (set && decide (1 < bound)) || decide (1 < fld p 1 1)
      || (host && (count == 0 || decide (4096 < count) || addr % 16 != 0)) then none
  else some ⟨if set && bound == 1 then some (fld p 4 4) else none, host,
    if host then count else (r.len - 16) / 16, addr⟩

/-! ## Reading -/

/-- Whether QUIET or a stop has parked something (R341, R378). -/
def Dev.anyParked (s : Dev) : Bool :=
  (List.range 96).any (fun n => s.nibSt n == E.nibState.PARKED)
    || (List.range 32).any (fun l => s.pv P.laneState l == E.laneState.SLEEP)
    || (List.range 8).any (fun u => !(List.range 64).any (fun i => (s.stream i).running && s.pv P.plateUnit i == u))

/-- `pwr.state` (R378). -/
def Dev.powerState (s : Dev) : Nat :=
  let p := s.pv P.pwrState 0
  if p = E.pwrState.P3 ∨ p = E.pwrState.P4 then p
  else if s.pv P.paceCeiling 0 ≠ 0 then E.pwrState.P1
  else if s.mode M.quiet && s.anyParked then E.pwrState.P2 else E.pwrState.P0

/-- VERSION of a flash slot's image (R388, R402). -/
def FwSlot.version (x : FwSlot) : Nat :=
  if x.factory then Config.factoryVersion.toNat else match x.stored with | some (h, _) => fld h 8 4 | none => 0

/-- Read-only values that are not kept but follow from the rest of the state.
DESIGN CHOICE, entry 4; DESIGN CHOICE, entry 41. -/
def Dev.computed (s : Dev) (id inst : Nat) : Option Nat :=
  if id = P.memFreeBytes then some s.memFree.toNat
  else if id = P.nibUtil ∨ id = P.memBankUtil then some (Config.measured (pkey id inst 0) s.now).toNat
  else if id = P.nibState ∧ (s.nib inst).halted = true then some E.nibState.BUSY
  else if id = P.secDebugActive then some s.activeLevel
  else if id = P.secGrantRemainingS then
    some (match s.sec.grantEnd with | some e => ceilDiv (e - s.now) (secs 1) | none => 0)
  else if id = P.almTimeS then some s.calTime
  else if id = P.posEncCount then some (toTwos 64 ((s.enc inst).at' s.now))
  else if id = P.posAxisPosition then some (toTwos 64 (s.axisPos inst s.now))
  else if id = P.posAxisStatus then
    some (s.axisStatus inst)
  else if id = P.posEncStatus then
    some (if s.pv P.posEncZPeriod inst = 0 then clrBit (s.pv id inst) 3 else s.pv id inst)
  else if id = P.merFwVersion then some s.merFw.1
  else if id = P.merFwDigest then some (fld s.merFw.2 (8 * inst) 8)
  else if id = P.pwrState then some s.powerState
  else if id = P.almFwSlotVersion then some (if inst = 0 then s.alm.slotA else s.alm.slotB).version
  else if id = P.foState then some (s.foStateOf inst)
  else if id = P.quillSrc ∧ 48 ≤ inst then some 0xFFFF
  else if id = P.qStatus then
    let x := s.queue inst
    some (qStatusOf x.words.length (s.qCap inst) (s.pv P.qWatermark inst) x.openLen (s.qPing inst && x.fullBanks == 2))
  else none

/-- A stored value in the VALUE form of R328. -/
def PType.valueForm : PType → Nat → Nat
  | .s w, v => toTwos 64 (ofTwos w v)
  | .fix m n, v => toTwos 64 (ofTwos (m + n) v)
  | _, v => v

/-- What a read of a parameter instance returns (R2, R330). -/
def Dev.readParam (s : Dev) (id inst word : Nat) : Nat :=
  match paramRow id with
  | none => 0
  | some r =>
    match r.acc with
    | .wo => 0
    | .rw => (s.computed id inst).getD (s.ak (pkey id inst word))
    | _ => (s.computed id inst).getD (r.ty.valueForm (s.pk (pkey id inst word)))

/-- A read clears an RC value (R2, R4). -/
def Dev.clearRc (s : Dev) (id inst word : Nat) : Dev :=
  match paramRow id with
  | none => s
  | some r =>
    if r.acc = .rc then
      let s := s.setK (pkey id inst word) 0
      if id = P.almTempMax then { s with alm := { s.alm with fresh := s.alm.fresh.set false inst false } } else s
    else s

/-! ## Checks of a written value -/

def chanQuiet (st : Nat) : Bool := st == chIdle || st == chStopped

/-- Whether a queue's producer and consumer are stopped (R257, R259). -/
def Dev.queueStopped (s : Dev) (q : Nat) : Bool :=
  let unitRuns := fun (u : Nat) => (List.range 64).any (fun i => (s.stream i).running && s.pv P.plateUnit i == u)
  let producer :=
    if q < 68 then s.seqRunning q || s.tiles.any (fun t => t.q == q) || (s.seqn q).gap.isSome || !(s.seqn q).late.isEmpty
    else if q < 84 then (s.stream (s.pv P.plateTapStream (q - 68))).running
    else if q < 92 then unitRuns (q - 84)
    else if q < 100 then unitRuns (q - 92)
    else if q < 104 then (s.web (q - 100)).running
    else !chanQuiet (s.chan (q - 56)).state
  let consumer := decide (q < 104)
    && (List.range 48).any (fun c => s.pv P.quillSrc c == 256 + q && !chanQuiet (s.chan c).state)
  !producer && !consumer

/-- Whether a member of a running web. -/
def Dev.inRunningWeb (s : Dev) (st : Nat) : Bool :=
  (List.range 4).any (fun w => (s.web w).running && (s.webMembers w).contains st)

/-- Whether something in the core forbids P3 and P4 (R379, R394). -/
def Dev.powerBusy (s : Dev) : Bool :=
  (List.range 64).any (fun i => (s.stream i).running) || (List.range 4).any (fun w => (s.web w).running)
    || (List.range 64).any (fun c => !chanQuiet (s.chan c).state)
    || (List.range 16).any (fun m => (s.mb m).st == .queued || (s.mb m).st == .running)
    || s.mode M.span || s.sec.scribeHalted || (List.range 96).any (fun n => (s.nib n).halted)

/-- BUSY rules of single parameters (R146, R219, R259, R279, R379, R394). DESIGN CHOICE, entry 11. -/
def Dev.entryBusy (s : Dev) (e : Entry) : Bool :=
  if e.id = P.quillSrc ∨ e.id = P.quillForm ∨ e.id = P.quillMetaChan ∨ e.id = P.quillNosnoop then
    !chanQuiet (s.chan e.inst).state
  else if e.id = P.qForm ∨ e.id = P.qSizeLog2 then
    !(s.queue e.inst).words.isEmpty || (s.queue e.inst).openLen != 0 || (s.queue e.inst).discard || !s.queueStopped e.inst
  else if [P.trigMode, P.trigAxis, P.trigPitch, P.trigRearm, P.plateOutBits, P.plateOutPlanes].contains e.id then
    s.inRunningWeb e.inst
  else if e.id = P.plateOutCompress then
    (List.range 48).any (fun c => s.pv P.quillForm c == E.quillForm.IMAGE && s.pv P.quillSrc c == e.inst
      && !chanQuiet (s.chan c).state && (s.chan c).state != chFetchErr)
  else if e.id = P.pwrTarget then e.value != E.pwrTarget.P0 && s.powerBusy
  else false

/-- Whether an ID lies in the queue parameters (R257, R269). -/
def isQueueParam (id : Nat) : Bool := decide (P.qForm ≤ id) && decide (id ≤ P.qTornCount)

/-- The status of a written entry that its value and the state decide. -/
def Dev.valueCode (s : Dev) (r : PRow) (e : Entry) (f : Option Nat) : Nat :=
  if isQueueParam e.id && decide (120 ≤ e.inst) then C.badValue
  else
    match r.acc with
    | .ro | .rc => C.ok
    | .w1c | .wo => if r.accepts e.value then C.ok else C.badValue
    | .rw =>
      if !r.accepts e.value || (e.id == P.posAxisMembers && decide (3 < popCount 8 e.value))
          || (e.id == P.quillSrc && decide (48 ≤ e.inst)) then C.badValue
      else
        let code := if s.isSealedParam e.id e.inst then s.sealCode 1 else C.ok
        if code ≠ C.ok then code
        else if s.entryBusy e then C.busy
        else
          let owner := if r.bnd = .frame then s.frameOwner e.id e.inst else none
          let owners :=
            if e.id = P.nibArg then (List.range 68).filter (fun q => s.seqSlot q == e.inst / 16)
            else if e.id = P.nibSlotBudget then (List.range 68).filter (fun q => s.seqSlot q == e.inst)
            else owner.toList
          let next := fun (q : Nat) => if q < 64 then (s.stream q).frameNo else (s.web (q - 64)).frameNo
          let late := match f with
            | some n => owners.any (fun q => s.seqRunning q && decide (n < next q))
            | none => false
          if late then C.late else C.ok

/-! ## Writes that wait (R330, R344) -/

/-- A write joins those that wait; earlier ones of the same value that fall due no earlier go. DEDUCED, entry 17. -/
def Dev.pend (s : Dev) (w : PendWrite) : Dev :=
  let gone := fun (x : PendWrite) => x.id == w.id && x.inst == w.inst && x.word == w.word &&
    (match w.frame, x.frame with
     | none, _ => true
     | some _, none => false
     | some f, some g => decide (f ≤ g))
  { s with writes := s.writes.filter (fun x => !gone x) ++ [w] }

/-- `nib.arg` and `nib.slot_budget` are taken when a frame begins; a sequence that a named frame F makes wait keeps the
old value up to it. -/
def Dev.holdArg (s : Dev) (e : Entry) (f : Option Nat) (slot : Nat) : Dev :=
  let k := e.key
  let old := s.pk k
  let s := s.forEach ((List.range 68).filter (fun q => s.seqSlot q == slot && s.seqRunning q)) (fun s q =>
    let x := s.seqn q
    match f with
    | none => s.setSeqn q { x with hold := x.hold.filter (fun h => h.1 != k) }
    | some n =>
      let late := fun (h : Nat × Nat × Option Nat) => h.1 == k && (match h.2.2 with | some g => decide (n ≤ g) | none => true)
      let v := match x.hold.find? late with | some h => h.2.1 | none => old
      s.setSeqn q { x with hold := x.hold.filter (fun h => !late h) ++ [(k, v, some n)] })
  s.setK k e.value

/-- A FRAME write (R8, R330). DEDUCED, entry 17. -/
def Dev.frameWrite (s : Dev) (e : Entry) (f : Option Nat) : Dev :=
  if e.id = P.nibArg then s.holdArg e f (e.inst / 16)
  else if e.id = P.nibSlotBudget then s.holdArg e f e.inst
  else
    match s.frameOwner e.id e.inst with
    | some q =>
      if s.seqRunning q then s.pend ⟨q, e.id, e.inst, e.word, e.value, f⟩
      else s.applyFrame ⟨q, e.id, e.inst, e.word, e.value, none⟩
    | none => s.applyFrame ⟨0, e.id, e.inst, e.word, e.value, none⟩

/-! ## What IMM writes do -/

/-- A release in the rt in which the warm-hold count ran out is taken as arriving before the expiry: the output has held
its level, and what the expiry showed at its ball is not shown (R59). -/
def Dev.unexpire (s : Dev) (o : Nat) : Dev :=
  let x := s.fout o
  if x.expired = some s.rt ∧ x.kept = .heldOff then
    let shown := fun (p : Nat) (u : Output) => match u with | .drive q v => q == p && decide (2 ≤ v) | _ => false
    let out := if s.rst.vfieldOk then s.out.eraseP (shown o) else s.out
    let out := if s.rst.vfieldOk && s.isComplement (o + 1) then out.eraseP (shown (o + 1)) else out
    { s.setFout o { x with kept := .holding, expired := none } with out := out }
  else s

/-- Write a field-output parameter and follow it; the balls show it once the whole batch is applied (R56, R59, R376). -/
def Dev.putFo (s : Dev) (id o v : Nat) : Dev :=
  let was := s.pv P.foFunction o
  let s := if id = P.foFunction then s.unexpire o else s
  let s := s.setP id o v
  let x := s.fout o
  if id = P.foFunction then
    let x := { x with kept := .released, frozen := none }
    let s := s.setFout o (if was = v then x else { x with pulse := none, due := [], high := none })
    if v = E.foFunction.MARKER ∧ was ≠ v then s.markerEnter o else s
  else if id = P.foSource ∨ id = P.foMarkerOrigin ∨ id = P.foMarkerPitch then
    if s.pv P.foFunction o = E.foFunction.MARKER then s.markerEnter o
    else if id = P.foSource then s.setFout o { x with due := [] } else s
  else s

/-- A release under HOLD: the output drives what it drove until HOLD clears (R344, R376). -/
def Dev.releaseHeld (s : Dev) (o : Nat) : Dev :=
  let s := s.unexpire o
  let x := s.fout o
  let level := match x.kept with | .holding => x.holdLevel | _ => s.offLevel o
  if x.kept = .released then s else s.setFout o { x with kept := .released, frozen := some level }

/-- A write of a `fo.*` parameter; under HOLD it waits (R344). -/
def Dev.writeFo (s : Dev) (e : Entry) : Dev :=
  if s.foHeld then
    let s := s.pend ⟨100, e.id, e.inst, 0, e.value, none⟩
    if e.id = P.foFunction then s.releaseHeld e.inst else s
  else s.putFo e.id e.inst e.value

/-- HOLD clears: the `fo.*` writes that waited take effect (R344). -/
def Dev.foResume (s : Dev) : Dev :=
  s.withFo (fun s =>
    let due := s.writes.filter (fun w => w.owner == 100)
    let s := { s with writes := s.writes.filter (fun w => w.owner != 100) }
    let s := due.foldl (fun s w => s.putFo w.id w.inst w.value) s
    s.forEach (List.range 16) (fun s o => (s.setFout o { s.fout o with frozen := none }).markerSkip o))

/-- `dux.class` of the free channels follows their inputs (R307). -/
def Dev.classDux (s : Dev) : Dev :=
  s.forEach (List.range 128) (fun s i =>
    s.setP P.duxClass (128 + i) (if s.isPos (128 + i) then E.duxClass.POS else E.duxClass.ASYNC))

/-- `span.axis_mask` changes while this device follows. DESIGN CHOICE, entry 18. -/
def Dev.maskAxes (s : Dev) (old : Dev) : Dev :=
  if s.mode M.span && !s.spanLeading then
    s.forEach (List.range 4) (fun s x =>
      let was := bit (old.pv P.spanAxisMask 0) x
      let is := bit (s.pv P.spanAxisMask 0) x
      if is && !was && !s.spanLocked then
        let s := (s.setAxis x { s.axis x with held := old.axisPos x s.now, spanDead := true, v := 0, a := 0 }).keepView x
          (old.axisView x)
        (s.axisEvent x deadBit).setP P.posAxisVelocity x 0
      else if was && !is && (s.axis x).spanDead then
        ((s.setAxis x { s.axis x with spanDead := false }).keepView x (old.axisView x)).resumeAxis x
      else if is != was then s.keepView x (old.axisView x)
      else s)
  else s

/-- Decoder inputs after a change of inversion or exchange: nothing is counted. DESIGN CHOICE, entry 18. -/
def Dev.rewire (s : Dev) (e : Nat) (old : Dev) : Dev :=
  let x := s.enc e
  let inv := s.pv P.posEncInvert e
  let inv0 := old.pv P.posEncInvert e
  let swap := s.pv P.posEncSwapAb e == 1
  let swap0 := old.pv P.posEncSwapAb e == 1
  let (a, b) := if swap0 then (x.b, x.a) else (x.a, x.b)
  let a := a != (bit inv 0 != bit inv0 0)
  let b := b != (bit inv 1 != bit inv0 1)
  let (a, b) := if swap then (b, a) else (a, b)
  s.setEnc e { x with a := a, b := b, z := x.z != (bit inv 2 != bit inv0 2) }

/-- A write of `pwr.target`: the transition begins, or follows the one under way (R379, R380). P4 is left by this route
from the service USB port alone. DESIGN CHOICE, entry 59. -/
def Dev.setTarget (s : Dev) (p : Path) (v : Nat) : Dev :=
  let want := if v = E.pwrTarget.P3 then E.pwrState.P3 else if v = E.pwrTarget.P4 then E.pwrState.P4 else E.pwrState.P0
  let want := if s.rst.moving = some E.pwrState.P4 ∧ p ≠ .usb then E.pwrState.P4 else want
  if s.rst.moving.isSome then { s with rst := { s.rst with nextTarget := some want } }
  else if s.inP want = true ∨ (s.inP E.pwrState.P4 = true ∧ p ≠ .usb) then s
  else { s with rst := { s.rst with moving := some want } }

/-- Force a lane tile out of reset before its PLL locks (R369). -/
def Dev.forceTile (s : Dev) (t : Nat) : Dev :=
  if s.rst.unlocked.get false t then
    let s := { s with rst := { s.rst with waitLock := s.rst.waitLock.set false t true } }
    s.forEach ((List.range 8).map (fun i => 8 * t + i)) (fun s l =>
      if s.linkBase l = l ∧ s.pv P.laneMode l = E.laneMode.LINK then s.attempt l 1 else s)
  else s

/-- What an accepted IMM value does beside being in force; `old` is the state before the entry. -/
def Dev.follow' (s : Dev) (p : Path) (e : Entry) (old : Dev) : Dev :=
  let i := e.inst
  if e.id = P.posEncInvert ∨ e.id = P.posEncSwapAb then s.rewire i old
  else if e.id = P.posEncZPeriod ∨ e.id = P.posEncZTol then setEncBit s i 3 false
  else if e.id = P.posAxisTol ∨ e.id = P.posAxisTolSpan then (if s.axisDead i then s else s.newSpan i s.now)
  else if e.id = P.posAxisDir then s.setAxis i { s.axis i with ext := s.axisPos i s.now }
  else if e.id = P.fiPolarity then s.setP P.fiLevel i (b2n ((s.fin i).level == (e.value == E.fiPolarity.HIGH)))
  else if e.id = P.ephFolioMib then (if s.tiles.isEmpty then { s with folioMib := e.value } else s)
  else if e.id = P.qForm ∨ e.id = P.qSizeLog2 then
    s.putQueue i { Queue.reset with
      reserved := (s.queue i).reserved, owed := (s.queue i).owed, tornDue := (s.queue i).tornDue
      partRead := (s.queue i).partRead }
  else if e.id = P.qWatermark then s.putQueue i (s.queue i)
  else if e.id = P.spanAxisMask then s.maskAxes old
  else if e.id = P.duxSrc then (s.setDuct (i / 2) { s.duct (i / 2) with div := 0 }).classDux
  else if e.id = P.duxDiv then s.setDuct i { s.duct i with div := 0 }
  else if e.id = P.pwrRailPolicy ∨ e.id = P.pwrRailFixedMv then
    (if s.pv P.pwrRailPolicy 0 = E.pwrRailPolicy.FIXED then s.setP P.pwrRailMv 0 (s.pv P.pwrRailFixedMv 0) else s)
  else if e.id = P.pwrTarget then s.setTarget p e.value
  else if e.id = P.rstLaneForce then (if e.value = 1 then s.forceTile i else s)
  else s

/-- Clear bits of a W1C parameter: a clear of SLIP waits until every member agrees over one full span (R40). -/
def Dev.clearEvents (s : Dev) (id inst mask : Nat) : Dev :=
  let mask :=
    if id = P.posAxisEvents ∧ bit mask slipBit = true ∧ s.axisBit inst slipBit = true ∧ (s.axis inst).spanOk = false then
      clrBit mask slipBit
    else mask
  s.setP id inst (andNot (s.pv id inst) mask)

def isFoParam (id : Nat) : Bool := decide (P.foElectrical ≤ id) && decide (id ≤ P.foWarmHoldLimit)

/-- Apply one checked entry; a software fire may still fail (R306). -/
def Dev.applyEntry (s : Dev) (p : Path) (f : Option Nat) (r : PRow) (e : Entry) : Dev × Nat :=
  match r.acc with
  | .ro | .rc => (s, C.ok)
  | .w1c => (s.clearEvents e.id e.inst e.value, C.ok)
  | .wo =>
    if e.value = 0 then (s, C.ok)
    else match s.softFire p e.inst with | (s', none) => (s', C.ok) | (s', some c) => (s', c)
  | .rw =>
    let isSealed := s.isSealedParam e.id e.inst
    let was := s.ak e.key
    let t := s.setA e.key e.value
    let t :=
      match r.bnd with
      | .frame => t.frameWrite e f
      | .tile => t
      | _ => if isFoParam e.id then t.writeFo e else (t.setK e.key e.value).follow' p e s
    (if isSealed then t.auditAdj 1 (sourceOf p) e.id e.inst was e.value else t, C.ok)

/-! ## What a batch does after its last entry -/

/-- A link as its lanes see it: its lowest lane, its width and the loop in force; none for a lane that is OFF. -/
def Dev.linkKey (s : Dev) (l : Nat) : Option (Nat × Nat × Nat) :=
  let b := s.linkBase l
  if s.pv P.laneMode b = E.laneMode.LINK then some (b, s.pv P.laneWidth b, s.loopOf b) else none

/-- Lanes of no configured link sleep under QUIET and are woken when it clears (R110, R341). -/
def Dev.quietLanes (s : Dev) : Dev :=
  s.forEach (List.range 32) (fun s l =>
    if (s.linkKey l).isSome then s
    else if s.mode M.quiet && s.pv P.laneState l == E.laneState.OFF then s.setLaneSt l E.laneState.SLEEP
    else if !s.mode M.quiet && s.pv P.laneState l == E.laneState.SLEEP then s.setLaneSt l E.laneState.OFF
    else s)

/-- Links whose configuration changed from `old`, or of a lane in `rewritten`, go down and are brought up at attempt 1
(R102, R103, R123). DEDUCED, entry 21. -/
def Dev.relink (s : Dev) (old : Dev) (rewritten : List Nat) : Dev :=
  let hit := (List.range 32).filter (fun l => rewritten.contains l || old.linkKey l != s.linkKey l)
  if hit.isEmpty then s
  else
    let downs := ((hit.filterMap old.linkKey).map Prod.fst).eraseDups
    let s := downs.foldl (fun s b => if (old.lane b).phase = 0 then s else s.linkLost b) s
    let s := s.forEach hit (fun s l =>
      let x := s.lane l
      let s := s.setLane l { Lane.reset with pre := x.pre, post := x.post, reqNum := x.reqNum, frameSeq := x.frameSeq }
      let s := if old.pv P.laneState l = E.laneState.OFF ∨ old.pv P.laneState l = E.laneState.SLEEP then s
        else s.emit (.elecIdle l)
      (s.setLaneSt l E.laneState.OFF).setP P.laneAttempt l 0)
    let ups := ((hit.filterMap s.linkKey).map Prod.fst).eraseDups
    (s.forEach ups (fun s b => s.attempt b 1)).quietLanes

/-- An axis whose configuration a batch wrote takes its reference, holds, or goes on along its primary (R36, R38 to R41).
`old` is the state before the batch. -/
def Dev.axisConfigured (s : Dev) (old : Dev) (x : Nat) : Dev :=
  let out := old.localPos x s.now
  if (s.members x).isEmpty then
    let s := (s.setAxis x { s.axis x with held := out, v := 0, a := 0, hist := [] }).keepView x (old.axisView x)
    let s := s.setP P.posAxisVelocity x 0
    if (old.members x).isEmpty then s else s.axisEvent x deadBit
  else
    let s := s.setAxisBit x deadBit false
    let s :=
      if s.axisBit x slipBit then (s.followEnc x (s.pv P.posAxisPrimary x) s.now out).newSpan x s.now
      else s.takeRef x s.now out
    let s := (s.setAxis x { s.axis x with hist := [] }).keepView x (old.axisView x)
    (s.members x).foldl (fun s e => if s.encLos e then s.losOn x e s.now else s) s

/-- Axes whose reference a batch's entries concern. -/
def Dev.axesHit (s : Dev) (es : List Entry) : List Nat :=
  (List.range 4).filter (fun x => es.any (fun e =>
    ((e.id == P.posAxisMembers || e.id == P.posAxisMethod || e.id == P.posAxisPrimary) && e.inst == x)
      || ((e.id == P.posEncRatioNum || e.id == P.posEncRatioDen) && (s.members x).contains e.inst)))

/-- R37, R38: the members of an axis. -/
def Dev.axisOk (s : Dev) (x : Nat) : Bool :=
  let n := (s.members x).length
  let m := s.pv P.posAxisMethod x
  n == 0 || ((s.members x).contains (s.pv P.posAxisPrimary x) &&
    (if m = E.posAxisMethod.MEAN then n == 2 || n == 3
     else if m = E.posAxisMethod.MEDIAN3 then n == 3 else decide (n ≤ 3)))

/-- R56: an output's source. -/
def Dev.foOk (s : Dev) (o : Nat) : Bool :=
  let f := s.pv P.foFunction o
  let v := s.pv P.foSource o
  if f = E.foFunction.MARKER then decide (v < 4) else if f = E.foFunction.STROBE then decide (v < 64) else true

/-- R15: a link starts at a multiple of its width. -/
def Dev.laneOk (s : Dev) : Bool := (List.range 32).all (fun l => l % s.pv P.laneWidth l == 0)

/-- R19, R218: no stream after an empty slot, none twice. -/
def Dev.membersOk (s : Dev) : Bool :=
  let slots := (List.range 64).map (fun i => s.pv P.ligMember i)
  let used := slots.filter (· < 64)
  (List.range 64).all (fun i => i % 16 == 15 || decide (64 ≤ slots.getD (i + 1) 255) || decide (slots.getD i 255 < 64))
    && used.eraseDups.length == used.length

/-- R180: a POOL_SPLIT slot holds whole quads. -/
def Dev.quadsOk (s : Dev) : Bool :=
  let split := fun (k : Nat) => decide (k < 32) &&
    ((match (s.slot k).active with | some p => p.split | none => false)
      || (match (s.slot k).pending with | some (p, _) => p.split | none => false))
  let bound := fun (n : Nat) => s.ak (pkey P.nibSlot n 0)
  (List.range 96).all (fun n => !split (bound n) || (quadOf n).all (fun m => bound m == bound n))

/-- R279: no source twice. -/
def Dev.sourcesOk (s : Dev) : Bool :=
  let l := ((List.range 48).map (fun c => s.pv P.quillSrc c)).filter (· != 0xFFFF)
  l.eraseDups.length == l.length

/-- R144: the crop of a stream. -/
def Dev.cropOk (s : Dev) (st : Nat) : Bool :=
  let c := s.cfgOf st
  (if c.cropW = 0 then c.width - c.cropX else c.cropW) % c.sx == 0

/-- R140: a PIXEL table on an AREA stream only. -/
def Dev.flatOk (s : Dev) (st : Nat) : Bool :=
  s.pv P.plateFfMode st != E.plateFfMode.PIXEL || s.pv P.plateFrameMode st == E.plateFrameMode.AREA

/-- R144, R149: the crop of a preview. -/
def Dev.surveyOk (s : Dev) (v : Nat) : Bool :=
  let st := s.pv P.plateSurveyStream v
  let w := s.pv P.plateSurveyWidth v
  let w := if w = 0 ∧ st < 64 then s.pv P.plateLineWidth st - s.pv P.plateSurveyX0 v else w
  w % s.pv P.plateSurveyScaleX v == 0

/-- R149: at most 8 previews of one plate unit. -/
def Dev.previewsOk (s : Dev) : Bool :=
  (List.range 8).all (fun u => decide (((List.range 64).filter (fun v =>
    decide (s.pv P.plateSurveyStream v < 64) && s.pv P.plateUnit (s.pv P.plateSurveyStream v) == u)).length ≤ 8))

def inRange (lo hi id : Nat) : Bool := decide (lo ≤ id) && decide (id ≤ hi)

/-- Streams that a batch's plate and trigger entries concern, and webs. -/
def streamsHit (es : List Entry) : List Nat := (es.filterMap (fun e => streamOfParam e.id e.inst)).eraseDups
def websHit (es : List Entry) : List Nat := (es.filterMap (fun e => webOfParam e.id e.inst)).eraseDups

/-- Running streams and webs take at once the memory that their new settings will need (R127, R229).
DESIGN CHOICE, entry 19. -/
def Dev.growMemory (s : Dev) (es : List Entry) : Dev :=
  let w := s.asWritten
  let s := s.forEach (streamsHit es) (fun s st =>
    if (s.stream st).running then s.allocStream st (Nat.max (s.stream st).mem (w.plateNeed st)) else s)
  s.forEach (websHit es) (fun s k =>
    if (s.web k).running then s.allocWeb k (Nat.max (s.web k).mem (w.webNeed k)) else s)

/-- The rules that judge a batch after its last entry: the IDs a rule concerns, whether it holds, its status. -/
def Dev.batchRules (s : Dev) (es : List Entry) : List ((Nat → Bool) × Bool × Nat) :=
  let w := s.asWritten
  let seqs := (es.filterMap (fun e =>
    if e.id = P.nibStreamSlot ∨ e.id = P.ephTileW ∨ e.id = P.ephTileH then some e.inst
    else if e.id = P.nibWebSlot then some (64 + e.inst) else none)).eraseDups
  let shapes := [P.plateLineWidth, P.plateCropX0, P.plateCropWidth, P.plateScaleX, P.plateOutBits, P.plateOutPlanes]
  let shaped := (List.range 68).filter (fun q => s.seqRunning q && (if q < 64 then
      es.any (fun e => shapes.contains e.id && e.inst == q)
    else es.any (fun e => shapes.contains e.id && (List.range 16).any (fun i => s.ligSlot (q - 64) i == e.inst))
      || es.any (fun e => webOfParam e.id e.inst == some (q - 64))))
  let flats := [P.plateFfMode, P.plateFrameMode]
  let crops := [P.plateLineWidth, P.plateCropX0, P.plateCropWidth, P.plateScaleX]
  let mine := fun (ids : List Nat) => (es.filter (fun e => ids.contains e.id)).map Entry.inst
  let surveys := [P.plateSurveyStream, P.plateSurveyX0, P.plateSurveyWidth, P.plateSurveyScaleX]
  [ (fun id => inRange P.laneMode P.laneWidth id, s.laneOk, C.badValue),
    (fun id => inRange P.posAxisMembers P.posAxisPrimary id, (List.range 4).all s.axisOk, C.badValue),
    (isFoParam, (List.range 16).all w.foOk, C.badValue),
    (fun id => id == P.nibSlot, s.quadsOk, C.badValue),
    (fun id => id == P.ligMember, w.membersOk, C.badValue),
    (fun id => id == P.quillSrc, s.sourcesOk, C.badValue),
    (crops.contains, (mine crops).all w.cropOk, C.badValue),
    (flats.contains, (mine flats).all (fun st => !(s.stream st).running || w.flatOk st), C.badValue),
    (fun id => shapes.contains id || inRange 0x0900 0x09FF id, shaped.all w.fits, C.badValue),
    (surveys.contains, (mine surveys).all w.surveyOk, C.badValue),
    (fun id => id == P.plateSurveyStream || id == P.plateUnit, w.previewsOk, C.noResource),
    (fun id => [P.nibStreamSlot, P.nibWebSlot, P.ephTileW, P.ephTileH].contains id, seqs.all w.fits, C.badValue),
    (fun id => inRange 0x0600 0x09FF id || id == P.qForm || id == P.qSizeLog2, decide (0 ≤ (s.growMemory es).memFree), C.noMemory),
    (fun _ => true, decide (s.calKeys.length ≤ 252), C.noResource) ]

/-- The rules that a batch breaks, by their place in `batchRules`, with their status. A rule that no entry concerns is
not judged. -/
def Dev.batchBad (s : Dev) (es : List Entry) : List (Nat × Nat) :=
  ((s.batchRules es).zipIdx.filter (fun r => es.any (fun e => r.1.1 e.id) && !r.1.2.1)).map (fun r => (r.2, r.1.2.2))

/-- Apply the entries in order; the first that fails gives its index and status (R320, R330). -/
def Dev.applyAll (p : Path) (f : Option Nat) : List Entry → Nat → Dev → Dev × Option (Nat × Nat)
  | [], _, s => (s, none)
  | e :: r, i, s =>
    match paramRow e.id with
    | none => (s, some (i, C.badParam))
    | some row =>
      let c := entryCode p true e
      let c := if c = C.ok then s.valueCode row e f else c
      if c ≠ C.ok then (s, some (i, c))
      else
        let (s', c) := s.applyEntry p f row e
        if c ≠ C.ok then (s, some (i, c)) else Dev.applyAll p f r (i + 1) s'

/-- What follows a batch that holds: axes, links, loads, memory, the calibration copy. -/
def Dev.afterBatch (s : Dev) (old : Dev) (es : List Entry) : Dev :=
  let s := (s.axesHit es).foldl (fun s x => s.axisConfigured old x) s
  let s := (s.foEmit old).trigsEntered (List.range 64)
  let lanes := (es.filter (fun e => e.id == P.laneMode)).map Entry.inst
  let s := s.relink old lanes
  let s := (s.growMemory es).switchAll.merTouch
  if es.any (fun e => (paramRow e.id).any (fun r => r.acc = .rw) && old.isSealedParam e.id e.inst) then s.writeCal else s

/-- The entry that breaks rule `k` of `batchRules`: the one after which the rule does not hold again to the end of the
batch. DESIGN CHOICE, entry 11. -/
def Dev.breaksAt (s : Dev) (p : Path) (f : Option Nat) (es : List Entry) (k : Nat) : Nat :=
  let holds := fun (n : Nat) =>
    match ((Dev.applyAll p f (es.take n) 0 s).1.batchRules es)[k]? with
    | some r => r.2.1
    | none => true
  (List.range es.length).foldl (fun i n => if holds n then n else i) 0

/-- The first failing entry of a batch that breaks rules, with its status (R320). -/
def firstOf : List (Nat × Nat) → Option (Nat × Nat)
  | [] => none
  | b :: r => some (r.foldl (fun a b => if b.1 < a.1 then b else a) b)

/-- A PARAM_SET batch from a path: the state it leaves, or the index and status of the entry that refuses it whole. -/
def Dev.setBatch (s : Dev) (p : Path) (f : Option Nat) (es : List Entry) : Dev × Option (Nat × Nat) :=
  match Dev.applyAll p f es 0 s with
  | (_, some b) => (s, some b)
  | (t, none) =>
    match firstOf ((t.batchBad es).map (fun b => (s.breaksAt p f es b.1, b.2))) with
    | some b => (s, some b)
    | none => (t.afterBatch s es, none)

end Sys2Proof.Machine
end

