-- ==== Sys2Proof/Machine/Host.lean ====
section
/-! DEFINITION. Direct registers, mailbox windows and doorbells, the service USB port's requests (R1 to R5, R272 to
R277, R316 to R321, R379, R397). -/
namespace Sys2Proof.Machine

/-! ## Reading direct registers (R5, R274, R275) -/

/-- `n` cause bits from source `base`. -/
def causeBits (m : FMap Bool) (base n : Nat) : Nat :=
  ((List.range n).map (fun i => if m.get false (base + i) then 2 ^ i else 0)).foldl (· + ·) 0

/-- ID_STATE. -/
def Dev.idState (s : Dev) : Nat :=
  s.pv P.secLc 0 + 8 * s.rst.image + 32 * s.activeLevel + 128 * b2n s.rst.ready

/-- The identification registers, the same on both functions: the 4-byte word at an offset. -/
def Dev.idWord (s : Dev) (off : Nat) : Nat :=
  if off = 0x00 then 0x9640
  else if off = 0x04 then Config.silicon.toNat % 65536
  else if off = 0x08 then Config.serial.toNat % 2 ^ 32
  else if off = 0x0C then Config.serial.toNat / 2 ^ 32
  else if off = 0x10 then s.rst.fwVersion
  else if off = 0x14 then s.idState
  else if off = 0x18 then s.rst.gen + 16 * s.rst.width
  else if off = 0x20 then s.pv P.modeWord 0
  else 0

/-- Sources of the interrupt register word of PF0 at an offset: first source and number of bits. -/
def intWord0 (off : Nat) : Option (Nat × Nat) :=
  if 0x1000 ≤ off ∧ off < 0x1010 then some (8 * (off - 0x1000), 32)
  else if off = 0x1010 then some (128, 16)
  else if 0x1018 ≤ off ∧ off < 0x102C then some (144 + 8 * (off - 0x1018), 32)
  else if off = 0x1030 then some (304, 2)
  else none

/-- The same of PF1. -/
def intWord1 (off : Nat) : Option (Nat × Nat) :=
  if off = 0x1000 then some (0, 4) else if off = 0x1008 then some (4, 11) else none

/-- The word of a mailbox block at an offset within it. -/
def Dev.mbWord (s : Dev) (m off : Nat) : Nat :=
  let b := s.mb m
  if off < 0x100 then ofLE (b.req.read off 4)
  else if off < 0x200 then ofLE (b.rsp.read (off - 0x100) 4)
  else if off = 0x208 then mbStatus b
  else 0

/-- The word of a channel block at an offset within it. -/
def Dev.chanWord (s : Dev) (c off : Nat) : Nat :=
  let x := s.chan c
  if off = 0x08 then x.state + 16 * (x.lastCode % 256)
  else if off = 0x0C then x.doneCount
  else if off = 0x10 then x.events
  else 0

/-- The present value of the 4-byte word at an aligned offset of BAR0; an unlisted one reads 0. -/
def Dev.regWord (s : Dev) (fn : Fn) (off : Nat) : Nat :=
  if off < 0x24 then s.idWord off
  else
    match fn with
    | .pf1 =>
      (match intWord1 off with
       | some (b, n) => causeBits s.int1 b n
       | none => if 0x10000 ≤ off ∧ off < 0x11000 then s.mbWord (16 + (off - 0x10000) / 0x400) (off % 0x400) else 0)
    | .pf0 =>
      (match intWord0 off with
       | some (b, n) => causeBits s.int0 b n
       | none =>
         if 0x1100 ≤ off ∧ off ≤ 0x1100 + 4 * 304 then s.vectorOf ((off - 0x1100) / 4)
         else if 0x10000 ≤ off ∧ off < 0x14000 then s.mbWord ((off - 0x10000) / 0x400) (off % 0x400)
         else if 0x20000 ≤ off ∧ off < 0x21000 then s.chanWord ((off - 0x20000) / 0x40) (off % 0x40)
         else 0)

/-- Offsets of the lower halves of the 64-bit registers. -/
def wideReg (fn : Fn) (off : Nat) : Bool :=
  off == 0x08 || (decide (fn = .pf0) &&
    (off == 0x1000 || off == 0x1008 || off == 0x1018 || off == 0x1020
      || (decide (0x20000 ≤ off) && decide (off < 0x21000) && off % 0x40 == 0x08)))

/-- Whether the functions can be reached: not in a cold reset, P4 or while PE_PERST_N is asserted.
DESIGN CHOICE, entry 15. -/
def Dev.pcieOff (s : Dev) : Bool := s.rst.coldPending || s.inP E.pwrState.P4 || s.rst.perstLow

/-! ### MSI-X tables and the Meridian record window (R70, R272) -/

/-- Vectors of a function (R270). -/
def fnVectors : Fn → Nat
  | .pf0 => 256
  | .pf1 => 16

/-- Whether a BAR of a function holds its MSI-X table and PBA (R272). -/
def msixBar (fn : Fn) (bar : Bar) : Bool :=
  match fn, bar with
  | .pf0, .b2 => true
  | .pf1, .b4 => true
  | _, _ => false

/-- The word of an MSI-X table or a PBA at an offset: address, data and the mask bit of each entry of 16 bytes; from
0x8000 one pending bit a vector. PRESUMED, entry 78. -/
def Quill.msixWord (q : Quill) (fn : Fn) (off : Nat) : Nat :=
  let (tab, masked, pend) := match fn with
    | .pf0 => (q.table0, q.masked0, q.pend0)
    | .pf1 => (q.table1, q.masked1, q.pend1)
  let v := off / 16
  if v < fnVectors fn then
    (if off % 16 = 12 then b2n (masked.get true v) else tab.get 0 (4 * v + off % 16 / 4))
  else if 0x8000 ≤ off ∧ 8 * (off - 0x8000) < fnVectors fn then
    causeBits pend (8 * (off - 0x8000)) (Nat.min 32 (fnVectors fn))
  else 0

/-- The word of Meridian's memory at an offset of the record window; the key store reads as zero (R70). -/
def Mer.windowWord (m : Mer) (off : Nat) : Nat :=
  if off < 0x2000 then 0
  else if off < 0x3000 then fld m.calA (off - 0x2000) 4
  else if off < 0x4000 then fld m.calB (off - 0x3000) 4
  else if off < 0x22000 then fld (m.audit.getD ((off - 0x4000) / 64) []) ((off - 0x4000) % 64) 4
  else if off < 0x40000 then fld (m.records.get [] ((off - 0x22000) / 96)) ((off - 0x22000) % 96) 4
  else 0

/-- The present value of the 4-byte word at an aligned offset of a BAR (R70, R272, R274, R275). -/
def Dev.barWord (s : Dev) (fn : Fn) (bar : Bar) (off : Nat) : Nat :=
  if bar = .b0 then s.regWord fn off
  else if msixBar fn bar then s.quill.msixWord fn off
  else if fn = .pf1 ∧ bar = .b2 then s.mer.windowWord off
  else 0

/-- Key of a latched upper half. -/
def latchKey (fn : Fn) (off : Nat) : Nat := off + (match fn with | .pf0 => 0 | .pf1 => 2 ^ 18)

/-- A host read of a BAR. A naturally aligned one of 8 bytes returns both words. One of 4 bytes that reads the lower half
of a 64-bit register latches its upper half, and the read of that upper half which follows returns what was latched
(R5); any other access reads zero (R273). A read of an upper half for which nothing is latched, a second one after the
latched value has been returned included, gives the present value: the manual does not say. DESIGN CHOICE, entry 15. -/
def runLowHalfRead (fn : Fn) (bar : Bar) (off size : Nat) (s : Dev) : Dev :=
  if s.pcieOff then s
  else if size = 8 ∧ off % 8 = 0 then
    s.emit (.readData (s.barWord fn bar off + 2 ^ 32 * s.barWord fn bar (off + 4)))
  else if size = 4 ∧ off % 4 = 0 then
    let v := s.barWord fn bar off
    if bar = .b0 ∧ wideReg fn off = true then
      { s with latch := s.latch.set none (latchKey fn (off + 4)) (some (s.regWord fn (off + 4))) }.emit (.readData v)
    else
      match (if bar = .b0 then s.latch.get none (latchKey fn off) else none) with
      | some u => { s with latch := s.latch.set none (latchKey fn off) none }.emit (.readData u)
      | none => s.emit (.readData v)
  else s.emit (.readData 0)

/-! ## Writing (R2, R3, R273, R276, R277, R316, R318) -/

/-- Clear cause bits of a word by a W1C write. -/
def clearBits (m : FMap Bool) (base n mask : Nat) : FMap Bool :=
  (bitsOf n mask).foldl (fun m i => m.set false (base + i) false) m

/-- The write of a mailbox request window: discarded and counted while the mailbox is QUEUED or RUNNING. -/
def Dev.writeReq (s : Dev) (m off : Nat) (data : Bytes) : Dev :=
  let b := s.mb m
  if b.st = .queued ∨ b.st = .running then s.bump P.ctlMbBusyCount m 1
  else s.setMb m { b with req := b.req.write off data }

/-- The write of one 4-byte word outside the request windows. -/
def Dev.writeWord (s : Dev) (fn : Fn) (off v : Nat) : Dev :=
  match fn with
  | .pf1 =>
    (match intWord1 off with
     | some (b, n) => { s with int1 := clearBits s.int1 b n v }
     | none =>
       if 0x10000 ≤ off ∧ off < 0x11000 ∧ off % 0x400 = 0x200 then s.doorbell (16 + (off - 0x10000) / 0x400) else s)
  | .pf0 =>
    (match intWord0 off with
     | some (b, n) => { s with int0 := clearBits s.int0 b n v }
     | none =>
       if 0x1100 ≤ off ∧ off ≤ 0x1100 + 4 * 304 then
         let src := (off - 0x1100) / 4
         { s with intMap := s.intMap.set (vectorAtReset src) src (v % 256) }
       else if 0x10000 ≤ off ∧ off < 0x14000 ∧ off % 0x400 = 0x200 then s.doorbell ((off - 0x10000) / 0x400)
       else if 0x20000 ≤ off ∧ off < 0x21000 then
         let c := (off - 0x20000) / 0x40
         if off % 0x40 = 0 then s.ringChan c
         else if off % 0x40 = 0x10 then s.modChan c (fun x => { x with events := andNot x.events v })
         else s
       else s)

/-- Whether an offset lies in a request window: its mailbox. -/
def reqWindow (fn : Fn) (off : Nat) : Option Nat :=
  let n := match fn with | .pf0 => 16 | .pf1 => 4
  if 0x10000 ≤ off ∧ off < 0x10000 + 0x400 * n ∧ off % 0x400 < 0x100 then
    some ((match fn with | .pf0 => 0 | .pf1 => 16) + (off - 0x10000) / 0x400)
  else none

/-- The write of one word of an MSI-X table; a vector that it unmasks sends its pending message (R272, R276). The PBA
is read-only. PRESUMED, entry 78. -/
def Dev.msixWrite (s : Dev) (fn : Fn) (off v : Nat) : Dev :=
  let e := off / 16
  if fnVectors fn ≤ e then s
  else
    match fn with
    | .pf0 =>
      if off % 16 = 12 then { s with quill := { s.quill with masked0 := s.quill.masked0.set true e (bit v 0) } }.sendPending fn
      else { s with quill := { s.quill with table0 := s.quill.table0.set 0 (4 * e + off % 16 / 4) v } }
    | .pf1 =>
      if off % 16 = 12 then { s with quill := { s.quill with masked1 := s.quill.masked1.set true e (bit v 0) } }.sendPending fn
      else { s with quill := { s.quill with table1 := s.quill.table1.set 0 (4 * e + off % 16 / 4) v } }

/-- The write of one 4-byte word of a BAR; the record window discards it (R272). -/
def Dev.barWordWrite (s : Dev) (fn : Fn) (bar : Bar) (off v : Nat) : Dev :=
  if bar = .b0 then s.writeWord fn off v else if msixBar fn bar then s.msixWrite fn off v else s

/-- A write of a BAR: naturally aligned, of 4 or 8 bytes, in a request window of any power of two up to 64 (R273). -/
def Dev.barWrite (s : Dev) (fn : Fn) (bar : Bar) (off size v : Nat) : Dev :=
  match (if bar = .b0 then reqWindow fn off else none) with
  | some m =>
    if [1, 2, 4, 8, 16, 32, 64].contains size && off % size == 0 then s.writeReq m (off % 0x400) (le size v) else s
  | none =>
    if size = 4 ∧ off % 4 = 0 then s.barWordWrite fn bar off (v % 2 ^ 32)
    else if size = 8 ∧ off % 8 = 0 then
      (s.barWordWrite fn bar off (v % 2 ^ 32)).barWordWrite fn bar (off + 4) (v / 2 ^ 32 % 2 ^ 32)
    else s

/-- A write that reaches the device: in P3 a write of PF0 is held until P0 (R379). DESIGN CHOICE, entry 15. -/
def Dev.hostWrites (s : Dev) (fn : Fn) (bar : Bar) (off size v : Nat) : Dev :=
  if s.pcieOff then s
  else if fn = .pf0 ∧ s.inP E.pwrState.P3 = true then
    { s with rst := { s.rst with heldWrites := s.rst.heldWrites ++ [(bar, off, size, v)] } }
  else s.barWrite fn bar off size v

/-- REGISTER_WRITE: a BAR write of 4 or 8 bytes (R2, R273, R379). DESIGN CHOICE, entry 15. -/
def runRegisterWrite (fn : Fn) (bar : Bar) (off size value : Nat) (t : Nat) (s : Dev) : Dev :=
  ((s.at' t).hostWrites fn bar off size value)

/-- A write to MBm_REQ. -/
def runMailboxReqWrite (fn : Fn) (m : Fin 16) (off : Nat) (data : Bytes) (s : Dev) : Dev :=
  if off < 0x100 then (s.hostWrites fn .b0 (0x10000 + 0x400 * m.val + off) data.length (ofLE data)) else s

/-- Any write to MBm_DOORBELL. -/
def runMbmDoorbell (fn : Fn) (m : Fin 16) (t : Nat) (s : Dev) : Dev :=
  ((s.at' t).hostWrites fn .b0 (0x10200 + 0x400 * m.val) 4 0)

/-- Any write to QCn_DOORBELL. -/
def runQcnDoorbell (c : Fin 64) (s : Dev) : Dev := (s.hostWrites .pf0 .b0 (0x20000 + 0x40 * c.val) 4 0)

/-- A W1C write that meets new settings of the device in the same instant: those bits stay set, and a message is sent for
each (R3, R276). DESIGN CHOICE, entry 6. -/
def runW1cClear (tgt : W1cTarget) (mask devSet : Nat) (s : Dev) : Dev :=
  match tgt with
  | .bar fn off =>
    if s.pcieOff || off % 4 != 0 then s
    else
      let half := fun (s : Dev) (o mask dev : Nat) =>
        let s := s.writeWord fn o mask
        match fn with
        | .pf0 =>
          (match intWord0 o with
           | some (b, n) => s.forEach (bitsOf n dev) (fun s i => s.raise0 (b + i))
           | none =>
             if 0x20000 ≤ o ∧ o < 0x21000 ∧ o % 0x40 = 0x10 then
               s.forEach (bitsOf 5 dev) (fun s i => s.chanEvent ((o - 0x20000) / 0x40) i)
             else s)
        | .pf1 =>
          (match intWord1 o with
           | some (b, n) => s.forEach (bitsOf n dev) (fun s i => s.raise1 (b + i))
           | none => s)
      let isW1c := fun (o : Nat) => match fn with
        | .pf0 => (intWord0 o).isSome || (decide (0x20000 ≤ o) && decide (o < 0x21000) && o % 0x40 == 0x10)
        | .pf1 => (intWord1 o).isSome
      if isW1c off then
        let s := half s off (mask % 2 ^ 32) (devSet % 2 ^ 32)
        if wideReg fn off then (half s (off + 4) (mask / 2 ^ 32 % 2 ^ 32) (devSet / 2 ^ 32 % 2 ^ 32)) else s
      else s
  | .param path id inst =>
    match paramRow id with
    | none => s
    | some r =>
      if r.acc = .w1c ∧ inst < r.inst ∧ mayWrite path id inst = true ∧ (isQueueParam id && decide (120 ≤ inst)) = false then
        let s := s.clearEvents id inst mask
        (s.setP id inst (s.pv id inst ||| devSet % 256))
      else s

/-- An RC value read in the instant in which the device adds to it: the read returns the value before, and the addition
stays for the next read (R4). DESIGN CHOICE, entry 6. -/
def runRcRead (path : Path) (id inst add : Nat) (s : Dev) : Dev :=
  match paramRow id with
  | none => s
  | some r =>
    if r.acc = .rc ∧ inst < r.inst ∧ mayRead path id = true then
      let s := s.emit (.readData (s.readParam id inst 0))
      ((s.clearRc id inst 0).bump id inst add)
    else s

/-- One OUT transfer on the service USB port: a request window and the byte that rings. A request that comes while one
runs is not taken, as at a mailbox. DESIGN CHOICE, entry 13. -/
def runUsbRequest (data : Bytes) (t : Nat) (s : Dev) : Dev :=
  let s := s.at' t
  let b := s.mb 20
  if data.length ≠ 257 ∨ s.rst.attached = false ∨ s.rst.dfu = true ∨ s.rst.coldPending = true
      ∨ b.st = .queued ∨ b.st = .running then s
  else ((s.setMb 20 { b with req := Mem.ofBytes (data.take 256) }).doorbell 20)

/-- The timeout of a mailbox falls due (R321). -/
def runMailboxTimeout (mb : Fin 21) (t : Nat) (s : Dev) : Dev := ((s.at' t).timeoutMb mb)

/-! ## The commands -/

/-- LOW_HALF_READ. -/
def execLowHalfRead (loc : Fn × Bar × Nat) (size : Nat) (s : State) : Out :=
  s.onDev (runLowHalfRead loc.1 loc.2.1 loc.2.2 size)

/-- REGISTER_WRITE. -/
def execRegisterWrite (fn : Fn) (loc : Bar × Nat) (size value : Nat) (t : Nat) (s : State) : Out :=
  s.onDev (runRegisterWrite fn loc.1 loc.2 size value t)

/-- MAILBOX_REQ_WRITE. -/
def execMailboxReqWrite (fn : Fn) (m : Fin 16) (off : Nat) (data : Bytes) (s : State) : Out := s.onDev (runMailboxReqWrite fn m off data)

/-- MBM_DOORBELL. -/
def execMbmDoorbell (fn : Fn) (m : Fin 16) (t : Nat) (s : State) : Out := s.onDev (runMbmDoorbell fn m t)

/-- QCN_DOORBELL. -/
def execQcnDoorbell (c : Fin 64) (s : State) : Out := s.onDev (runQcnDoorbell c)

/-- W1C_CLEAR. -/
def execW1cClear (tgt : W1cTarget) (mask devSet : Nat) (s : State) : Out := s.onDev (runW1cClear tgt mask devSet)

/-- RC_READ. -/
def execRcRead (path : Path) (id inst add : Nat) (s : State) : Out := s.onDev (runRcRead path id inst add)

/-- USB_REQUEST. -/
def execUsbRequest (data : Bytes) (t : Nat) (s : State) : Out := s.onDev (runUsbRequest data t)

/-- MAILBOX_TIMEOUT. -/
def execMailboxTimeout (mb : Fin 21) (t : Nat) (s : State) : Out := s.onDev (runMailboxTimeout mb t)

end Sys2Proof.Machine
end

