-- ==== Sys2Proof/Machine/Mode.lean ====
section
/-! DEFINITION. The mode word: MODE_SET, HOLD and its end, the debug level's fall (R334 to R345, R393). -/
namespace Sys2Proof.Machine

/-! ## The debug level (R342, R393) -/

/-- The active level may have fallen since `old`: below D2 halted Scribe and nibs resume and breakpoints go; below D3 the
TAP holds BYPASS. DESIGN CHOICE, entry 71. -/
def Dev.levelFrom (s : Dev) (old : Nat) : Dev :=
  let s :=
    if 2 ≤ old ∧ s.activeLevel < 2 then
      let s := if s.sec.scribeHalted then { s with alm := { s.alm with scribeAt := s.now } } else s
      let s := { s with sec := { s.sec with scribeHalted := false, scribeBreaks := [] } }
      { s with nibs := s.nibs.mapVal .reset (fun _ n =>
          if n.halted then { n with
            halted := false, steps := 0, breaks := [], lastInstr := s.now
            sentA := if n.bufA.isSome then s.now else n.sentA, sentB := if n.bufB.isSome then s.now else n.sentB }
          else { n with breaks := [] }) }
    else s
  if 3 ≤ old ∧ s.activeLevel < 3 then { s with sec := { s.sec with tapIr := 0 } } else s

/-! ## HOLD (R134, R344, R345) -/

/-- HOLD sets: each running stream that it stops ends its frame once the lines of the triggers sent have come, or ends
frame F - 1. DESIGN CHOICE, entry 32. -/
def Dev.holdOn (s : Dev) (f : Option Nat) : Dev :=
  match f with
  | some n =>
    let s := s.forEach (List.range 64) (fun s st =>
      if (s.stream st).running && trigExpects (s.pv P.trigMode st) && !(s.stream st).held then
        s.modStream st (fun x => { x with holdAt := some n })
      else s)
    s.forEach (List.range 4) (fun s w =>
      if (s.web w).running && !(s.web w).held then s.setWeb w { s.web w with holdAt := some n } else s)
  | none =>
    s.forEach (List.range 64) (fun s st =>
      let x := s.stream st
      if x.running && trigExpects (s.pv P.trigMode st) && !x.held && x.ending != 2 then
        let s := (s.setStream st { x with ending := 1, holdAt := none }).plateState st E.plateState.HELD
        if s.linesDue st then s else s.endNow st
      else s)

/-- How many lines a HOLD that clears still waits for; the frame in progress ends with the last of them (R134). -/
def Dev.linesToHold (s : Dev) (st : Nat) : Nat :=
  let x := s.stream st
  if x.ending ≠ 1 ∨ s.linesDue st = false then x.toHold
  else if x.openFrame.any (fun f => f.cfg.mode == E.plateFrameMode.AREA) then 1
  else x.expect.length + b2n x.asm.isSome

/-- A web whose HOLD still waits for points when it clears ends its frame with the last of them (R134, R228). -/
def Dev.webToHold (s : Dev) (w : Nat) : Dev :=
  let x := s.web w
  if !x.running || x.held || !(x.ending == 1 || (s.stream (s.ligSlot w 0)).ending == 1) then s
  else if x.points.isEmpty then s.webRunEnd w 16
  else s.setWeb w { x with toHold := x.points.length }

/-- HOLD clears: streams and webs run on, generators resume (R52), outputs take what was written. A frame that still
waits for lines ends with HELD all the same (R134). DESIGN CHOICE, entry 32. -/
def Dev.holdOff (s : Dev) : Dev :=
  let s := s.forEach (List.range 4) Dev.webToHold
  let s := s.forEach (List.range 64) (fun s st =>
    let x := { s.stream st with toHold := s.linesToHold st }
    let held := x.held || x.ending == 1 || x.ending == 3
    if !x.running then s
    else
      let s := s.setStream st { x with held := false, ending := if x.ending = 2 then 2 else 0, holdAt := none }
      if held then (s.plateState st E.plateState.RUNNING).trigResume st else s)
  let s := s.forEach (List.range 4) (fun s w =>
    let x := s.web w
    if !x.running then s
    else (s.setWeb w { x with held := false, ending := if x.ending = 2 then 2 else 0, holdAt := none }).setP P.ligState w
      E.ligState.RUNNING)
  s.foResume

/-! ## QUIET (R341) -/

/-- QUIET clears: every parked nib and lane wakes. DESIGN CHOICE, entry 55. -/
def Dev.wakeParked (s : Dev) : Dev :=
  let s := s.forEach (List.range 96) (fun s n =>
    if s.nibSt n = E.nibState.PARKED then (s.setNibSt n E.nibState.IDLE).setNib n { s.nib n with idleSince := s.now } else s)
  s.quietLanes

/-! ## LEGAL (R76, R88) -/

/-- LEGAL clears: open LENGTH records end and are not made. -/
def Dev.legalOff (s : Dev) : Dev := s.forEach (List.range 4) (fun s c => s.lenDrop c)

/-- LEGAL sets: each channel waits for its first start point from here. -/
def Dev.legalOn (s : Dev) : Dev := s.forEach (List.range 4) Dev.lenFrom

/-! ## A change of the mode word (R336) -/

/-- Forget bits that a later MODE_SET changes again. -/
def ModeAt.without (touched : Nat) (a : ModeAt) : ModeAt :=
  { a with setM := andNot a.setM touched, clrM := andNot a.clrM touched }

/-- Change bits of the mode word at once or, for FRAME-bound bits and a SET of HOLD, at frame F.
DESIGN CHOICE, entry 32; DESIGN CHOICE, entry 71. -/
def Dev.changeModes (s : Dev) (setM clrM : Nat) (f : Option Nat) : Dev :=
  let old := s
  let was := s.pv P.modeWord 0
  let word := andNot (was ||| setM) clrM
  let up := fun (i : Nat) => bit word i && !bit was i
  let down := fun (i : Nat) => !bit word i && bit was i
  let s := if up M.span then s.spanBegin else if down M.span then s.spanEnd else s
  let touched := (setM ||| clrM) % 8
  let late : List ModeAt := match f with
    | some n => if touched = 0 then [] else [⟨setM % 8, clrM % 8, n⟩]
    | none => []
  let s := { s with modeAt := s.modeAt.map (ModeAt.without touched) ++ late }
  let s := s.putMode word
  let s := if down M.legal then s.legalOff else if up M.legal then s.legalOn else s
  let s := if up M.loop || down M.loop then s.relink old [] else s
  let s := s.levelFrom old.activeLevel
  let s := if up M.quiet then s.quietLanes else if down M.quiet then s.wakeParked else s
  let s := if up M.survey then
      { s with quill := { s.quill with survey := 0, acq := 0, tap := 0, at' := s.rt } } else s
  let s := s.wakeQuad.merTouch
  let s := if up M.hold then s.holdOn f else if down M.hold then s.holdOff else s
  s.modePending

/-- Whether MODE_SET's arguments are refused (R333, R335). -/
def modeArgsBad (setM clrM at' : Nat) : Bool :=
  let both := setM ||| clrM
  (setM &&& clrM) != 0 || decide (4096 ≤ both) || bit both M.replay || bit both M.update || decide (1 < at')
    || (at' == 1 && bit clrM M.hold)

/-- Whether frame F has begun on a running stream or web that a MODE_SET with AT_FRAME affects (R336). -/
def Dev.modeLate (s : Dev) (setM clrM f : Nat) : Bool :=
  let both := setM ||| clrM
  let frameBits := both % 8 != 0
  let hold := bit setM M.hold
  (List.range 64).any (fun st => (s.stream st).running && decide (f < (s.stream st).frameNo)
      && (frameBits || (hold && trigExpects (s.pv P.trigMode st))))
    || (List.range 4).any (fun w => (s.web w).running && decide (f < (s.web w).frameNo) && (bit both M.acquire || hold))

/-- MODE_SET. -/
def runModeSet (mb : Fin 21) (t : Nat) (s : Dev) : Dev :=
  (s.at' t).cmd mb 0x0020 (fun s r =>
    let setM := fld r.pay 0 4
    let clrM := fld r.pay 4 4
    let at' := fld r.pay 8 1
    let f := if at' = 1 then some (fld r.pay 12 4) else none
    if modeArgsBad setM clrM at' then s.fail mb C.badValue
    else if (match f with | some n => s.modeLate setM clrM n | none => false) then s.fail mb C.late
    else (s.changeModes setM clrM f).done mb)

/-! ## The commands -/

/-- MODE_SET. -/
def execModeSet (mb : Fin 21) (t : Nat) (s : State) : Out := s.onDev (runModeSet mb t)

end Sys2Proof.Machine
end

