-- ==== Sys2Proof/Machine/SecOps.lean ====
section
/-! DEFINITION. Images and their checks, the debug grant, Almanac's events, restarts and ordered resets (R362 to R365,
R382, R387 to R390, R393, R399, R403 to R406). -/
namespace Sys2Proof.Machine

/-! ## Image headers (R388) -/

def imgVersion (h : Bytes) : Nat := fld h 8 4
def imgSvn (h : Bytes) : Nat := fld h 12 2
def imgBody (h : Bytes) : Nat := fld h 16 4
def imgSigned (h : Bytes) : Bool := bit (fld h 20 4) 0

/-- Whether a header of 128 bytes keeps R388 for a TARGET. -/
def hdrOk (h : Bytes) (target : Nat) : Bool :=
  h.length == 128 && slice h 0 4 == [0x4F, 0x52, 0x46, 0x57] && fld h 4 2 == 1 && fld h 6 1 == target && rsvZero h 7 1
    && (target == 1 || decide (imgSvn h ≤ 64)) && rsvZero h 14 2 && decide (1 ≤ imgBody h)
    && decide (imgBody h ≤ 25165568) && decide (fld h 20 4 < 2) && rsvZero h 24 100 && fld h 124 4 == crc32c (h.take 124)

/-- An image as distributed, taken apart: header, body, signature block. -/
def imgParts (b : Bytes) : Bytes × Bytes × Bytes :=
  let h := b.take 128
  (h, (b.drop 128).take (imgBody h), (b.drop (128 + imgBody h)).take 128)

/-- Whether the bytes are a header that keeps R388 with the body and the block that it announces. -/
def imgForm (b : Bytes) (target : Nat) : Bool := hdrOk (b.take 128) target && b.length == 256 + imgBody (b.take 128)

/-! ## Acceptance of main firmware (R382, R389, R390) -/

/-- What the checks of a main image find, in their order. -/
inductive ImgRes where
  | good | form | sig | svn
  deriving DecidableEq, Repr

/-- The signature of a main image under the lifecycle state in effect. -/
def Dev.fwSigOk (s : Dev) (h body sig : Bytes) : Bool :=
  if imgSigned h then sigOk (keyBytes Config.firmwareKeyHash) (sha256 (h ++ body)) sig
  else decide (s.pv P.secLc 0 ≤ E.secLc.OPEN)

/-- The checks of a main image that arrives without encryption. -/
def Dev.checkPlain (s : Dev) (b : Bytes) : ImgRes :=
  let (h, body, sig) := imgParts b
  if !imgForm b 0 then .form
  else if !s.fwSigOk h body sig then .sig
  else if imgSvn h < s.pv P.secSvnFused 0 then .svn else .good

/-- The IV of a flash slot's image (R389). -/
def flashIv (slot stage : Nat) : Bytes := le 1 slot ++ le 3 0 ++ le 8 stage

def Dev.fwSlot (s : Dev) (i : Nat) : FwSlot := if i = 0 then s.alm.slotA else s.alm.slotB
def Dev.setFwSlot (s : Dev) (i : Nat) (x : FwSlot) : Dev :=
  { s with alm := if i = 0 then { s.alm with slotA := x } else { s.alm with slotB := x } }

/-- SVN of a slot's image; the factory image has SVN 0. -/
def FwSlot.svnOf (x : FwSlot) : Nat := if x.factory then 0 else match x.stored with | some (h, _) => imgSvn h | none => 0

/-- The boot ROM's checks of a flash slot: HDR_CRC, the tag, the signature, SVN. The factory image passes the first
three while the flash key stands. -/
def Dev.checkSlot (s : Dev) (i : Nat) : ImgRes :=
  let x := s.fwSlot i
  if s.pv P.almFwSlotState i ≠ E.almFwSlotState.VALID then .form
  else if x.factory then
    (if s.sec.flashKeyErased then .sig else if 0 < s.pv P.secSvnFused 0 then .svn else .good)
  else
    match x.stored with
    | none => .form
    | some (h, ct, tag, sig) =>
      if !hdrOk h 0 then .form
      else if s.sec.flashKeyErased || !Gcm.tagOk (keyBytes Config.flashKey) (flashIv i x.stage) h ct tag then .sig
      else if !s.fwSigOk h (Gcm.decrypt (keyBytes Config.flashKey) (flashIv i x.stage) ct) sig then .sig
      else if imgSvn h < s.pv P.secSvnFused 0 then .svn else .good

def ImgRes.code : ImgRes → Nat
  | .good => 0
  | .form => 1
  | .sig => 2
  | .svn => 3

/-! ## The debug grant (R382, R393) -/

/-- The grant without a token. -/
def lcGrant (lc : Nat) : Nat := if lc = E.secLc.FIELDED ∨ lc = E.secLc.LOCKED then 1 else 3

/-- A token grant ends. -/
def Dev.relock (s : Dev) : Dev :=
  let old := s.activeLevel
  let s := (s.setP P.secDebugGrant 0 (lcGrant (s.pv P.secLc 0))).setP P.secGrantSource 0 E.secGrantSource.LIFECYCLE
  { s with sec := { s.sec with grantEnd := none } }.levelFrom old

/-! ## Almanac: events, the staging session, a restart (R362, R399, R405) -/

/-- A management event: INT_MGMT bit `b` and channel EV100 + b. -/
def Dev.mgmtEvent (s : Dev) (b : Nat) : Dev := (s.fireAsync (100 + b)).raise1 (4 + b)

/-- The boot record is written (R402). -/
def Dev.bootRecord (s : Dev) : Dev := { s with alm := { s.alm with bootSeq := (s.alm.bootSeq + 1) % 2 ^ 32 } }

/-- The staging session is over; UPDATE clears (R343). -/
def Dev.endSession (s : Dev) : Dev := { s with alm := { s.alm with session := none } }.putModeBit M.update false

/-- The staging session is discarded: its slot becomes BAD. DESIGN CHOICE, entry 61. -/
def Dev.discard (s : Dev) : Dev :=
  match s.alm.session with
  | none => s
  | some x =>
    let s := if x.target = 0 then (s.setP P.almFwSlotState x.slot E.almFwSlotState.BAD).bootRecord else s
    s.endSession

/-- Almanac restarts: PF1 mailboxes return to IDLE, the session is discarded. DESIGN CHOICE, entry 67. -/
def Dev.almRestart (s : Dev) : Dev := (s.clearMbs [16, 17, 18, 19]).discard

/-- 100 µs. -/
def resetDelay : Nat := 15625 * psPerRt

/-- A reset that Almanac orders, 15,625 rt from now; a cold one prevails over a warm one (R364, R383, R404, R409). -/
def Dev.orderReset (s : Dev) (warm : Bool) : Dev :=
  let new := (s.now + resetDelay, b2n warm, if warm then E.rstLastCause.ALMANAC_WARM else E.rstLastCause.ALMANAC_COLD)
  match s.rst.due with
  | some (_, 0, _) => s
  | _ => { s with rst := { s.rst with due := some new } }

/-- The image on trial has failed (R406). -/
def Dev.trialFail (s : Dev) : Dev :=
  if s.pv P.almFwTrial 0 = 1 then
    let a := s.pv P.almFwPreferred 0
    let s := (s.setP P.almFwSlotState a E.almFwSlotState.BAD).setP P.almFwPreferred 0 (1 - a)
    let s := s.setP P.almFwTrial 0 0
    let s := { s with alm := { s.alm with trialAt := none } }
    (s.bootRecord.addLog 5 0 a (s.fwSlot a).version).mgmtEvent 6
  else s

end Sys2Proof.Machine
end

