-- ==== Sys2Proof/Machine/ResetOps.lean ====
section
/-! DEFINITION. What resets clear and keep, boot, function level reset, the power states' effects (R58 to R61, R290,
R322, R362 to R380, R400, R406). -/
namespace Sys2Proof.Machine

/-! ## Boot (R371 to R374, R402, R406) -/

/-- The firmware that runs sets READY; an image on trial begins its time. -/
def Dev.setReady (s : Dev) : Dev :=
  let trial := s.pv P.almFwTrial 0 == 1 && s.rst.image == s.pv P.almFwPreferred 0
  let s := { s with rst := { s.rst with ready := true, starting := none, kept := decide (2 ≤ s.rst.image) } }
  let s := { s with alm := { s.alm with scribeAt := s.now } }
  if !trial then s
  else if s.pv P.almFwTrialS 0 = 0 then (s.setP P.almFwTrial 0 0).bootRecord
  else { s with alm := { s.alm with trialAt := some s.now } }

/-- An accepted image starts. Almanac takes its code from it: another image restarts Almanac (R398). `sets`: it sets
READY within its bound. DESIGN CHOICE, entry 60. -/
def Dev.startImage (s : Dev) (src version svn : Nat) (vendor sets : Bool) : Dev :=
  let other := s.rst.image != src || s.rst.fwVersion != version
  let s := { s with rst := { s.rst with
    ready := false, image := src, fwVersion := version, loader := false, starting := some s.now } }
  let s := (s.setP P.secSvnRunning 0 svn).setP P.secFwAuth 0 (b2n vendor)
  let s := s.addLog 2 4 src version
  let s := if other then s.almRestart else s
  if sets then s.setReady else s

/-- The boot ROM serves the host loader (R372). -/
def Dev.startLoader (s : Dev) : Dev :=
  let s := { s with rst := { s.rst with
    ready := true, image := 2, fwVersion := 0, loader := true, starting := none, kept := false } }
  (s.setP P.secSvnRunning 0 0).setP P.secFwAuth 0 E.secFwAuth.NONE

/-- The service port waits for an image (R373). -/
def Dev.awaitDfu (s : Dev) : Dev :=
  let s := { s with rst := { s.rst with
    ready := false, image := 3, fwVersion := 0, loader := false, starting := none, kept := false } }
  (s.setP P.secSvnRunning 0 0).setP P.secFwAuth 0 E.secFwAuth.NONE

/-- A flash slot whose image is refused: Almanac logs the cause; an image on trial has failed. -/
def Dev.slotRefused (s : Dev) (i cause : Nat) : Dev :=
  let s := s.addLog 2 4 (16 * i + cause) (s.fwSlot i).version
  if i = s.pv P.almFwPreferred 0 then s.trialFail else s

/-- Start the image of a slot that its checks have accepted. -/
def Dev.startSlot (s : Dev) (i : Nat) (sets : Bool) : Dev :=
  let x := s.fwSlot i
  let vendor := x.factory || (match x.stored with | some (h, _) => imgSigned h | none => false)
  s.startImage i x.version x.svnOf vendor sets

/-- Try the slots of a list in order; each one after the first is a fallback; then the loader.
DESIGN CHOICE, entry 60. -/
def Dev.trySlots (sets : Bool) : List Nat → Dev → Dev
  | [], s => s.startLoader
  | i :: r, s =>
    let s := { s with rst := { s.rst with tried := setBit s.rst.tried i } }
    match s.checkSlot i with
    | .good => s.startSlot i sets
    | e =>
      let s := s.slotRefused i e.code
      Dev.trySlots sets r (if r.isEmpty then s else s.bump P.rstBootFallbackCount 0 1)

/-- Boot from flash: the preferred image, then the other. -/
def Dev.bootFlash (s : Dev) (sets : Bool) : Dev :=
  let a := s.pv P.almFwPreferred 0
  Dev.trySlots sets [a, 1 - a] { s with rst := { s.rst with tried := 0 } }

/-- The image in the private buffer starts. -/
def Dev.startBuffer (s : Dev) (src : Nat) (sets : Bool) : Dev :=
  let h := s.rst.buffer.read 0 128
  s.startImage src (imgVersion h) (imgSvn h) (imgSigned h) sets

/-- Boot after a reset; a warm one takes the host-loaded or USB image that private memory keeps (R374).
DESIGN CHOICE, entry 60. -/
def Dev.boot (s : Dev) (warm sets : Bool) : Dev :=
  let sel := s.pv P.rstBootSel 0
  let s := { s with dirty := s.dirty.set false privPage true }
  if sel ≠ 1 ∧ sel ≠ 2 then s.bootFlash sets
  else if warm && s.rst.kept then
    (if s.checkPlain (s.rst.buffer.read 0 s.rst.runLen) = .good then s.startBuffer s.rst.image sets else s.startLoader)
  else if sel = 1 then s.startLoader else s.awaitDfu

/-! ## Field outputs (R58 to R60) -/

/-- The level an output drives, or would drive without a missing supply. DESIGN CHOICE, entry 33. -/
def Dev.heldLevel (s : Dev) (o : Nat) : Bool :=
  if s.rst.vfieldOk then (match (s.fout o).frozen with | some b => b | none => s.foFunctionLevel o)
  else if s.pv P.foFunction o = E.foFunction.LEVEL then s.foFunctionLevel o else s.offLevel o

/-- Released outputs hold the level they drive, or go to HELD_OFF with a limit of 0. The complement leg of a pair holds
as the true leg does, at the other level. -/
def Dev.holdOutputs (s : Dev) : Dev :=
  s.withFo (fun s =>
    let legOf := fun (o : Nat) => if s.isComplement o then o - 1 else o
    s.forEach (List.range 16) (fun r o =>
      let x := s.fout (legOf o)
      let lim := s.pv P.foWarmHoldLimit (legOf o)
      let y : FieldOut := { x with
        pulse := none, due := [], high := none, frozen := none, shut := (s.fout o).shut
        holdLevel := (if x.kept = .released then s.heldLevel (legOf o) else x.holdLevel) != s.isComplement o
        holdEnd := if x.kept = .released then s.rt + 156250 * lim else x.holdEnd
        kept := if x.kept = .released then (if lim = 0 then .heldOff else .holding) else x.kept }
      r.setFout o y))

/-- Every output goes to HELD_OFF. -/
def Dev.outputsOff (s : Dev) : Dev :=
  s.withFo (fun s => s.forEach (List.range 16) (fun s o => s.setFout o { FieldOut.reset with shut := (s.fout o).shut }))

/-! ## What a reset leaves (R268, R363) -/

/-- Read-only values of group 0x04 that report Meridian's and the field die's state. DESIGN CHOICE, entry 57. -/
def mirrorIds : List Nat :=
  [P.posEncCount, P.posEncStatus, P.posAxisPosition, P.posAxisVelocity, P.posAxisStatus, P.posAxisEvents, P.fiLevel, P.fiLatch]

/-- Values of group 0x0F that the flash holds. DESIGN CHOICE, entry 57. -/
def flashIds : List Nat :=
  [P.almFwSlotState, P.almFwPreferred, P.almFwTrial, P.almFwStageCounter, P.almStoreState, P.almLogNextSeq, P.almLogOldestSeq]

/-- How far a reset reaches. DESIGN CHOICE, entry 57. -/
inductive Reach where
  | powerOn | cold | warm
  /-- the core loses its supply: group 0x04 stands until P4 is left -/
  | p4
  deriving DecidableEq, Repr

/-- Whether a reset leaves a parameter as it is. DESIGN CHOICE, entry 57. -/
def Dev.keepsParam (s : Dev) (r : Reach) (k : Nat) : Bool :=
  let id := k / 16 / 1024
  let g := groupOf id
  let coldish := decide (r = .cold) || decide (r = .powerOn)
  if g = 0x05 ∨ g = 0x0E then true
  else if g = 0x0D then !coldish
  else if g = 0x0F then !coldish || flashIds.contains id
  else
    s.isSealedParam id (k / 16 % 1024) || id == P.foOffLevel || id == P.posAxisScaleNum || id == P.posAxisScaleDen
      || (mirrorIds.contains id && (!decide (r = .powerOn) || id == P.fiLevel))
      || (decide (r = .p4) && g == 0x04)
      || (!coldish && [P.foWarmHoldLimit, P.rstLastCause, P.rstBootSel, P.rstRefSel, P.rstRefFallback, P.rstWarmCount,
        P.spanRefSrc, P.memBankPoisoned].contains id)

/-- Parameters and the mode word: what is not kept returns to its default, what is kept is in force.
DESIGN CHOICE, entry 57. -/
def Dev.clearParams (s : Dev) (r : Reach) : Dev :=
  let update := s.mode M.update
  let acc := s.acc.keep (s.keepsParam r)
  let frc := acc.cells.foldl (fun (m : FMap Nat) c => m.set (pdef c.1) c.1 c.2) (s.frc.keep (s.keepsParam r))
  let s := { s with acc := acc, frc := frc, writes := [], modeAt := [] }
  if update && (r == .warm || r == .p4) then s.setP P.modeWord 0 (2 ^ M.update) else s

/-- Each input's debounced level stands, and is read by the polarity in force (R54). -/
def Dev.readInputs (s : Dev) : Dev :=
  s.forEach (List.range 16) (fun s i =>
    s.setP P.fiLevel i (b2n ((s.fin i).level == (s.pv P.fiPolarity i == E.fiPolarity.HIGH))))

/-- A nib after a warm reset: no program, no tile; its local store keeps every word and its poison map (R248, R363). -/
def Nib.keepStore (n : Nib) : Nib :=
  let at0 := 0x54000 + n.imageMax
  { Nib.reset with
    old := n.region0, const := n.const, descA := n.descA, descB := n.descB, inA := n.inA, inB := n.inB
    store := n.recs.flatten.zipIdx.foldl (fun m p => m.set none (at0 + p.2) (some p.1)) n.store
    granules := n.granules, poison := n.poison }

/-- The core's blocks: streams, webs, nibs, Ephemeris, queues, channels, Ductus, links, mailboxes of PF0. A warm reset
keeps the words of the local stores (R248). -/
def Dev.clearBlocks (s : Dev) (r : Reach) : Dev :=
  let kept := if r = .warm then (List.range 96).foldl (fun m n => m.set Nib.reset n (s.nib n).keepStore) .empty else .empty
  let s := { s with
    streams := .empty, taps := .empty, nibs := kept, slots := .empty, tiles := [], seqs := .empty, ledger := []
    ephAt := s.now, folioMib := 32, webs := .empty, queues := .empty, chans := .empty, dux := .empty, flight := []
    sinks := .empty, trigs := .empty, lanes := .empty, heads := .empty, int0 := .empty, intMap := .empty, latch := .empty
    span := { Span.reset with seenEpoch := s.span.seenEpoch }
    quill := { s.quill with survey := 0, acq := 0, tap := 0, at' := 0, pend0 := .empty } }
  let s := { s with mer := { s.mer with edges := [], webFrames := [], attestDue := s.quadRegistered } }
  s.clearMbs (List.range 16)

/-- Lanes that transmit go to electrical idle. -/
def Dev.lanesIdle (s : Dev) : Dev :=
  s.forEach (List.range 32) (fun s l =>
    if s.pv P.laneState l = E.laneState.OFF ∨ s.pv P.laneState l = E.laneState.SLEEP then s else s.emit (.elecIdle l))

/-- The core die is reset or loses its supply: every mode clears with its effects, blocks and parameters are as after the
reset, and the debug grant ends. -/
def Dev.clearCore (s : Dev) (r : Reach) : Dev :=
  let old := s.activeLevel
  let s := s.lanesIdle.legalOff
  let s := if s.mode M.span then s.spanEnd else s
  let s := ((s.clearParams r).readInputs.clearBlocks r).relock.levelFrom old
  let s := { s with sec := { s.sec with scribeHalted := false, scribeBreaks := [] } }
  let s := { s with rst := { s.rst with ready := false, loader := false, starting := none, waitLock := .empty } }
  (s.withFo id).classDux

/-- The PCI Express edge is reset: Bus Master Enable clears and every vector is masked. -/
def Dev.clearEdge (s : Dev) : Dev :=
  { s with
    quill := { s.quill with
      masked0 := .empty, masked1 := .empty, pend0 := .empty, pend1 := .empty, bme0 := false, bme1 := false
      table0 := .empty, table1 := .empty, mrrs := 512 }
    rst := { s.rst with unlocked := s.rst.unlocked.set false 4 true } }

/-! ## Leaving P3 (R379) -/

/-- Lanes that sleep for P3 wake. -/
def Dev.wakeLanes (s : Dev) : Dev :=
  let s := s.forEach (List.range 32) (fun s l =>
    if s.pv P.laneState l ≠ E.laneState.SLEEP ∨ (s.linkKey l).isNone then s
    else if s.linkBase l ≠ l then s
    else if (s.lane l).phase = phUp then
      (s.wakeUp l).setLaneSts l (if s.loopOf l = E.laneLoop.NONE then E.laneState.UP else E.laneState.LOOP)
    else s.attempt l 1)
  s.quietLanes

/-- P0 is reached from P3: lanes wake, outputs follow their functions, the writes that were held are applied. -/
def Dev.leaveP3 (s : Dev) : Dev :=
  let s := (s.setP P.pwrState 0 E.pwrState.P0).wakeLanes
  let s := if s.mode M.hold then s else s.foResume
  let held := s.rst.heldWrites
  let s := { s with rst := { s.rst with heldWrites := [] } }
  held.foldl (fun s w => s.barWrite .pf0 w.1 w.2.1 w.2.2.1 w.2.2.2) s

/-- A reset source in P3 acts as an exit to P0 first (R364). -/
def Dev.outOfP3 (s : Dev) : Dev :=
  if s.inP E.pwrState.P3 then { s with rst := { s.rst with moving := none, nextTarget := none } }.leaveP3 else s

/-! ## Cold and warm resets (R60, R362 to R365, R383, R405) -/

/-- A cold reset begins; at power-on Meridian and the timebase start from power-up too. DESIGN CHOICE, entry 56. -/
def Dev.beginCold (s : Dev) (cause : Nat) : Dev :=
  let on := cause == E.rstLastCause.POWER_ON
  let s := s.outputsOff
  let s := (s.clearCore (if on then .powerOn else .cold)).clearEdge.discard
  let s := if s.rst.attached then s.emit (.usbAttach false) else s
  let s := { s with
    poison := .empty, dirty := .empty, scrubbed := 0, gates := .empty, droops := .empty, int1 := .empty
    sec := { s.sec with trace := [], tapIr := 0 }
    alm := { s.alm with calSet := false, disarmed := .empty, fresh := .empty, hot := false, trialAt := none }
    rst := { s.rst with
      coldPending := true, warmPending := false, due := none, fatalAt := none, moving := none, nextTarget := none
      heldWrites := [], attached := false, buffer := .empty, runLen := 0, kept := false, gen := 6, width := 16
      unlocked := (List.range 5).foldl (fun m i => m.set false i true) .empty } }
  let s := (s.clearMbs (List.range 21)).setP P.rstLastCause 0 cause
  let s := (s.setP P.secLc 0 (s.pv P.secLcPending 0)).relock
  if on then
    { s with
      tbOff := 0, encs := .empty, axes := .empty
      mer := { s.mer with openLen := .empty, starved := .empty, lenPrev := .empty, lenRaw := .empty, due := [], attestAt := 0 }
      sec := { s.sec with chalAt := none, fails := 0, lockUntil := 0 }
      alm := { s.alm with logTimes := [], scribeAt := 0, calAt := 0 } }
  else s

/-- A warm reset begins: not during a cold one, nor in P4, which have the core already. DESIGN CHOICE, entry 56. -/
def Dev.beginWarm (s : Dev) (cause : Nat) : Dev :=
  if s.rst.coldPending || s.inP E.pwrState.P4 then s
  else
    let s := s.outOfP3.holdOutputs
    let s := s.clearCore .warm
    let s := { s with
      alm := { s.alm with trialAt := none }
      rst := { s.rst with
        warmPending := true, fatalAt := none, moving := none, nextTarget := none
        due := match s.rst.due with | some (t, 0, c) => some (t, 0, c) | _ => none } }
    ((s.bump P.rstWarmCount 0 1).setP P.rstLastCause 0 cause).addLog 1 0 cause 0

/-! ## Function level reset (R290, R322, R364, R377) -/

/-- A stream stops at once. -/
def Dev.haltStream (s : Dev) (st : Nat) : Dev :=
  if (s.stream st).running then (s.endFrame st 32).stopped st else s

/-- Gaps of the compute domain reset are reported and go with the queue's contents; what the frame in progress had not
cut is not cut any more (R215, R377). -/
def Dev.flrQueue (s : Dev) (q : Nat) : Dev :=
  let s := s.qClear q
  let s := match (s.seqn q).gap with
    | some g => s.domainGap q g
    | none => s
  (s.setSeqn q { Seqn.reset with hold := (s.seqn q).hold }).qClear q

/-- FLR of PF0; without effect during a warm or cold reset and in P4. PRESUMED, entry 58. -/
def Dev.flr0 (s : Dev) : Dev :=
  if s.rst.coldPending || s.rst.warmPending || s.inP E.pwrState.P4 then s
  else
    let s := s.outOfP3.clearMbs (List.range 16)
    let s := s.forEach (List.range 64) Dev.haltStream
    let s := (s.forEach (List.range 4) Dev.webHalt).resetDomain
    let s := s.forEach (List.range 68) Dev.flrQueue
    let s := s.forEach ((List.range 52).map (· + 68)) Dev.qClear
    let s := s.changeModes 0 (2 ^ 12 - 1 - 2 ^ M.replay - 2 ^ M.update) none
    let gone := fun (k : Nat) => groupOf (k / 16 / 1024) == 0x0B && k / 16 / 1024 != P.quillLinkMbps && k / 16 / 1024 != P.quillMps
    { s with
      chans := .empty, int0 := .empty, intMap := .empty
      acc := s.acc.keep (fun k => !gone k), frc := s.frc.keep (fun k => !gone k)
      quill := { s.quill with
        survey := 0, acq := 0, tap := 0, at' := s.rt, masked0 := .empty, pend0 := .empty, bme0 := false, table0 := .empty } }

/-- FLR of PF1: its mailboxes and INT_MGMT. PRESUMED, entry 58. -/
def Dev.flr1 (s : Dev) : Dev :=
  { s.clearMbs [16, 17, 18, 19] with
    int1 := s.int1.keep (fun i => decide (i < 4))
    quill := { s.quill with masked1 := .empty, pend1 := .empty, bme1 := false, table1 := .empty } }

/-! ## P3 and P4 (R378 to R380, R393, R400) -/

/-- P3 is reached: the fabric stops, lanes sleep. -/
def Dev.enterP3 (s : Dev) : Dev :=
  let s := s.forEach (List.range 32) (fun s l =>
    if (s.linkKey l).isNone then s
    else
      if (s.lane l).phase = phUp then (if s.linkBase l = l then s.sleepLink l 1 else s)
      else s.setLane l { s.lane l with phase := 0 })
  let s := s.forEach (List.range 32) (fun s l => s.setLaneSt l E.laneState.SLEEP)
  s.setP P.pwrState 0 E.pwrState.P3

/-- P4 is reached: outputs hold from here, the core loses its supply, the PCI Express link is down. -/
def Dev.enterP4 (s : Dev) : Dev :=
  let s := (s.holdOutputs.clearCore .p4).clearEdge
  let s := { s with
    poison := .empty, dirty := .empty, scrubbed := 0
    rst := { s.rst with heldWrites := [], buffer := .empty, runLen := 0, kept := false } }
  let s := s.forEach (List.range 16) (fun s b => s.setP P.memBankPoisoned b 0)
  s.setP P.pwrState 0 E.pwrState.P4

/-- P4 is left: steps 5 to 12 of the release. -/
def Dev.leaveP4 (s : Dev) (sets : Bool) : Dev :=
  let s := s.clearCore .warm
  let s := { s.setP P.pwrState 0 E.pwrState.P0 with
    rst := { s.rst with unlocked := (List.range 5).foldl (fun m i => m.set false i true) .empty } }
  s.boot false sets

/-- Make a power state. -/
def Dev.reachP (s : Dev) (p : Nat) (sets : Bool) : Dev :=
  if s.inP p then s
  else if p = E.pwrState.P3 then (if s.inP E.pwrState.P4 then s else s.enterP3)
  else if p = E.pwrState.P4 then (if s.inP E.pwrState.P3 then s.leaveP3 else s).enterP4
  else if s.inP E.pwrState.P3 then s.leaveP3
  else s.leaveP4 sets

end Sys2Proof.Machine
end

