-- ==== Sys2Proof/Machine/Almanac.lean ====
section
/-! DEFINITION. Almanac: its commands, images staged and activated, sensors, watchdog of its own, trials (R86, R346,
R397 to R410). -/
namespace Sys2Proof.Machine

/-! ## Information, calendar, log, resets (R408, R409) -/

def runAlmInfo (mb : Fin 21) (s : Dev) : Dev :=
  s.cmd mb 0x0100 (fun s _ =>
    s.answer mb 0 (le 4 (s.fwSlot 0).version ++ le 4 (s.fwSlot 1).version ++ le 1 (s.pv P.almFwPreferred 0)
      ++ le 1 (s.pv P.almFwTrial 0) ++ le 1 s.rst.image ++ le 1 0 ++ le 4 s.alm.bootCount))

def runAlmTimeSet (mb : Fin 21) (t : Nat) (s : Dev) : Dev :=
  (s.at' t).cmd mb 0x0101 (fun s r =>
    ({ s.setP P.almTimeS 0 (fld r.pay 0 8) with alm := { s.alm with calSet := true, calAt := s.now } }).done mb)

def runAlmReset (mb : Fin 21) (t : Nat) (s : Dev) : Dev :=
  (s.at' t).cmd mb 0x0102 (fun s r =>
    let kind := fld r.pay 0 1
    if 1 < kind then s.fail mb C.badValue else (s.done mb).orderReset (kind == 1))

/-- Up to 3 records from a SEQ on, oldest first. -/
def runAlmLogRead (mb : Fin 21) (s : Dev) : Dev :=
  s.cmd mb 0x0110 (fun s r =>
    let seq := fld r.pay 0 4
    let rs := (s.alm.log.reverse.filter (fun b => decide ((fld b 0 4 + 2 ^ 32 - seq) % 2 ^ 32 < 2 ^ 31))).take 3
    s.answer mb rs.length (slice rs.flatten 0 192))

/-! ## Staging (R403, R404) -/

/-- ALM_FW_BEGIN opens a staging session (R403). DESIGN CHOICE, entry 61. -/
def runAlmFwBegin (mb : Fin 21) (t : Nat) (s : Dev) : Dev :=
  (s.at' t).cmd mb 0x0120 (fun s r =>
    let target := fld r.pay 0 1
    let size := fld r.pay 4 4
    if 1 < target ∨ (if target = 0 then 25165824 else 524288) < size then s.fail mb C.badValue
    else if s.mode M.update || s.pv P.secLcPending 0 != s.pv P.secLc 0 then s.fail mb C.busy
    else
      let slot := if s.rst.image < 2 then 1 - s.rst.image else 1 - s.pv P.almFwPreferred 0
      let count := (s.pv P.almFwStageCounter 0 + 1) % 2 ^ 64
      let s := (s.setP P.almFwStageCounter 0 count).bootRecord
      let s := if target = 0 then
          (s.setFwSlot slot { FwSlot.empty with stage := count }).setP P.almFwSlotState slot E.almFwSlotState.STAGING
        else s
      let s := { s with alm := { s.alm with session := some ⟨target, r.path, slot, size, .empty, .empty, false⟩ } }
      ((s.putModeBit M.update true).addLog 3 (sourceOf r.path) target slot).done mb)

def runAlmFwWrite (mb : Fin 21) (t : Nat) (s : Dev) : Dev :=
  (s.at' t).cmd mb 0x0121 (fun s r =>
    let off := fld r.pay 0 4
    let data := slice r.pay 8 (r.len - 8)
    match s.alm.session with
    | none => s.fail mb C.busy
    | some x =>
      if x.path ≠ r.path then s.fail mb C.denied
      else if x.size < off + data.length then s.fail mb C.badValue
      else
        let x := { x with
          data := x.data.write off data, verified := false
          got := (List.range data.length).foldl (fun m i => m.set false (off + i) true) x.got }
        { s with alm := { s.alm with session := some x } }.done mb)

/-- Whether every byte of a session's image has been written. -/
def Session.whole (x : Session) : Bool := (List.range x.size).all (fun i => x.got.get false i)

/-- The checks of a staged main image: the status that refuses it, or OK. -/
def Dev.stagedCode (s : Dev) (x : Session) : Nat :=
  let b := x.data.read 0 x.size
  let (h, body, sig) := imgParts b
  if !x.whole || !imgForm b 0 then C.badValue
  else if s.sec.flashKeyErased || !s.fwSigOk h body sig then C.badSignature
  else if imgSvn h < s.pv P.secSvnFused 0 then C.denied
  else C.ok

/-- A verified main image becomes PREFERRED, on trial, with its body encrypted (R389, R404). -/
def Dev.activate (s : Dev) (x : Session) : Dev :=
  let (h, body, sig) := imgParts (x.data.read 0 x.size)
  let slot := s.fwSlot x.slot
  let (ct, tag) := Gcm.encrypt (keyBytes Config.flashKey) (flashIv x.slot slot.stage) h body
  let s := s.setFwSlot x.slot { slot with stored := some (h, ct, tag, sig) }
  let s := (s.setP P.almFwSlotState x.slot E.almFwSlotState.VALID).setP P.almFwPreferred 0 x.slot
  ((s.setP P.almFwTrial 0 1).bootRecord.endSession).addLog 4 0 x.slot (imgVersion h)

/-- ALM_FW_ACTIVATE: checked at first, then waits at its commit point while REPLAY is set or Scribe is halted (rules n
and o of R346). DESIGN CHOICE, entry 61. -/
def runAlmFwActivate (mb : Fin 21) (t : Nat) (s : Dev) : Dev :=
  (s.at' t).cmd mb 0x0122 (fun s r =>
    let mode := fld r.pay 0 1
    match s.alm.session with
    | none => s.fail mb C.busy
    | some x =>
      if 1 < mode then s.fail mb C.badValue
      else if x.target ≠ 0 then s.fail mb C.busy
      else
        let code := if x.verified then C.ok else s.stagedCode x
        if code ≠ C.ok then s.discard.fail mb code
        else
          let s := if x.verified then s else
            { s with alm := { s.alm with session := some { x with verified := true } } }.mgmtEvent 5
          if s.mode M.replay || s.sec.scribeHalted then s
          else
            let s := (s.activate x).done mb
            if mode = 0 then s.orderReset true else s)

def runAlmFwAbort (mb : Fin 21) (t : Nat) (s : Dev) : Dev :=
  (s.at' t).cmd mb 0x0123 (fun s _ =>
    match s.alm.session with
    | none => s.fail mb C.busy
    | some _ => s.discard.done mb)

/-- MER_FW_STAGE: the staged Meridian image is checked and activated, in ADJUSTING only (R86, R91, R404).
DESIGN CHOICE, entry 61. -/
def runMerFwStage (mb : Fin 21) (t : Nat) (s : Dev) : Dev :=
  (s.at' t).cmd mb 0x0063 (fun s r =>
    match s.alm.session with
    | none => s.fail mb C.busy
    | some x =>
      let b := x.data.read 0 x.size
      let (h, body, sig) := imgParts b
      let digest := sha256 (h ++ body)
      let code := s.sealCode 1
      if x.target ≠ 1 then s.fail mb C.busy
      else if !s.adjusting then s.fail mb C.isSealed
      else if !x.whole || !imgForm b 1 then s.fail mb C.badValue
      else if !sigOk (keyBytes Config.metrologyKeyHash) digest sig then s.fail mb C.badSignature
      else if code ≠ C.ok then s.fail mb code
      else
        let old := s.merFw.1
        let new := imgVersion h / 65536
        let s := s.audit 5 (sourceOf r.path) 0 0 old new
        let s := { s with mer := { s.mer with image := some (new, digest) } }
        (s.endSession.addLog 4 (sourceOf r.path) 2 (imgVersion h)).done mb)

/-! ## The nib program store (R409) -/

/-- ALM_STORE_WRITE writes an entry of the program store (R409). DESIGN CHOICE, entry 68. -/
def runAlmStoreWrite (mb : Fin 21) (s : Dev) : Dev :=
  s.cmd mb 0x0130 (fun s r =>
    let e := fld r.pay 0 1
    let flags := fld r.pay 1 1
    let off := fld r.pay 4 4
    let data := slice r.pay 8 (r.len - 8)
    let first := bit flags 0
    if 63 < e ∨ 3 < flags ∨ 131072 < off + data.length then s.fail mb C.badValue
    else if !first && s.pv P.almStoreState e != E.almStoreState.WRITING then s.fail mb C.busy
    else
      let old : FMap (Option Byte) := if first then .empty else s.alm.store.get .empty e
      let m := data.zipIdx.foldl (fun (m : FMap (Option Byte)) p => m.set none (off + p.2) (some p.1)) old
      let n := Nat.max (if first then 0 else s.alm.storeLen.get 0 e) (off + data.length)
      let put := fun (s : Dev) (v : Nat) =>
        ({ s with alm := { s.alm with store := s.alm.store.set .empty e m, storeLen := s.alm.storeLen.set 0 e n } }.setP
          P.almStoreState e v).done mb
      if bit flags 1 then
        let b := (List.range n).filterMap (m.get none)
        if b.length ≠ n then s.fail mb C.badProgram
        else
          match parseProg b with
          | none => s.fail mb C.badProgram
          | some p => if s.progSigOk p then put s E.almStoreState.VALID else s.fail mb C.badSignature
      else put s E.almStoreState.WRITING)

/-! ## Sensors and management events (R399, R400) -/

/-- A condition with hysteresis under key `k`: it fires when it holds and is armed, and is armed again by `back`.
DESIGN CHOICE, entry 66. -/
def Dev.condition (s : Dev) (k : Nat) (holds back : Bool) (fire : Dev → Dev) : Dev :=
  let off := s.alm.disarmed.get false k
  let put := fun (v : Bool) => { s with alm := { s.alm with disarmed := s.alm.disarmed.set false k v } }
  if holds && !off then fire (put true)
  else if off && back then put false
  else s

/-- One temperature sensor. -/
def Dev.tempIn (s : Dev) (i : Nat) (v : Int) : Dev :=
  let w := toTwos 16 v
  let s := s.setP P.almTemp i w
  if s.alm.fresh.get false i = true ∧ v ≤ ofTwos 16 (s.pv P.almTempMax i) then s
  else { s.setP P.almTempMax i w with alm := { s.alm with fresh := s.alm.fresh.set false i true } }

/-- The bits of `alm.supply_status` with the values at which each arms again. DESIGN CHOICE, entry 73. -/
def supplyBits (vin vf : Nat) : List (Bool × Bool) :=
  [(decide (vin < 11400), decide (11500 ≤ vin)), (decide (12600 < vin), decide (vin ≤ 12500)),
   (decide (vf < 9000), decide (9100 ≤ vf)), (decide (31000 < vf), decide (vf ≤ 30900))]

/-- TEMP_CRIT: an FLR of PF0, then P4 without the checks of R379. DESIGN CHOICE, entry 59. -/
def Dev.overheat (s : Dev) : Dev :=
  if s.rst.coldPending || s.inP E.pwrState.P4 then s
  else
    let s := s.flr0
    let s := (s.setA (pkey P.pwrTarget 0 0) E.pwrTarget.P4).setP P.pwrTarget 0 E.pwrTarget.P4
    { s with alm := { s.alm with hot := true }, rst := { s.rst with moving := some E.pwrState.P4, nextTarget := none } }

/-- Every 10 ms Almanac samples its sensors. DESIGN CHOICE, entry 66. -/
def runSensorSample (temps : List Int) (vinMv vfieldMv railMv : Nat) (t : Nat) (s : Dev) : Dev :=
  let s := s.at' t
  let temps := temps.take 11
  let s := temps.zipIdx.foldl (fun s p => s.tempIn p.2 p.1) s
  let bits := supplyBits vinMv vfieldMv
  let s := ((s.setP P.almVinMv 0 vinMv).setP P.almVfieldMv 0 vfieldMv).setP P.almRailMeasMv 0 railMv
  let s := s.setP P.almSupplyStatus 0 (bits.zipIdx.foldl (fun a p => a + b2n p.1.1 * 2 ^ p.2) 0)
  let warn : Int := s.pv P.almTempWarn 0
  let crit : Int := s.pv P.almTempCrit 0
  let any := fun (lim : Int) => temps.any (fun v => decide (lim ≤ v))
  let s := s.condition 0 (any warn) (!any (warn - 79)) (fun s => (s.addLog 7 0 0 0).mgmtEvent 0)
  let s := bits.zipIdx.foldl (fun s p =>
    s.condition (128 + p.2) p.1.1 p.1.2 (fun s => (s.addLog 8 0 p.2 0).mgmtEvent 2)) s
  let level := fun (s : Dev) (g : Nat) => s.pv P.paceLevel g
  let s := s.condition 192 ((List.range 106).any (fun g => level s g == 1)) ((List.range 106).all (fun g => level s g == 8))
    (fun s => s.mgmtEvent 3)
  let s := s.forEach (List.range 32) (fun s l =>
    let mv := s.pv P.almLaneEyeHMv l
    let lim := s.pv P.almLaneMarginWarnMv 0
    s.condition (256 + l) (s.pv P.laneState l == E.laneState.UP && s.alm.fresh.get false (64 + l) && decide (mv < lim))
      (decide (lim + 5 ≤ mv)) (fun s => (s.addLog 9 0 l mv).mgmtEvent 4))
  let s := s.condition 64 (any crit) (!any (crit - 159)) (fun s => ((s.addLog 7 0 1 0).mgmtEvent 1).overheat)
  if s.alm.hot && !any warn then
    { (s.setA (pkey P.pwrTarget 0 0) E.pwrTarget.P0).setP P.pwrTarget 0 E.pwrTarget.P0 with
      alm := { s.alm with hot := false } }
  else s

/-- The shadow sampler's scan of an UP lane, once per second. -/
def runEyeScan (l : Fin 32) (heightMv : Nat) (width : Fin 65) (t : Nat) (s : Dev) : Dev :=
  let s := s.at' t
  if s.pv P.laneState l = E.laneState.UP then
    { (s.setP P.almLaneEyeHMv l (heightMv % 65536)).setP P.almLaneEyeW l width with
      alm := { s.alm with fresh := s.alm.fresh.set false (64 + l.val) true } }
  else s

/-! ## Almanac's watchdog and the trial (R362, R406, R407) -/

/-- Almanac restarts alone: its watchdog expires, or it reads POISON in its working memory, which is no expiry (R253,
R362, R407). DESIGN CHOICE, entry 67. -/
def runAlmanacWatchdog (poison : Bool) (t : Nat) (s : Dev) : Dev :=
  let s := s.at' t
  (if poison then s else ((s.bump P.almWdCount 0 1).addLog 6 0 1 0).mgmtEvent 7).almRestart

/-- An image on trial has kept READY for `alm.fw.trial_s`. -/
def runTrialExpire (t : Nat) (s : Dev) : Dev :=
  let s := s.at' t
  match s.alm.trialAt with
  | some a =>
    if a + secs (s.pv P.almFwTrialS 0) ≤ s.now ∧ s.pv P.almFwTrial 0 = 1 ∧ s.rst.ready = true then
      { (s.setP P.almFwTrial 0 0).bootRecord with alm := { s.bootRecord.alm with trialAt := none } }
    else s
  | none => s

/-! ## The commands -/

/-- ALM_INFO. -/
def execAlmInfo (mb : Fin 21) (s : State) : Out := s.onDev (runAlmInfo mb)

/-- ALM_TIME_SET. -/
def execAlmTimeSet (mb : Fin 21) (t : Nat) (s : State) : Out := s.onDev (runAlmTimeSet mb t)

/-- ALM_RESET. -/
def execAlmReset (mb : Fin 21) (t : Nat) (s : State) : Out := s.onDev (runAlmReset mb t)

/-- ALM_LOG_READ. -/
def execAlmLogRead (mb : Fin 21) (s : State) : Out := s.onDev (runAlmLogRead mb)

/-- ALM_FW_BEGIN. -/
def execAlmFwBegin (mb : Fin 21) (t : Nat) (s : State) : Out := s.onDev (runAlmFwBegin mb t)

/-- ALM_FW_WRITE. -/
def execAlmFwWrite (mb : Fin 21) (t : Nat) (s : State) : Out := s.onDev (runAlmFwWrite mb t)

/-- ALM_FW_ACTIVATE. -/
def execAlmFwActivate (mb : Fin 21) (t : Nat) (s : State) : Out := s.onDev (runAlmFwActivate mb t)

/-- ALM_FW_ABORT. -/
def execAlmFwAbort (mb : Fin 21) (t : Nat) (s : State) : Out := s.onDev (runAlmFwAbort mb t)

/-- MER_FW_STAGE. -/
def execMerFwStage (mb : Fin 21) (t : Nat) (s : State) : Out := s.onDev (runMerFwStage mb t)

/-- ALM_STORE_WRITE. -/
def execAlmStoreWrite (mb : Fin 21) (s : State) : Out := s.onDev (runAlmStoreWrite mb)

/-- SENSOR_SAMPLE. -/
def execSensorSample (temps : List Int) (vinMv vfieldMv railMv : Nat) (t : Nat) (s : State) : Out := s.onDev (runSensorSample temps vinMv vfieldMv railMv t)

/-- EYE_SCAN. -/
def execEyeScan (l : Fin 32) (heightMv : Nat) (width : Fin 65) (t : Nat) (s : State) : Out := s.onDev (runEyeScan l heightMv width t)

/-- ALMANAC_WATCHDOG. -/
def execAlmanacWatchdog (poison : Bool × Nat) (s : State) : Out := s.onDev (runAlmanacWatchdog poison.1 poison.2)

/-- TRIAL_EXPIRE. -/
def execTrialExpire (t : Nat) (s : State) : Out := s.onDev (runTrialExpire t)

end Sys2Proof.Machine
end

