-- ==== Sys2Proof/Machine/NibRun.lean ====
section
/-! DEFINITION. How a nib runs one instruction: fetch, budget, the loop stack, faults (R160, R171, R186). -/
namespace Sys2Proof.Machine

/-- What an instruction's own effect is. -/
inductive NibRes where
  | go (n : Nib)
  /-- a taken branch to an instruction index -/
  | jump (n : Nib) (target : Int)
  /-- LOOP with count 0 goes on behind its body -/
  | skipTo (n : Nib) (pc : Nat)
  | fault (n : Nib) (f : NibFault)
  deriving DecidableEq, Repr

/-- Loop ends at the instruction reached: count down, repeat, or pop and look at the loop outside (R171).
DEDUCED, entry 42. -/
def endLoops : List LoopEnt → Nat → List LoopEnt × Nat
  | [], pc => ([], pc)
  | l :: r, pc =>
    if pc = l.last + 1 then
      (if 1 < l.left then ({ l with left := l.left - 1 } :: r, l.first) else endLoops r pc)
    else (l :: r, pc)

/-- A branch out of bodies pops their loops (R171). -/
def popOut : List LoopEnt → Nat → List LoopEnt
  | [], _ => []
  | l :: r, pc => if l.first ≤ pc ∧ pc ≤ l.last then l :: r else popOut r pc

/-- Instructions of a program. -/
def Prog.words (p : Prog) : Nat := p.code.length / 8
def Prog.word (p : Prog) (i : Nat) : Nat := fld p.code (8 * i) 8

/-- Whether a branch from `pc` to `t` enters a LOOP body from outside: the bodies are those of the code's LOOP words
(R171). -/
def Prog.intoBody (p : Prog) (pc t : Nat) : Bool :=
  (List.range p.words).any (fun i =>
    p.word i / 2 ^ 52 == 0x008 &&
      (let last := i + 1 + p.word i % 4096
       decide (i + 1 ≤ t) && decide (t ≤ last) && !(decide (i + 1 ≤ pc) && decide (pc ≤ last))))

/-- The budget of the tile that runs: `nib.slot_budget` at its frame, or the container's BUDGET if that is 0 (R186). -/
def Dev.budgetOf (s : Dev) (x : Nib) (p : Prog) : Nat :=
  let b := match x.cur.bind s.tile with | some t => t.budget | none => 0
  if b = 0 then fld p.hdr 28 4 else b

/-- The nib after an instruction: the program counter, loops, breakpoints and single steps (R171, R391).
DEDUCED, entry 42. -/
def Nib.advance (n : Nib) (loops : List LoopEnt) (pc : Nat) : Nib :=
  { n with
    loops := loops
    pc := pc
    halted := n.halted || n.breaks.contains pc
    steps := n.steps - 1 }

/-- The end of an instruction. -/
def Dev.nibAfter (s : Dev) (n : Nat) (p : Prog) (r : NibRes) : Dev :=
  match r with
  | .go x =>
    let (ls, pc) := endLoops x.loops (x.pc + 1)
    if ls ≠ x.loops ∧ p.words ≤ pc then (s.setNib n x).nibFault n .access else s.setNib n (x.advance ls pc)
  | .skipTo x pc =>
    let (ls, pc) := endLoops x.loops pc
    if p.words ≤ pc then (s.setNib n x).nibFault n .access else s.setNib n (x.advance ls pc)
  | .jump x t =>
    if t < 0 ∨ (p.words : Int) ≤ t then (s.setNib n x).nibFault n .access
    else if p.intoBody x.pc t.toNat then (s.setNib n x).nibFault n .stack
    else s.setNib n (x.advance (popOut x.loops t.toNat) t.toNat)
  | .fault x f => (s.setNib n x).nibFault n f

/-- Whether a nib is about to execute: it runs a tile, and no debugger holds it (R185, R391).
DESIGN CHOICE, entry 20. -/
def Dev.nibReady (s : Dev) (n : Nat) : Bool :=
  s.nibSt n == E.nibState.BUSY && (s.nib n).running && (!(s.nib n).halted || decide (0 < (s.nib n).steps))

/-- One instruction on nib `n`. The command runs the instruction at the program counter; a command that spells another
word than the code holds there has no effect (entry 20). -/
def Dev.nibRun (s : Dev) (n cls op : Nat) (f : NibF) (body : Dev → Nib → Dev × NibRes) : Dev :=
  let x := s.nib n
  if s.nibReady n then
    match x.prog with
    | none => s
    | some p =>
      if p.words ≤ x.pc then s.nibFault n .access
      else if x.poison.get false ((128 + 8 * x.pc) / 32) then s.nibFault n (.ecc true)
      else if p.word x.pc ≠ nibWord cls op f then s
      else if s.budgetOf x p ≤ x.icount then s.nibFault n .budget
      else
        let (s, r) := body s { x with icount := x.icount + 1, lastInstr := s.now }
        s.nibAfter n p r
  else s

/-- An instruction that only changes the nib's registers. -/
def Dev.nibReg (s : Dev) (n cls op : Nat) (f : NibF) (g : Nib → Nib) : Dev :=
  s.nibRun n cls op f (fun s x => (s, .go (g x)))

/-- The address of a load or store: s[A] + IMM modulo 2^32. -/
def memAddr (x : Nib) (f : NibF) : Nat := (x.s f.a.val + f.imm).toNat

/-- Count corrected words and fire MEM_UNCORR for new poison (R251, R252). -/
def Dev.nibEcc (s : Dev) (n corr new : Nat) : Dev :=
  let s := if corr = 0 then s else s.bump P.nibEccCorrCount n corr
  s.forEach (List.range new) (fun s _ => s.fireAsync 95)

/-- A load of `len` bytes: ACCESS unless every byte is open to it, ECC if a word is poisoned (R160, R253). -/
def Dev.nibLoad (s : Dev) (n cls op : Nat) (f : NibF) (len : Nat) (errs : List (Nat × Bytes))
    (k : Nib → Bytes → Nib) : Dev :=
  s.nibRun n cls op f (fun s x =>
    let a := memAddr x f
    if (List.range len).all (fun i => x.loadable (a + i)) then
      let (y, corr, bad, new) := x.checkWords 0 errs (wordsOf a len)
      let s := s.nibEcc n corr new
      let hit := (wordsOf a len).filter (fun w => y.poison.get false w && !y.blankGranule (32 * w))
      if bad then (s, .fault y (.ecc (hit.any (fun w => decide (32 * w < 0x13E00)))))
      else (s, .go (k y ((List.range len).map (fun i => y.progByte (a + i)))))
    else (s, .fault x .access))

/-- A store of bytes: ACCESS unless every byte stored may be stored to (R160). `d` lists offset and byte. -/
def Dev.nibStore (s : Dev) (n cls op : Nat) (f : NibF) (d : Nib → List (Nat × Bytes)) : Dev :=
  s.nibRun n cls op f (fun s x =>
    let a := memAddr x f
    let parts := d x
    if parts.all (fun p => (List.range p.2.length).all (fun i => x.storable (a + p.1 + i))) then
      (s, .go (parts.foldl (fun y p => y.storeBytes (a + p.1) p.2) x))
    else (s, .fault x .access))

/-- A pool load: each byte maps to a member of the quad (R161). -/
def Dev.nibPool (s : Dev) (n op : Nat) (f : NibF) (len : Nat) (errs : List (Nat × Bytes))
    (k : Nib → Bytes → Nib) : Dev :=
  s.nibRun n 0x9 op f (fun s x =>
    let a := memAddr x f
    if 63488 < a + len then (s, .fault x .access)
    else
      let member := fun (i : Nat) => (quadOf n).getD ((a + i) / 15872) n
      let offset := fun (i : Nat) => 0x10000 + (a + i) % 15872
      if (List.range len).any (fun i => s.nibSt (member i) == E.nibState.FENCED) then (s, .fault x .poolFenced)
      else
        let s := s.setNib n x
        let (s, bad) := (List.range len).foldl (fun (r : Dev × Bool) i =>
          if i = 0 ∨ (a + i) % 15872 = 0 ∨ offset i % 32 = 0 then
            let m := member i
            let w := offset i / 32
            let (y, corr, p, new) := ((r.1.nib m).checkWord w (errOf errs (16384 * ((a + i) / 15872) + w)))
            (((r.1.setNib m y).nibEcc m corr (b2n new)), r.2 || p)
          else r) (s, false)
        let y := s.nib n
        if bad then (s, .fault y (.ecc true))
        else (s, .go (k y ((List.range len).map (fun i => (s.nib (member i)).byteAt (offset i))))))

end Sys2Proof.Machine
end

