-- ==== Sys2Proof/Machine/Memory.lean ====
section
/-! DEFINITION. The scrubber (R249 to R256). -/
namespace Sys2Proof.Machine

/-- A stored word of 35 bytes; zero data with valid check bytes where nothing is listed (R248). -/
def zeroWord : Bytes := List.replicate 35 0

/-- The canonical form of the stored words: keys strictly rising, no entry equal to what an unlisted key reads as. -/
def Memory.wf (m : FMap Bytes) : Bool := m.wf zeroWord

def State.storedWord (s : State) (k : Nat) : Bytes := s.sram.get zeroWord k

def State.putWord (s : State) (k : Nat) (c : Bytes) : State := { s with sram := s.sram.set zeroWord k c }

/-- Words of the program and constant regions of a nib's local store (R159). -/
def nibScrubWords : Nat := 0x13E00 / 32

/-- Words that one pass reads at present: 16 banks, the private region of 16 MiB, the nibs that take part. -/
def Dev.passWords (s : Dev) : Nat :=
  16 * 262144 + 524288
    + nibScrubWords * ((List.range 96).filter (fun n =>
        s.nibSt n != E.nibState.FENCED && s.nibSt n != E.nibState.LOADING)).length

/-- One word more of the pass has been read (R255). -/
def Dev.scrubStep (s : Dev) : Dev :=
  if s.passWords ≤ s.scrubbed + 1 then { s with scrubbed := 0 }.bump P.memScrubPasses 0 1
  else { s with scrubbed := s.scrubbed + 1 }

/-- What the scrubber finds at a word of a bank or of the private region: the word read is the stored one with the error
pattern `err` upon it (R250 to R252). -/
def State.scrubSram (s : State) (k : Nat) (err : Bytes) (corr bad : Dev → Dev) : State :=
  if s.dev.poison.get false k then s
  else
    let c := (s.storedWord k).zipWith (· ^^^ ·) (slice err 0 35)
    match rsRead c with
    | .good => s.putWord k c
    | .corrected _ _ => { s.putWord k (rsFix c) with dev := corr s.dev }
    | .uncorrectable => { s.putWord k c with dev := bad s.dev }

/-- The scrubber meets an uncorrectable word of a nib's program or constants: the slot's program is loaded again after
the tile, and an ECC hardware fault is counted (R256). -/
def Dev.scrubNib (s : Dev) (n w : Nat) (err : Bytes) : Dev :=
  let (x, corr, _, new) := (s.nib n).checkWord w err
  let s := (s.setNib n x).nibEcc n corr (b2n new)
  if new then (s.setNib n { s.nib n with reload := true }).hwFault n else s

/-- The scrubber's read of one word; a period of 0 turns it off. -/
def execScrubRead (loc : MemLoc) (err : Bytes) (t : Nat) (s : State) : Out :=
  let s := { s with dev := s.dev.at' t }
  let counted := fun (s : State) => { s with dev := s.dev.scrubStep }
  if s.dev.pv P.memScrubPeriodS 0 = 0 then .next s
  else
    match loc with
    | .bank b w =>
      .next (counted (s.scrubSram (bankKey b w) err (fun d => d.bump P.memBankCorrCount b 1) (fun d => d.bankBad b w)))
    | .priv w =>
      if 524288 ≤ w then .next s
      else
        .next (counted (s.scrubSram (privKey w) err (fun d => d.bump P.memPrivCorrCount 0 1) (fun d => d.privBad w)))
    | .nib n w =>
      if s.dev.nibSt n = E.nibState.FENCED ∨ s.dev.nibSt n = E.nibState.LOADING ∨ nibScrubWords ≤ w.val then .next s
      else .next { s with dev := (s.dev.scrubNib n w err).scrubStep }

end Sys2Proof.Machine
end

