-- ==== Sys2Proof/Machine/Meridian.lean ====
section
/-! DEFINITION. Meridian: the seal, length inputs, attestation, the debug line and Meridian's commands (R66 to R92,
R440, R441). The firmware activation stands with the other images. -/
namespace Sys2Proof.Machine

/-- SEAL_ADJ_N has held a level since `tEdge`; it is taken after 10 ms, counted in rt (R66, R67). -/
def runSealChange (asserted : Bool) (tEdge t : Nat) (s : Dev) : Dev :=
  let s := s.at' t
  if s.mer.sealPin = asserted ∨ s.rt < tEdge / psPerRt + 1562500 then s
  else
    let s := { s with mer := { s.mer with sealPin := asserted } }
    if asserted then
      if s.seal = E.merSealState.UNSEALED ∨ (s.sealClosed = true ∧ 2 ≤ s.auditFree) then
        let s := s.setP P.merSealState 0 E.merSealState.ADJUSTING
        ((s.audit 3 0 0 0 0 0).merTouch)
      else s
    else if s.adjusting then
      let s := s.merTouch
      let d := s.calDigest
      let s := s.setP P.merSealState 0 E.merSealState.SEALED
      ((s.audit 4 0 0 0 0 d).setP P.merCalDigest 0 d)
    else s

/-- A length input has had a level since `tEdge`: the level is taken once it has held for `mer.len.debounce_us` (R76).
A change that has not held so long is noted, since a record that it may yet end comes before one that ends later (R79).
-/
def runLengthInputEdge (ch : Fin 4) (level : Bool) (tEdge t : Nat) (s : Dev) : Dev :=
  let s := s.at' t
  if s.mer.lenLevel.get false ch = level then
    { s with mer := { s.mer with lenRaw := s.mer.lenRaw.set none ch none } }.settleRecords
  else if s.now < tEdge + us (s.pv P.merLenDebounceUs ch) then
    { s with mer := { s.mer with lenRaw := s.mer.lenRaw.set none ch (some (level, tEdge)) } }
  else
    let s := { s with mer := { s.mer with
      lenLevel := s.mer.lenLevel.set false ch level, lenRaw := s.mer.lenRaw.set none ch none } }
    let leading := level == (s.pv P.merLenPolarity ch == E.merLenPolarity.HIGH)
    let pos := s.axisPos (s.pv P.merLenAxis ch) tEdge
    let mode := s.pv P.merLenMode ch
    if mode = E.merLenMode.SHEET ∧ leading = true then ((s.lenEnd ch pos tEdge).lenStart ch pos).settleRecords
    else if mode = E.merLenMode.COIL then
      (if leading then (if (s.openLenOf ch).isSome then s else (s.lenStart ch pos))
       else (s.lenEnd ch pos tEdge)).settleRecords
    else s.settleRecords

/-- The check that follows a program load to the registered quad, and that recurs every 1,000 ms; it waits while a nib of
the quad is LOADING (R82, R182). -/
def runQuadAttest (t : Nat) (s : Dev) : Dev :=
  let s := s.at' t
  let loading := (quadNibs (s.pv P.merQuadIndex 0)).any (fun n => s.pv P.nibState n == E.nibState.LOADING)
  if s.quadRegistered && !loading && (s.mer.attestDue || decide (s.mer.attestAt + secs 1 ≤ s.now)) then s.attest
  else s

/-- The hardware line that reports the active debug level (R89). -/
def runDebugLevelChange (t : Nat) (s : Dev) : Dev :=
  let s := s.at' t
  ({ s with sec := { s.sec with merLevel := s.activeLevel } }.merTouch)

/-- MER_IDENT (R87). -/
def runMerIdent (mb : Fin 21) (s : Dev) : Dev :=
  s.cmd mb 0x0060 (fun s _ =>
    let fw := s.merFw
    s.answer mb 0 ([0x4D, 0x52, 0x44, 0] ++ le 2 fw.1 ++ le 1 s.seal ++ le 1 (s.pv P.merQuadIndex 0) ++ slice fw.2 0 32
      ++ le 4 (s.pv P.merEventCounter 0) ++ le 8 (s.pv P.merCalDigest 0) ++ le 8 Config.serial.toNat ++ s.regDigest))

/-- Length channels whose record a change of an item ends (R441). -/
def Dev.channelsOf (s : Dev) (id inst : Nat) : List Nat :=
  if [P.merLenMode, P.merLenAxis, P.merLenInput, P.merLenPolarity, P.merLenDebounceUs, P.merLenInterval].contains id then
    [inst]
  else if id = P.posAxisScaleNum ∨ id = P.posAxisScaleDen then
    (List.range 4).filter (fun c => s.pv P.merLenAxis c == inst)
  else []

/-- MER_ADJUST: one calibration item or axis scale (R441). DESIGN CHOICE, entry 34. -/
def runMerAdjust (mb : Fin 21) (t : Nat) (s : Dev) : Dev :=
  (s.at' t).cmd mb 0x0061 (fun s r =>
    let id := fld r.pay 0 2
    let inst := fld r.pay 2 2
    let word := fld r.pay 4 1
    let v := fld r.pay 8 8
    match paramRow id with
    | none => s.fail mb C.badParam
    | some row =>
      if !adjustIds.contains id then s.fail mb C.badValue
      else if row.inst ≤ inst ∨ row.words ≤ word then s.fail mb C.badInstance
      else if !row.accepts v then s.fail mb C.badValue
      else
        let code := s.sealCode 1
        if code ≠ C.ok then s.fail mb code
        else
          let old := s.pv id inst
          let s' := s.setP id inst v
          if 252 < s'.calKeys.length then s.fail mb C.noResource
          else
            let scale := id == P.posAxisScaleNum || id == P.posAxisScaleDen
            let s' := s'.auditAdj (if scale then 2 else 1) (sourceOf r.path) id inst old v
            let s' := if old = v then s' else s'.forEach (s.channelsOf id inst) Dev.lenDrop
            s'.writeCal.done mb)

/-- MER_QUAD_REGISTER (R81). DESIGN CHOICE, entry 34. -/
def runMerQuadRegister (mb : Fin 21) (t : Nat) (s : Dev) : Dev :=
  (s.at' t).cmd mb 0x0062 (fun s r =>
    let q := fld r.pay 0 1
    let w := fld r.pay 1 1
    if 23 < q ∨ 3 < w then s.fail mb C.badValue
    else
      let code := s.sealCode 1
      if code ≠ C.ok then s.fail mb code
      else
        let old := if s.quadRegistered then s.pv P.merQuadDigest 0 else 0
        let s' := (s.setP P.merQuadIndex 0 q).setP P.merQuadWeb 0 w
        let s' := s'.forEach (List.range 4) (fun s i => s.setP P.merQuadDigest i (fld r.pay (16 + 8 * i) 8))
        if 252 < s'.calKeys.length then s.fail mb C.noResource
        else
          let s' := s'.setP P.merQuadState 0 E.merQuadState.NONE
          let s' := { s' with mer := { s'.mer with attestDue := true, attestAt := s.now, edges := [] } }
          let s' := s'.auditAdj 6 (sourceOf r.path) P.merQuadDigest (q + 256 * w) old (fld r.pay 16 8)
          s'.writeCal.wakeQuad.done mb)

/-- A stored record by its number. -/
def Dev.recordAt (s : Dev) (seq : Nat) : Option Bytes :=
  let b := s.mer.records.get [] (seq % 1280)
  if b ≠ [] ∧ fld b 4 4 = seq then some b else none

/-- MER_RECORD_GET: up to 2 stored records from a RECORD_SEQ (R325). -/
def runMerRecordGet (mb : Fin 21) (s : Dev) : Dev :=
  s.cmd mb 0x0064 (fun s r =>
    let seq := fld r.pay 0 4
    match s.recordAt seq with
    | none => s.answer mb 0 []
    | some a =>
      match s.recordAt ((seq + 1) % 2 ^ 32) with
      | none => s.answer mb 1 a
      | some b => s.answer mb 2 (a ++ b))

/-- MER_ACK (R80). DESIGN CHOICE, entry 34. -/
def runMerAck (mb : Fin 21) (s : Dev) : Dev :=
  s.cmd mb 0x0065 (fun s r =>
    let seq := fld r.pay 0 4
    let before := ofTwos 32 (s.pv P.merRecordSeq 0 + 2 ^ 32 - seq)
    if before ≤ 0 then s.fail mb C.badValue
    else if ofTwos 32 (seq + 2 ^ 32 - s.mer.acked) < 0 then s.answer mb 0 []
    else
      let s := { s with mer := { s.mer with acked := (seq + 1) % 2 ^ 32 } }
      let s := (s.setP P.merStoreUnacked 0 s.unacked).forEach (List.range 4) Dev.lenFrom
      s.done mb)

/-- Whether the chain of audit tags holds; not once the keys are erased (R72, R384). DESIGN CHOICE, entry 36. -/
def Dev.chainValid (s : Dev) : Bool :=
  !s.mer.erased && (s.mer.audit.foldl (fun (a : Bool × Bytes) e =>
    let tag := (hmac s.auditKey (slice e 0 48 ++ a.2)).take 16
    (a.1 && slice e 48 16 == tag, slice e 48 16)) (true, List.replicate 16 0)).1

/-- MER_AUDIT_READ: up to 3 entries and the chain status (R325). -/
def runMerAuditRead (mb : Fin 21) (s : Dev) : Dev :=
  s.cmd mb 0x0066 (fun s r =>
    let es := (s.mer.audit.drop (fld r.pay 0 4)).take 3
    s.answer mb es.length (slice es.flatten 0 192 ++ le 1 (b2n (!s.chainValid))))

/-- MER_VERIFY: the tag of a submitted record (R325). DESIGN CHOICE, entry 36. -/
def runMerVerify (mb : Fin 21) (s : Dev) : Dev :=
  s.cmd mb 0x0067 (fun s r =>
    let ok := !s.mer.erased && hmac (keyBytes Config.recordKey) (slice r.pay 0 64) == slice r.pay 64 32
    s.answer mb (b2n (!ok)) [])

/-! ## The commands -/

/-- SEAL_CHANGE. -/
def execSealChange (asserted : Bool × Nat) (t : Nat) (s : State) : Out :=
  s.onDev (runSealChange asserted.1 asserted.2 t)

/-- LENGTH_INPUT_EDGE. -/
def execLengthInputEdge (ch : Fin 4) (level : Bool) (tEdge t : Nat) (s : State) : Out := s.onDev (runLengthInputEdge ch level tEdge t)

/-- QUAD_ATTEST. -/
def execQuadAttest (t : Nat) (s : State) : Out := s.onDev (runQuadAttest t)

/-- DEBUG_LEVEL_CHANGE. -/
def execDebugLevelChange (t : Nat) (s : State) : Out := s.onDev (runDebugLevelChange t)

/-- MER_IDENT. -/
def execMerIdent (mb : Fin 21) (s : State) : Out := s.onDev (runMerIdent mb)

/-- MER_ADJUST. -/
def execMerAdjust (mb : Fin 21) (t : Nat) (s : State) : Out := s.onDev (runMerAdjust mb t)

/-- MER_QUAD_REGISTER. -/
def execMerQuadRegister (mb : Fin 21) (t : Nat) (s : State) : Out := s.onDev (runMerQuadRegister mb t)

/-- MER_RECORD_GET. -/
def execMerRecordGet (mb : Fin 21) (s : State) : Out := s.onDev (runMerRecordGet mb)

/-- MER_ACK. -/
def execMerAck (mb : Fin 21) (s : State) : Out := s.onDev (runMerAck mb)

/-- MER_AUDIT_READ. -/
def execMerAuditRead (mb : Fin 21) (s : State) : Out := s.onDev (runMerAuditRead mb)

/-- MER_VERIFY. -/
def execMerVerify (mb : Fin 21) (s : State) : Out := s.onDev (runMerVerify mb)

end Sys2Proof.Machine
end

