-- ==== Sys2Proof/WellFormed.lean ====
section
/-! DEFINITION. Well-formed commands: the bounds the manual puts on a command's own shape. A packet, word or frame
has the length its format gives it, and a nib instruction keeps the fields of R169 and R177. -/
namespace Sys2Proof

/-- EW values an instruction accepts (R169, *Element width by instruction*). -/
def NibF.ewIn (f : NibF) (l : List Nat) : Bool := l.contains f.ew.val

/-- A field that names a mask register holds 0 to 7 (R169). -/
def maskReg (r : Fin 32) : Bool := decide (r.val < 8)

/-- An instruction that writes an accumulator has DST [51:49] = 0 (R169). -/
def bankReg (r : Fin 32) : Bool := decide (r.val < 4)

/-- IMM as a signed number (R168). -/
def NibF.simm (f : NibF) : Int := f.imm.toInt

/-- Rounding mode 3 is refused at load (R172, R177). -/
def NibF.roundOk (f : NibF) : Bool := f.imm.toNat / 64 % 4 != 3

/-- The lane count of an element width (R169). -/
def NibF.lanes (f : NibF) : Nat := if f.ew.val = 1 then 128 else 64

/-- The shape of a command. -/
def Instr.wf : Instr → Bool
  | .scrubRead _ err _ => err.length == 35
  | .queueWrite _ d _ _ _ => d.length == 32
  | .queueRead _ err _ => err.length == 35
  | .syncFrameReceive _ f _ _ => f.length == 96
  | .serviceSlot _ f _ => f.length == 16
  | .align _ p _ => (match p with | some b => b.length == 32 | none => true)
  | .trainingFrame _ f _ => f.length == 1024
  | .fecCodeword _ m p _ => m.length == 2570 && p.length == 150
  | .debugRequest _ (.readMem _ err) _ => err.length == 35
  | .descriptorFetch _ w => (match w with | some b => b.length == 64 | none => true)
  | .vadd _ f | .vsub _ f | .vadds _ f | .vsubs _ f | .vaddsu _ f | .vsubsu _ f | .vabsd _ f | .vabsdu _ f
  | .vmin _ f | .vminu _ f | .vmax _ f | .vmaxu _ f | .vand _ f | .vor _ f | .vxor _ f | .vavg _ f | .vavgu _ f
  | .vbcast _ f | .vperm _ f | .vrsum _ f | .vrsumu _ f | .vrmin _ f | .vrmax _ f | .vsel _ f => f.ewIn [0, 1]
  | .vshl _ f | .vshr _ f | .vsar _ f | .vmul _ f => f.ewIn [0, 1] && f.roundOk
  | .vslide _ f => f.ewIn [0, 1] && decide (-(f.lanes : Int) ≤ f.simm) && decide (f.simm ≤ (f.lanes : Int))
  | .vcmpCc _ _ f => f.ewIn [0, 1] && maskReg f.dst
  | .vmac _ f | .vmacu _ f | .vmacs _ f => f.ewIn [0] && bankReg f.dst
  | .vdot2 _ f => f.ewIn [1] && bankReg f.dst
  | .ard _ f | .ardu _ f => f.ewIn [0] && bankReg f.a && f.roundOk
  | .bfmul _ f | .bfcvtI _ f | .bfcvtA _ f => f.ewIn [2]
  | .bfmac _ f => f.ewIn [2] && bankReg f.dst
  | .aclr _ f => f.ewIn [0, 1, 2] && bankReg f.dst
  | .vrfirst _ f | .vrcnt _ f => f.ewIn [0, 1, 2] && maskReg f.a
  | .vldm _ f _ _ => f.ewIn [0, 1, 2] && maskReg f.dst
  | .vstm _ f => f.ewIn [0, 1, 2] && maskReg f.b
  | .nibNop _ f | .brCc _ _ f | .loop _ f | .li _ f | .add _ f | .sub _ f | .and _ f | .or _ f | .xor _ f
  | .shl _ f | .shr _ f | .sar _ f | .mul _ f | .mulh _ f | .mulhu _ f | .min _ f | .max _ f
  | .vpk _ f | .vunpk _ f | .vunpku _ f | .vld _ f _ _ | .vst _ f | .sld _ f _ _ | .sst _ f | .sldh _ f _ _
  | .sldhu _ f _ _ | .pvld _ f _ _ | .psld _ f _ _ | .recEmit _ f | .woutL _ f | .woutR _ f | .tdone _ f _ =>
    f.ewIn [0, 1, 2]
  | _ => true

end Sys2Proof
end

