-- ==== Sys2Proof/Machine/NibWord.lean ====
section
/-! DEFINITION. The nib instruction words: the CLASS and OP of every instruction, its 64-bit word, and the instruction a
word spells (R168 to R170). -/
namespace Sys2Proof

/-- OP of a condition (R170). -/
def BrCond.op : BrCond → Nat
  | .eq => 1 | .ne => 2 | .lt => 3 | .ge => 4 | .ltu => 5 | .geu => 6

def CmpCond.op : CmpCond → Nat
  | .eq => 1 | .ne => 2 | .lt => 3 | .le => 4 | .gt => 5 | .ge => 6 | .ltu => 7 | .geu => 8

namespace Machine

/-- The nib, CLASS, OP and fields of an instruction (R170); none for a command of another kind. -/
def nibOp : Instr → Option (Fin 96 × Nat × Nat × NibF)
  | .nibNop n f => some (n, 0x0, 0x00, f)
  | .brCc n cc f => some (n, 0x0, cc.op, f)
  | .loop n f => some (n, 0x0, 0x08, f)
  | .li n f => some (n, 0x1, 0x00, f)
  | .add n f => some (n, 0x1, 0x01, f)
  | .sub n f => some (n, 0x1, 0x02, f)
  | .and n f => some (n, 0x1, 0x03, f)
  | .or n f => some (n, 0x1, 0x04, f)
  | .xor n f => some (n, 0x1, 0x05, f)
  | .shl n f => some (n, 0x1, 0x06, f)
  | .shr n f => some (n, 0x1, 0x07, f)
  | .sar n f => some (n, 0x1, 0x08, f)
  | .mul n f => some (n, 0x1, 0x09, f)
  | .mulh n f => some (n, 0x1, 0x0A, f)
  | .mulhu n f => some (n, 0x1, 0x0B, f)
  | .min n f => some (n, 0x1, 0x0C, f)
  | .max n f => some (n, 0x1, 0x0D, f)
  | .vadd n f => some (n, 0x2, 0x01, f)
  | .vsub n f => some (n, 0x2, 0x02, f)
  | .vadds n f => some (n, 0x2, 0x03, f)
  | .vsubs n f => some (n, 0x2, 0x04, f)
  | .vaddsu n f => some (n, 0x2, 0x05, f)
  | .vsubsu n f => some (n, 0x2, 0x06, f)
  | .vabsd n f => some (n, 0x2, 0x07, f)
  | .vabsdu n f => some (n, 0x2, 0x08, f)
  | .vmin n f => some (n, 0x2, 0x09, f)
  | .vminu n f => some (n, 0x2, 0x0A, f)
  | .vmax n f => some (n, 0x2, 0x0B, f)
  | .vmaxu n f => some (n, 0x2, 0x0C, f)
  | .vand n f => some (n, 0x2, 0x0D, f)
  | .vor n f => some (n, 0x2, 0x0E, f)
  | .vxor n f => some (n, 0x2, 0x0F, f)
  | .vshl n f => some (n, 0x2, 0x10, f)
  | .vshr n f => some (n, 0x2, 0x11, f)
  | .vsar n f => some (n, 0x2, 0x12, f)
  | .vavg n f => some (n, 0x2, 0x13, f)
  | .vavgu n f => some (n, 0x2, 0x14, f)
  | .vbcast n f => some (n, 0x2, 0x15, f)
  | .vmul n f => some (n, 0x3, 0x01, f)
  | .vmac n f => some (n, 0x3, 0x02, f)
  | .vmacu n f => some (n, 0x3, 0x03, f)
  | .vmacs n f => some (n, 0x3, 0x04, f)
  | .vdot2 n f => some (n, 0x3, 0x05, f)
  | .aclr n f => some (n, 0x4, 0x01, f)
  | .ard n f => some (n, 0x4, 0x02, f)
  | .ardu n f => some (n, 0x4, 0x03, f)
  | .bfmul n f => some (n, 0x5, 0x01, f)
  | .bfmac n f => some (n, 0x5, 0x02, f)
  | .bfcvtI n f => some (n, 0x5, 0x03, f)
  | .bfcvtA n f => some (n, 0x5, 0x04, f)
  | .vcmpCc n cc f => some (n, 0x6, cc.op, f)
  | .vsel n f => some (n, 0x6, 0x09, f)
  | .vslide n f => some (n, 0x6, 0x0A, f)
  | .vperm n f => some (n, 0x6, 0x0B, f)
  | .vpk n f => some (n, 0x6, 0x0C, f)
  | .vunpk n f => some (n, 0x6, 0x0D, f)
  | .vunpku n f => some (n, 0x6, 0x0E, f)
  | .vrsum n f => some (n, 0x7, 0x01, f)
  | .vrsumu n f => some (n, 0x7, 0x02, f)
  | .vrmin n f => some (n, 0x7, 0x03, f)
  | .vrmax n f => some (n, 0x7, 0x04, f)
  | .vrfirst n f => some (n, 0x7, 0x05, f)
  | .vrcnt n f => some (n, 0x7, 0x06, f)
  | .vld n f _ _ => some (n, 0x8, 0x01, f)
  | .vst n f => some (n, 0x8, 0x02, f)
  | .sld n f _ _ => some (n, 0x8, 0x03, f)
  | .sst n f => some (n, 0x8, 0x04, f)
  | .sldh n f _ _ => some (n, 0x8, 0x05, f)
  | .sldhu n f _ _ => some (n, 0x8, 0x06, f)
  | .vldm n f _ _ => some (n, 0x8, 0x07, f)
  | .vstm n f => some (n, 0x8, 0x08, f)
  | .pvld n f _ _ => some (n, 0x9, 0x01, f)
  | .psld n f _ _ => some (n, 0x9, 0x02, f)
  | .recEmit n f => some (n, 0xA, 0x01, f)
  | .woutL n f => some (n, 0xA, 0x02, f)
  | .woutR n f => some (n, 0xA, 0x03, f)
  | .tdone n f _ => some (n, 0xA, 0x04, f)
  | _ => none

/-- The word of a nib instruction. -/
def encodeNib (i : Instr) : Option Nat := (nibOp i).map (fun p => nibWord p.2.1 p.2.2.1 p.2.2.2)

/-- The fields of a word besides CLASS and OP (R168). -/
def wordFields (w : Nat) : NibF where
  dst := Fin.ofNat 32 (bits w 47 5)
  a := Fin.ofNat 32 (bits w 42 5)
  b := Fin.ofNat 32 (bits w 37 5)
  ew := Fin.ofNat 4 (bits w 35 2)
  pred := Fin.ofNat 8 (bits w 32 3)
  imm := BitVec.ofNat 32 w

/-- The instruction of a CLASS and OP with its fields on nib `n`; a load comes without an error, at instant `t`. None for an OP the table does not list. -/
def opInstr (cls op : Nat) (n : Fin 96) (f : NibF) (t : Nat) : Option Instr :=
  match cls, op with
  | 0x0, 0x00 => some (.nibNop n f)
  | 0x0, 1 => some (.brCc n .eq f)
  | 0x0, 2 => some (.brCc n .ne f)
  | 0x0, 3 => some (.brCc n .lt f)
  | 0x0, 4 => some (.brCc n .ge f)
  | 0x0, 5 => some (.brCc n .ltu f)
  | 0x0, 6 => some (.brCc n .geu f)
  | 0x0, 0x08 => some (.loop n f)
  | 0x1, 0x00 => some (.li n f)
  | 0x1, 0x01 => some (.add n f)
  | 0x1, 0x02 => some (.sub n f)
  | 0x1, 0x03 => some (.and n f)
  | 0x1, 0x04 => some (.or n f)
  | 0x1, 0x05 => some (.xor n f)
  | 0x1, 0x06 => some (.shl n f)
  | 0x1, 0x07 => some (.shr n f)
  | 0x1, 0x08 => some (.sar n f)
  | 0x1, 0x09 => some (.mul n f)
  | 0x1, 0x0A => some (.mulh n f)
  | 0x1, 0x0B => some (.mulhu n f)
  | 0x1, 0x0C => some (.min n f)
  | 0x1, 0x0D => some (.max n f)
  | 0x2, 0x01 => some (.vadd n f)
  | 0x2, 0x02 => some (.vsub n f)
  | 0x2, 0x03 => some (.vadds n f)
  | 0x2, 0x04 => some (.vsubs n f)
  | 0x2, 0x05 => some (.vaddsu n f)
  | 0x2, 0x06 => some (.vsubsu n f)
  | 0x2, 0x07 => some (.vabsd n f)
  | 0x2, 0x08 => some (.vabsdu n f)
  | 0x2, 0x09 => some (.vmin n f)
  | 0x2, 0x0A => some (.vminu n f)
  | 0x2, 0x0B => some (.vmax n f)
  | 0x2, 0x0C => some (.vmaxu n f)
  | 0x2, 0x0D => some (.vand n f)
  | 0x2, 0x0E => some (.vor n f)
  | 0x2, 0x0F => some (.vxor n f)
  | 0x2, 0x10 => some (.vshl n f)
  | 0x2, 0x11 => some (.vshr n f)
  | 0x2, 0x12 => some (.vsar n f)
  | 0x2, 0x13 => some (.vavg n f)
  | 0x2, 0x14 => some (.vavgu n f)
  | 0x2, 0x15 => some (.vbcast n f)
  | 0x3, 0x01 => some (.vmul n f)
  | 0x3, 0x02 => some (.vmac n f)
  | 0x3, 0x03 => some (.vmacu n f)
  | 0x3, 0x04 => some (.vmacs n f)
  | 0x3, 0x05 => some (.vdot2 n f)
  | 0x4, 0x01 => some (.aclr n f)
  | 0x4, 0x02 => some (.ard n f)
  | 0x4, 0x03 => some (.ardu n f)
  | 0x5, 0x01 => some (.bfmul n f)
  | 0x5, 0x02 => some (.bfmac n f)
  | 0x5, 0x03 => some (.bfcvtI n f)
  | 0x5, 0x04 => some (.bfcvtA n f)
  | 0x6, 1 => some (.vcmpCc n .eq f)
  | 0x6, 2 => some (.vcmpCc n .ne f)
  | 0x6, 3 => some (.vcmpCc n .lt f)
  | 0x6, 4 => some (.vcmpCc n .le f)
  | 0x6, 5 => some (.vcmpCc n .gt f)
  | 0x6, 6 => some (.vcmpCc n .ge f)
  | 0x6, 7 => some (.vcmpCc n .ltu f)
  | 0x6, 8 => some (.vcmpCc n .geu f)
  | 0x6, 0x09 => some (.vsel n f)
  | 0x6, 0x0A => some (.vslide n f)
  | 0x6, 0x0B => some (.vperm n f)
  | 0x6, 0x0C => some (.vpk n f)
  | 0x6, 0x0D => some (.vunpk n f)
  | 0x6, 0x0E => some (.vunpku n f)
  | 0x7, 0x01 => some (.vrsum n f)
  | 0x7, 0x02 => some (.vrsumu n f)
  | 0x7, 0x03 => some (.vrmin n f)
  | 0x7, 0x04 => some (.vrmax n f)
  | 0x7, 0x05 => some (.vrfirst n f)
  | 0x7, 0x06 => some (.vrcnt n f)
  | 0x8, 0x01 => some (.vld n f [] t)
  | 0x8, 0x02 => some (.vst n f)
  | 0x8, 0x03 => some (.sld n f [] t)
  | 0x8, 0x04 => some (.sst n f)
  | 0x8, 0x05 => some (.sldh n f [] t)
  | 0x8, 0x06 => some (.sldhu n f [] t)
  | 0x8, 0x07 => some (.vldm n f [] t)
  | 0x8, 0x08 => some (.vstm n f)
  | 0x9, 0x01 => some (.pvld n f [] t)
  | 0x9, 0x02 => some (.psld n f [] t)
  | 0xA, 0x01 => some (.recEmit n f)
  | 0xA, 0x02 => some (.woutL n f)
  | 0xA, 0x03 => some (.woutR n f)
  | 0xA, 0x04 => some (.tdone n f t)
  | _, _ => none

/-- The instruction that a word spells on nib `n`, if it is well formed (R169, R177). -/
def decodeNib (n : Fin 96) (t w : Nat) : Option Instr :=
  match opInstr (bits w 60 4) (bits w 52 8) n (wordFields w) t with
  | some i => if i.wf then some i else none
  | none => none

end Machine

end Sys2Proof
end

