-- ==== Sys2Proof/Machine/NibIsa.lean ====
section
/-! DEFINITION. The nib instruction set (R170): one meaning per instruction, over the shared operations of NibRun. -/
namespace Sys2Proof

def BrCond.holds (c : BrCond) (x y : W32) : Bool :=
  match c with
  | .eq => x == y
  | .ne => x != y
  | .lt => decide (x.toInt < y.toInt)
  | .ge => decide (y.toInt ≤ x.toInt)
  | .ltu => decide (x.toNat < y.toNat)
  | .geu => decide (y.toNat ≤ x.toNat)

/-- Compare two lanes of `w` bits. -/
def CmpCond.holds (c : CmpCond) (w x y : Nat) : Bool :=
  let a := Machine.ofTwos w x
  let b := Machine.ofTwos w y
  match c with
  | .eq => x == y
  | .ne => x != y
  | .lt => decide (a < b)
  | .le => decide (a ≤ b)
  | .gt => decide (b < a)
  | .ge => decide (b ≤ a)
  | .ltu => decide (x < y)
  | .geu => decide (y ≤ x)

namespace Machine

/-! ## Lanes and accumulators -/

/-- Lane `i` of width `w` of a vector register. -/
def Nib.lane (n : Nib) (w r i : Nat) : Nat := (n.vr r).toNat / 2 ^ (w * i) % 2 ^ w

/-- The lanes of v[A] that PRED enables (R169). -/
def Nib.enabledLanes (n : Nib) (f : NibF) (w : Nat) : List Nat :=
  ((List.range (1024 / w)).filter (n.laneOn f w)).map (n.lane w f.a.val)

/-- Accumulator bank of a register field, bits [48:47] (R168). -/
def accBank (r : Fin 32) : Nat := r.val % 4

/-- a[D][e] += term e in the enabled lanes, within 40 bits (R172). -/
def Nib.accum (n : Nib) (f : NibF) (term : Nat → Int) : Nib :=
  (List.range 64).foldl (fun y e =>
    if n.enabled f e then y.putAcc 40 (accBank f.dst) e (y.ar (accBank f.dst) e + term e) else y) n

/-- Bytes as 16-bit lanes. -/
def halves (b : Bytes) : List Nat := (List.range 64).map (fun i => fld b (2 * i) 2)

/-! ## bfloat16 (R173) -/

/-- A bfloat16 value: subnormals read as zero of the same sign. -/
inductive Bf where
  | nan
  | inf (neg : Bool)
  /-- ± m × 2^e -/
  | fin (neg : Bool) (m : Nat) (e : Int)
  deriving DecidableEq, Repr

def bfOf (x : Nat) : Bf :=
  let neg := bit x 15
  let ex := x / 128 % 256
  let fr := x % 128
  if ex = 255 then (if fr = 0 then .inf neg else .nan)
  else if ex = 0 then .fin neg 0 0
  else .fin neg (128 + fr) ((ex : Int) - 134)

def bfNan : Nat := 0x7FC0
def bfSign (neg : Bool) : Nat := if neg then 0x8000 else 0
def bfInf (neg : Bool) : Nat := bfSign neg + 0x7F80

/-- ± m × 2^e to bfloat16: nearest, ties to even; overflow to ±Inf; subnormal results to zero. -/
def bfPack (neg : Bool) (m : Nat) (e : Int) : Nat :=
  if m = 0 then bfSign neg
  else
    let len := Nat.log2 m + 1
    let q0 : Nat := if len ≤ 8 then m * 2 ^ (8 - len) else (roundEven m (2 ^ (len - 8))).toNat
    let e0 : Int := e + ((len : Int) - 8)
    let (q, ex) := if q0 = 256 then (128, e0 + 1) else (q0, e0)
    let biased := ex + 134
    if 255 ≤ biased then bfInf neg
    else if biased < 1 then bfSign neg
    else bfSign neg + biased.toNat * 128 + q % 128

/-- v × 2^e to bfloat16 (BFCVT). -/
def bfRound (v : Int) (e : Int) : Nat := bfPack (decide (v < 0)) v.natAbs e

/-- BFMUL of two lanes. -/
def bfMul (x y : Nat) : Nat :=
  match bfOf x, bfOf y with
  | .nan, _ => bfNan
  | _, .nan => bfNan
  | .inf a, .inf b => bfInf (a != b)
  | .inf a, .fin b m _ => if m = 0 then bfNan else bfInf (a != b)
  | .fin a m _, .inf b => if m = 0 then bfNan else bfInf (a != b)
  | .fin a m e, .fin b k g => bfPack (a != b) (m * k) (e + g)

/-- The term of BFMAC: an integer, or invalid with the bound it sets. -/
inductive BfTerm where
  | int (v : Int)
  | invalid (bound : Int)
  deriving DecidableEq, Repr

/-- E of BFMAC and BFCVT.A: IMM[5:0], signed. -/
def bfE (f : NibF) : Int := ofTwos 6 (shift6 f)

def bfTerm (x y : Nat) (e : Int) : BfTerm :=
  let top : Int := 2 ^ 31 - 1
  let bound := fun (neg : Bool) => if neg then -(2 ^ 31 : Int) else top
  match bfOf x, bfOf y with
  | .nan, _ => .invalid top
  | _, .nan => .invalid top
  | .inf a, .inf b => .invalid (bound (a != b))
  | .inf a, .fin b m _ => if m = 0 then .invalid top else .invalid (bound (a != b))
  | .fin a m _, .inf b => if m = 0 then .invalid top else .invalid (bound (a != b))
  | .fin a m p, .fin b k q =>
    let v : Int := if a != b then -((m * k : Nat) : Int) else ((m * k : Nat) : Int)
    let ex := p + q + e
    .int (if 0 ≤ ex then v * 2 ^ ex.toNat else v.fdiv (2 ^ (-ex).toNat))

/-- Add a term to a lane within 32 bits; an invalid one sets the lane and BF_INVALID. -/
def Nib.bfAcc (n : Nib) (b e : Nat) (t : BfTerm) : Nib :=
  match t with
  | .int v => n.putAcc 32 b e (n.ar b e + v)
  | .invalid v => (n.setA b e v).flag stBfInvalid

/-! ## Edge values (R167) -/

/-- A WOUT: ignored off the registered quad or web; at most two are kept. -/
def wout (s : Dev) (n : Nat) (x : Nib) (left : Bool) (v : Int) : Dev × NibRes :=
  let web := match x.cur with
    | some no => (s.tile no).any (fun t => s.isRegSeq t.q)
    | none => false
  if s.inRegQuad n && web then
    (s, .go (if x.wouts.length < 2 then { x with wouts := x.wouts ++ [(left, v)] } else x.flag stWoutExtra))
  else (s.bump P.nibWoutIgnored n 1, .go x)

/-! ## The instructions -/

/-- NOP (R170). -/
def runNibNop (n : Fin 96) (f : NibF) (s : Dev) : Dev :=
  (s.nibReg n 0x0 0x00 f id)

/-- BR.cc: if s[A] cc s[B], PC += IMM (R170, R171). DEDUCED, entry 42. -/
def runBrCc (n : Fin 96) (cc : BrCond) (f : NibF) (s : Dev) : Dev :=
  (s.nibRun n 0x0 (cc.op) f (fun s x =>
    (s, if cc.holds (x.s f.a.val) (x.s f.b.val) then .jump x ((x.pc : Int) + simm f) else .go x)))

/-- LOOP: the next IMM[11:0] + 1 instructions run s[A] times; a fifth loop raises STACK (R170, R171).
DEDUCED, entry 42. -/
def runLoop (n : Fin 96) (f : NibF) (s : Dev) : Dev :=
  (s.nibRun n 0x0 0x08 f (fun s x =>
    let last := x.pc + 1 + f.imm.toNat % 4096
    (s, if 4 ≤ x.loops.length then .fault x .stack
        else if x.s f.a.val = 0 then .skipTo x (last + 1)
        else .go { x with loops := ⟨x.pc + 1, last, (x.s f.a.val).toNat⟩ :: x.loops })))

/-- LI: s[D] = IMM (R170). -/
def runLi (n : Fin 96) (f : NibF) (s : Dev) : Dev :=
  (s.nibReg n 0x1 0x00 f (fun x => x.setS f.dst.val (f.imm)))

/-- ADD, modulo 2^32 (R170). -/
def runAdd (n : Fin 96) (f : NibF) (s : Dev) : Dev :=
  (s.nibReg n 0x1 0x01 f (fun x => x.setS f.dst.val (x.s f.a.val + x.s f.b.val)))

/-- SUB, modulo 2^32 (R170). -/
def runSub (n : Fin 96) (f : NibF) (s : Dev) : Dev :=
  (s.nibReg n 0x1 0x02 f (fun x => x.setS f.dst.val (x.s f.a.val - x.s f.b.val)))

/-- AND (R170). -/
def runAnd (n : Fin 96) (f : NibF) (s : Dev) : Dev :=
  (s.nibReg n 0x1 0x03 f (fun x => x.setS f.dst.val (x.s f.a.val &&& x.s f.b.val)))

/-- OR (R170). -/
def runOr (n : Fin 96) (f : NibF) (s : Dev) : Dev :=
  (s.nibReg n 0x1 0x04 f (fun x => x.setS f.dst.val (x.s f.a.val ||| x.s f.b.val)))

/-- XOR (R170). -/
def runXor (n : Fin 96) (f : NibF) (s : Dev) : Dev :=
  (s.nibReg n 0x1 0x05 f (fun x => x.setS f.dst.val (x.s f.a.val ^^^ x.s f.b.val)))

/-- SHL by s[B][4:0] (R170). -/
def runShl (n : Fin 96) (f : NibF) (s : Dev) : Dev :=
  (s.nibReg n 0x1 0x06 f (fun x => x.setS f.dst.val (x.s f.a.val <<< ((x.s f.b.val).toNat % 32))))

/-- SHR by s[B][4:0] (R170). -/
def runShr (n : Fin 96) (f : NibF) (s : Dev) : Dev :=
  (s.nibReg n 0x1 0x07 f (fun x => x.setS f.dst.val (x.s f.a.val >>> ((x.s f.b.val).toNat % 32))))

/-- SAR by s[B][4:0] (R170). -/
def runSar (n : Fin 96) (f : NibF) (s : Dev) : Dev :=
  (s.nibReg n 0x1 0x08 f (fun x => x.setS f.dst.val ((x.s f.a.val).sshiftRight ((x.s f.b.val).toNat % 32))))

/-- MUL: low 32 bits of the product (R170). -/
def runMul (n : Fin 96) (f : NibF) (s : Dev) : Dev :=
  (s.nibReg n 0x1 0x09 f (fun x => x.setS f.dst.val (x.s f.a.val * x.s f.b.val)))

/-- MULH: signed high 32 bits (R170). -/
def runMulh (n : Fin 96) (f : NibF) (s : Dev) : Dev :=
  (s.nibReg n 0x1 0x0A f (fun x => x.setS f.dst.val (BitVec.ofInt 32 (((x.s f.a.val).toInt * (x.s f.b.val).toInt).fdiv (2 ^ 32)))))

/-- MULHU: unsigned high 32 bits (R170). -/
def runMulhu (n : Fin 96) (f : NibF) (s : Dev) : Dev :=
  (s.nibReg n 0x1 0x0B f (fun x => x.setS f.dst.val (BitVec.ofNat 32 ((x.s f.a.val).toNat * (x.s f.b.val).toNat / 2 ^ 32))))

/-- MIN, signed (R170). -/
def runMin (n : Fin 96) (f : NibF) (s : Dev) : Dev :=
  (s.nibReg n 0x1 0x0C f (fun x => x.setS f.dst.val (if (x.s f.a.val).toInt ≤ (x.s f.b.val).toInt then x.s f.a.val else x.s f.b.val)))

/-- MAX, signed (R170). -/
def runMax (n : Fin 96) (f : NibF) (s : Dev) : Dev :=
  (s.nibReg n 0x1 0x0D f (fun x => x.setS f.dst.val (if (x.s f.b.val).toInt ≤ (x.s f.a.val).toInt then x.s f.a.val else x.s f.b.val)))

/-- VADD, wrapping (R170, R172). -/
def runVadd (n : Fin 96) (f : NibF) (s : Dev) : Dev :=
  (s.nibReg n 0x2 0x01 f (fun x => x.zipV f (fun _ a b => a + b)))

/-- VSUB, wrapping (R170, R172). -/
def runVsub (n : Fin 96) (f : NibF) (s : Dev) : Dev :=
  (s.nibReg n 0x2 0x02 f (fun x => x.zipV f (fun w a b => a + 2 ^ w - b)))

/-- VADDS, saturating signed (R170, R172). -/
def runVadds (n : Fin 96) (f : NibF) (s : Dev) : Dev :=
  (s.nibReg n 0x2 0x03 f (fun x => x.zipV f (fun w a b => satS w (ofTwos w a + ofTwos w b))))

/-- VSUBS, saturating signed (R170, R172). -/
def runVsubs (n : Fin 96) (f : NibF) (s : Dev) : Dev :=
  (s.nibReg n 0x2 0x04 f (fun x => x.zipV f (fun w a b => satS w (ofTwos w a - ofTwos w b))))

/-- VADDSU, saturating unsigned (R170, R172). -/
def runVaddsu (n : Fin 96) (f : NibF) (s : Dev) : Dev :=
  (s.nibReg n 0x2 0x05 f (fun x => x.zipV f (fun w a b => satU w ((a : Int) + b))))

/-- VSUBSU, saturating unsigned (R170, R172). -/
def runVsubsu (n : Fin 96) (f : NibF) (s : Dev) : Dev :=
  (s.nibReg n 0x2 0x06 f (fun x => x.zipV f (fun w a b => satU w ((a : Int) - b))))

/-- VABSD: absolute difference of signed lanes (R170). -/
def runVabsd (n : Fin 96) (f : NibF) (s : Dev) : Dev :=
  (s.nibReg n 0x2 0x07 f (fun x => x.zipV f (fun w a b => (ofTwos w a - ofTwos w b).natAbs)))

/-- VABSDU: absolute difference of unsigned lanes (R170). -/
def runVabsdu (n : Fin 96) (f : NibF) (s : Dev) : Dev :=
  (s.nibReg n 0x2 0x08 f (fun x => x.zipV f (fun _ a b => ((a : Int) - b).natAbs)))

/-- VMIN, signed (R170). -/
def runVmin (n : Fin 96) (f : NibF) (s : Dev) : Dev :=
  (s.nibReg n 0x2 0x09 f (fun x => x.zipV f (fun w a b => if ofTwos w a ≤ ofTwos w b then a else b)))

/-- VMINU, unsigned (R170). -/
def runVminu (n : Fin 96) (f : NibF) (s : Dev) : Dev :=
  (s.nibReg n 0x2 0x0A f (fun x => x.zipV f (fun _ a b => if a ≤ b then a else b)))

/-- VMAX, signed (R170). -/
def runVmax (n : Fin 96) (f : NibF) (s : Dev) : Dev :=
  (s.nibReg n 0x2 0x0B f (fun x => x.zipV f (fun w a b => if ofTwos w b ≤ ofTwos w a then a else b)))

/-- VMAXU, unsigned (R170). -/
def runVmaxu (n : Fin 96) (f : NibF) (s : Dev) : Dev :=
  (s.nibReg n 0x2 0x0C f (fun x => x.zipV f (fun _ a b => if b ≤ a then a else b)))

/-- VAND (R170). -/
def runVand (n : Fin 96) (f : NibF) (s : Dev) : Dev :=
  (s.nibReg n 0x2 0x0D f (fun x => x.zipV f (fun _ a b => a &&& b)))

/-- VOR (R170). -/
def runVor (n : Fin 96) (f : NibF) (s : Dev) : Dev :=
  (s.nibReg n 0x2 0x0E f (fun x => x.zipV f (fun _ a b => a ||| b)))

/-- VXOR (R170). -/
def runVxor (n : Fin 96) (f : NibF) (s : Dev) : Dev :=
  (s.nibReg n 0x2 0x0F f (fun x => x.zipV f (fun _ a b => a ^^^ b)))

/-- VSHL by IMM[4:0] (R170, R172). -/
def runVshl (n : Fin 96) (f : NibF) (s : Dev) : Dev :=
  (s.nibReg n 0x2 0x10 f (fun x => x.mapV f (fun _ a => a * 2 ^ shift5 f)))

/-- VSHR by IMM[4:0] with rounding IMM[7:6] (R170, R172). -/
def runVshr (n : Fin 96) (f : NibF) (s : Dev) : Dev :=
  (s.nibReg n 0x2 0x11 f (fun x => x.mapV f (fun _ a => (roundShift a (shift5 f) (roundMode f)).toNat)))

/-- VSAR by IMM[4:0] with rounding IMM[7:6] (R170, R172). -/
def runVsar (n : Fin 96) (f : NibF) (s : Dev) : Dev :=
  (s.nibReg n 0x2 0x12 f (fun x => x.mapV f (fun w a => toTwos w (roundShift (ofTwos w a) (shift5 f) (roundMode f)))))

/-- VAVG: (a + b + 1) >> 1 of signed lanes, exact (R170). -/
def runVavg (n : Fin 96) (f : NibF) (s : Dev) : Dev :=
  (s.nibReg n 0x2 0x13 f (fun x => x.zipV f (fun w a b => toTwos w ((ofTwos w a + ofTwos w b + 1).fdiv 2))))

/-- VAVGU: (a + b + 1) >> 1 of unsigned lanes (R170). -/
def runVavgu (n : Fin 96) (f : NibF) (s : Dev) : Dev :=
  (s.nibReg n 0x2 0x14 f (fun x => x.zipV f (fun _ a b => (a + b + 1) / 2)))

/-- VBCAST: every lane = s[A] truncated to the lane width (R170). -/
def runVbcast (n : Fin 96) (f : NibF) (s : Dev) : Dev :=
  (s.nibReg n 0x2 0x15 f (fun x => x.putV f (laneWidth f.ew.val)
    (List.replicate (1024 / laneWidth f.ew.val) (x.s f.a.val).toNat)))

/-- VMUL: saturate((a × b + rnd) >> IMM[4:0]) of signed lanes (R170, R172). -/
def runVmul (n : Fin 96) (f : NibF) (s : Dev) : Dev :=
  (s.nibReg n 0x3 0x01 f (fun x => x.zipV f (fun w a b =>
    satS w (roundShift (ofTwos w a * ofTwos w b) (shift5 f) (roundMode f)))))

/-- VMAC: a[D][e] += v[A][e] × v[B][e], signed (R170, R172). -/
def runVmac (n : Fin 96) (f : NibF) (s : Dev) : Dev :=
  (s.nibReg n 0x3 0x02 f (fun x => x.accum f (fun e => ofTwos 16 (x.lane 16 f.a.val e) * ofTwos 16 (x.lane 16 f.b.val e))))

/-- VMACU: the same, unsigned (R170, R172). -/
def runVmacu (n : Fin 96) (f : NibF) (s : Dev) : Dev :=
  (s.nibReg n 0x3 0x03 f (fun x => x.accum f (fun e => (x.lane 16 f.a.val e : Int) * x.lane 16 f.b.val e)))

/-- VMACS: a[D][e] += v[A][e] × s[B], signed (R170, R172). -/
def runVmacs (n : Fin 96) (f : NibF) (s : Dev) : Dev :=
  (s.nibReg n 0x3 0x04 f (fun x => x.accum f (fun e => ofTwos 16 (x.lane 16 f.a.val e) * (x.s f.b.val).toInt)))

/-- VDOT2: a[D][e] += the two products of byte lanes 2e and 2e + 1, signed (R170, R172). -/
def runVdot2 (n : Fin 96) (f : NibF) (s : Dev) : Dev :=
  (s.nibReg n 0x3 0x05 f (fun x => x.accum f (fun e => ofTwos 8 (x.lane 8 f.a.val (2 * e)) * ofTwos 8 (x.lane 8 f.b.val (2 * e))
      + ofTwos 8 (x.lane 8 f.a.val (2 * e + 1)) * ofTwos 8 (x.lane 8 f.b.val (2 * e + 1)))))

/-- ACLR: a[D] = 0, in the lanes PRED enables (R169, R170). -/
def runAclr (n : Fin 96) (f : NibF) (s : Dev) : Dev :=
  (s.nibReg n 0x4 0x01 f (fun x => (List.range 64).foldl (fun y e =>
    if x.enabled f e then y.setA (accBank f.dst) e 0 else y) x))

/-- ARD: v[D] lane = saturate((a[A] + rnd) >> IMM[5:0]), signed (R170, R172). -/
def runArd (n : Fin 96) (f : NibF) (s : Dev) : Dev :=
  (s.nibReg n 0x4 0x02 f (fun x => x.putV f 16 ((List.range 64).map (fun e =>
    satS 16 (roundShift (x.ar (accBank f.a) e) (shift6 f) (roundMode f))))))

/-- ARDU: the same, saturating unsigned (R170, R172). -/
def runArdu (n : Fin 96) (f : NibF) (s : Dev) : Dev :=
  (s.nibReg n 0x4 0x03 f (fun x => x.putV f 16 ((List.range 64).map (fun e =>
    satU 16 (roundShift (x.ar (accBank f.a) e) (shift6 f) (roundMode f))))))

/-- BFMUL: v[D] = v[A] × v[B] in bfloat16 (R173). -/
def runBfmul (n : Fin 96) (f : NibF) (s : Dev) : Dev :=
  (s.nibReg n 0x5 0x01 f (fun x => x.zipAt f 16 (fun _ a b => bfMul a b)))

/-- BFMAC: a[D] += floor(v[A] × v[B] × 2^E), clamped to 32 bits (R173). -/
def runBfmac (n : Fin 96) (f : NibF) (s : Dev) : Dev :=
  (s.nibReg n 0x5 0x02 f (fun x => (List.range 64).foldl (fun y e =>
    if x.enabled f e then y.bfAcc (accBank f.dst) e (bfTerm (x.lane 16 f.a.val e) (x.lane 16 f.b.val e) (bfE f)) else y) x))

/-- BFCVT.I: an int16 lane to bfloat16 (R173). -/
def runBfcvtI (n : Fin 96) (f : NibF) (s : Dev) : Dev :=
  (s.nibReg n 0x5 0x03 f (fun x => x.mapAt f 16 (fun _ a => bfRound (ofTwos 16 a) 0)))

/-- BFCVT.A: an accumulator lane × 2^-E to bfloat16 (R173). -/
def runBfcvtA (n : Fin 96) (f : NibF) (s : Dev) : Dev :=
  (s.nibReg n 0x5 0x04 f (fun x => x.putV f 16 ((List.range 64).map (fun e =>
    bfRound (x.ar (accBank f.a) e) (-(bfE f))))))

/-- VCMP.cc: m[D] bit e = (v[A][e] cc v[B][e]); in I8P from lanes 2e and 2e + 1 (R170). -/
def runVcmpCc (n : Fin 96) (cc : CmpCond) (f : NibF) (s : Dev) : Dev :=
  (s.nibReg n 0x6 cc.op f (fun x =>
    let one := fun (w i : Nat) => cc.holds w (x.lane w f.a.val i) (x.lane w f.b.val i)
    let hit := fun (e : Nat) =>
      if f.ew.val = 1 then (if f.imm.toNat % 2 = 0 then one 8 (2 * e) && one 8 (2 * e + 1)
        else one 8 (2 * e) || one 8 (2 * e + 1))
      else one 16 e
    x.setM f.dst.val (BitVec.ofBoolListLE ((List.range 64).map (fun e =>
      if x.enabled f e then hit e else bit (x.mr f.dst.val).toNat e)))))

/-- VSEL: lane = m[IMM[2:0]] ? v[A] : v[B] (R170). -/
def runVsel (n : Fin 96) (f : NibF) (s : Dev) : Dev :=
  (s.nibReg n 0x6 0x09 f (fun x =>
    let w := laneWidth f.ew.val
    x.putV f w ((List.range (1024 / w)).map (fun i =>
      if bit (x.mr (f.imm.toNat % 8)).toNat (if w = 8 then i / 2 else i) then x.lane w f.a.val i
      else x.lane w f.b.val i))))

/-- VSLIDE: lanes of the sequence v[A], v[B] (or v[B], v[A]) from IMM on (R170). -/
def runVslide (n : Fin 96) (f : NibF) (s : Dev) : Dev :=
  (s.nibReg n 0x6 0x0A f (fun x =>
    let w := laneWidth f.ew.val
    let l := 1024 / w
    let at2 := fun (p q i : Nat) => if i < l then x.lane w p i else x.lane w q (i - l)
    x.putV f w ((List.range l).map (fun e =>
      if 0 ≤ simm f then at2 f.a.val f.b.val (e + (simm f).toNat)
      else at2 f.b.val f.a.val ((l : Int) + e + simm f).toNat))))

/-- VPERM: lane e = v[A][v[B][e]]; an index past the lanes gives 0 (R170). -/
def runVperm (n : Fin 96) (f : NibF) (s : Dev) : Dev :=
  (s.nibReg n 0x6 0x0B f (fun x =>
    let w := laneWidth f.ew.val
    let l := 1024 / w
    x.putV f w ((List.range l).map (fun e =>
      if x.lane w f.b.val e < l then x.lane w f.a.val (x.lane w f.b.val e) else 0))))

/-- VPK: 16-bit lanes of v[A], then v[B], saturated to byte lanes (R170). -/
def runVpk (n : Fin 96) (f : NibF) (s : Dev) : Dev :=
  (s.nibReg n 0x6 0x0C f (fun x => x.putV f 8 ((List.range 128).map (fun e =>
    let y := ofTwos 16 (if e < 64 then x.lane 16 f.a.val e else x.lane 16 f.b.val (e - 64))
    if f.imm.toNat % 2 = 0 then satS 8 y else satU 8 y))))

/-- VUNPK: byte lanes of a half of v[A], sign-extended (R170). -/
def runVunpk (n : Fin 96) (f : NibF) (s : Dev) : Dev :=
  (s.nibReg n 0x6 0x0D f (fun x => x.putV f 16 ((List.range 64).map (fun e =>
    toTwos 16 (ofTwos 8 (x.lane 8 f.a.val (e + 64 * (f.imm.toNat % 2))))))))

/-- VUNPKU: byte lanes of a half of v[A], zero-extended (R170). -/
def runVunpku (n : Fin 96) (f : NibF) (s : Dev) : Dev :=
  (s.nibReg n 0x6 0x0E f (fun x => x.putV f 16 ((List.range 64).map (fun e =>
    x.lane 8 f.a.val (e + 64 * (f.imm.toNat % 2))))))

/-- VRSUM: exact sum of the signed lanes PRED enables (R170). -/
def runVrsum (n : Fin 96) (f : NibF) (s : Dev) : Dev :=
  (s.nibReg n 0x7 0x01 f (fun x =>
    let w := laneWidth f.ew.val
    x.setS f.dst.val (BitVec.ofInt 32 (((x.enabledLanes f w).map (ofTwos w)).foldl (· + ·) 0))))

/-- VRSUMU: exact sum of the unsigned lanes PRED enables (R170). -/
def runVrsumu (n : Fin 96) (f : NibF) (s : Dev) : Dev :=
  (s.nibReg n 0x7 0x02 f (fun x =>
    let w := laneWidth f.ew.val
    x.setS f.dst.val (BitVec.ofNat 32 ((x.enabledLanes f w).foldl (· + ·) 0))))

/-- VRMIN: smallest signed lane PRED enables; with none the largest lane value (R170). -/
def runVrmin (n : Fin 96) (f : NibF) (s : Dev) : Dev :=
  (s.nibReg n 0x7 0x03 f (fun x =>
    let w := laneWidth f.ew.val
    x.setS f.dst.val (BitVec.ofInt 32 (((x.enabledLanes f w).map (ofTwos w)).foldl (fun m y => if y < m then y else m) (2 ^ (w - 1) - 1)))))

/-- VRMAX: largest signed lane PRED enables; with none the smallest lane value (R170). -/
def runVrmax (n : Fin 96) (f : NibF) (s : Dev) : Dev :=
  (s.nibReg n 0x7 0x04 f (fun x =>
    let w := laneWidth f.ew.val
    x.setS f.dst.val (BitVec.ofInt 32 (((x.enabledLanes f w).map (ofTwos w)).foldl (fun m y => if m < y then y else m) (-(2 ^ (w - 1)))))))

/-- VRFIRST: first set bit of m[A], 64 if none (R170). -/
def runVrfirst (n : Fin 96) (f : NibF) (s : Dev) : Dev :=
  (s.nibReg n 0x7 0x05 f (fun x => x.setS f.dst.val (BitVec.ofNat 32
    (((List.range 64).find? (fun e => bit (x.mr f.a.val).toNat e)).getD 64))))

/-- VRCNT: count of set bits of m[A] (R170). -/
def runVrcnt (n : Fin 96) (f : NibF) (s : Dev) : Dev :=
  (s.nibReg n 0x7 0x06 f (fun x => x.setS f.dst.val (BitVec.ofNat 32 (popCount 64 (x.mr f.a.val).toNat))))

/-- VLD: 128 bytes at s[A] + IMM to v[D] (R160, R170). -/
def runVld (n : Fin 96) (f : NibF) (errs : List (Nat × Bytes)) (t : Nat) (s : Dev) : Dev :=
  ((s.at' t).nibLoad n 0x8 0x01 f 128 errs (fun x b => x.putV f 16 (halves b)))

/-- VST: v[B] to 128 bytes at s[A] + IMM; lanes PRED excludes keep their bytes (R160, R169, R170). -/
def runVst (n : Fin 96) (f : NibF) (s : Dev) : Dev :=
  (s.nibStore n 0x8 0x02 f (fun x =>
    if f.pred.val = 0 then [(0, bytesOfLanes (lanes 16 (x.vr f.b.val)))]
    else ((List.range 64).filter (x.enabled f)).map (fun e => (2 * e, le 2 (x.lane 16 f.b.val e)))))

/-- SLD: 32 bits at s[A] + IMM to s[D] (R160, R170). -/
def runSld (n : Fin 96) (f : NibF) (errs : List (Nat × Bytes)) (t : Nat) (s : Dev) : Dev :=
  ((s.at' t).nibLoad n 0x8 0x03 f 4 errs (fun x b => x.setS f.dst.val (BitVec.ofNat 32 (ofLE b))))

/-- SST: s[B] to 32 bits at s[A] + IMM (R160, R170). -/
def runSst (n : Fin 96) (f : NibF) (s : Dev) : Dev :=
  (s.nibStore n 0x8 0x04 f (fun x => [(0, le 4 (x.s f.b.val).toNat)]))

/-- SLDH: 16 bits, sign-extended (R160, R170). -/
def runSldh (n : Fin 96) (f : NibF) (errs : List (Nat × Bytes)) (t : Nat) (s : Dev) : Dev :=
  ((s.at' t).nibLoad n 0x8 0x05 f 2 errs
    (fun x b => x.setS f.dst.val (BitVec.ofInt 32 (ofTwos 16 (ofLE b)))))

/-- SLDHU: 16 bits, zero-extended (R160, R170). -/
def runSldhu (n : Fin 96) (f : NibF) (errs : List (Nat × Bytes)) (t : Nat) (s : Dev) : Dev :=
  ((s.at' t).nibLoad n 0x8 0x06 f 2 errs (fun x b => x.setS f.dst.val (BitVec.ofNat 32 (ofLE b))))

/-- VLDM: 8 bytes to m[D] (R160, R170). PRED does not govern it, where the manual is silent. DESIGN CHOICE, entry 83. -/
def runVldm (n : Fin 96) (f : NibF) (errs : List (Nat × Bytes)) (t : Nat) (s : Dev) : Dev :=
  ((s.at' t).nibLoad n 0x8 0x07 f 8 errs (fun x b => x.setM f.dst.val (BitVec.ofNat 64 (ofLE b))))

/-- VSTM: m[B] to 8 bytes (R160, R170). PRED does not govern it, where the manual is silent. DESIGN CHOICE, entry 83. -/
def runVstm (n : Fin 96) (f : NibF) (s : Dev) : Dev :=
  (s.nibStore n 0x8 0x08 f (fun x => [(0, le 8 (x.mr f.b.val).toNat)]))

/-- PVLD: pool load of 128 bytes to v[D] (R161, R170). -/
def runPvld (n : Fin 96) (f : NibF) (errs : List (Nat × Bytes)) (t : Nat) (s : Dev) : Dev :=
  ((s.at' t).nibPool n 0x01 f 128 errs (fun x b => x.putV f 16 (halves b)))

/-- PSLD: pool load of 32 bits to s[D] (R161, R170). -/
def runPsld (n : Fin 96) (f : NibF) (errs : List (Nat × Bytes)) (t : Nat) (s : Dev) : Dev :=
  ((s.at' t).nibPool n 0x02 f 4 errs (fun x b => x.setS f.dst.val (BitVec.ofNat 32 (ofLE b))))

/-- REC: append the record of s[A] to s[A + 7]; beyond RECORD_MAX it is discarded and sets REC_TRUNC (R165, R166). -/
def runRecEmit (n : Fin 96) (f : NibF) (s : Dev) : Dev :=
  (s.nibReg n 0xA 0x01 f (fun x =>
    if x.recs.length < x.recordMax then
      { x with recs := x.recs ++ [((List.range 8).map (fun i => le 4 (x.s (f.a.val + i)).toNat)).flatten] }
    else x.flag stRecTrunc))

/-- WOUT.L: emit s[A] as a left edge (R167). -/
def runWoutL (n : Fin 96) (f : NibF) (s : Dev) : Dev :=
  (s.nibRun n 0xA 0x02 f (fun s x => wout s n x true (x.s f.a.val).toInt))

/-- WOUT.R: emit s[A] as a right edge (R167). -/
def runWoutR (n : Fin 96) (f : NibF) (s : Dev) : Dev :=
  (s.nibRun n 0xA 0x03 f (fun s x => wout s n x false (x.s f.a.val).toInt))

/-- TDONE on a nib that is not fenced. -/
def Dev.tdone (s : Dev) (n : Nat) (f : NibF) : Dev :=
  let x := s.nib n
  let tooBig := decide (x.imageMax < (x.s f.a.val).toNat)
  let ready := s.nibReady n && (match x.prog with
    | some p => decide (x.pc < p.words) && decide (p.word x.pc = nibWord 0xA 0x04 f)
        && decide (x.icount < s.budgetOf x p) && !x.poison.get false ((128 + 8 * x.pc) / 32)
    | none => false)
  if ready && !tooBig then
    match x.cur with
    | none => s
    | some no =>
      let image := (List.range (x.s f.a.val).toNat).map (fun i => x.byteAt (0x54000 + i))
      let r : TileResult := ⟨outDone, image, x.recs, x.wouts, x.status⟩
      let bad := (wordsOf 0x54000 (Nat.max 1 image.length) ++ wordsOf (0x54000 + x.imageMax) (Nat.max 1 (32 * x.recs.length))).any
        (fun w => x.poison.get false w)
      let s := if bad then s.placeReplay no n else s.modTile no (fun t => { t with st := .done, result := some r, since := s.now })
      let s := s.setNib n { x with icount := x.icount + 1, lastInstr := s.now, halted := x.halted, steps := x.steps - 1 }
      ((s.freeTile n no bad).setNibSt n E.nibState.IDLE).bump P.nibTilesDone n 1
  else s.nibRun n 0xA 0x04 f (fun s x => (s, .fault x .access))

/-- TDONE: the tile ends with its image, records, edge values and status word; an image longer than IMAGE_MAX ends it
with ACCESS; a hand-over from a fenced nib is discarded and counted (R165, R187, R207). -/
def runTdone (n : Fin 96) (f : NibF) (t : Nat) (s : Dev) : Dev :=
  let s := s.at' t
  if s.nibSt n = E.nibState.FENCED ∧ (s.nib n).running = true then
    ((s.setNib n { s.nib n with running := false }).bump P.ephLateDoneCount 0 1)
  else
    (s.tdone n f)

/-! ## The commands -/

/-- NIB_NOP. -/
def execNibNop (n : Fin 96) (f : NibF) (s : State) : Out := s.onDev (runNibNop n f)

/-- BR_CC. -/
def execBrCc (n : Fin 96) (cc : BrCond) (f : NibF) (s : State) : Out := s.onDev (runBrCc n cc f)

/-- LOOP. -/
def execLoop (n : Fin 96) (f : NibF) (s : State) : Out := s.onDev (runLoop n f)

/-- LI. -/
def execLi (n : Fin 96) (f : NibF) (s : State) : Out := s.onDev (runLi n f)

/-- ADD. -/
def execAdd (n : Fin 96) (f : NibF) (s : State) : Out := s.onDev (runAdd n f)

/-- SUB. -/
def execSub (n : Fin 96) (f : NibF) (s : State) : Out := s.onDev (runSub n f)

/-- AND. -/
def execAnd (n : Fin 96) (f : NibF) (s : State) : Out := s.onDev (runAnd n f)

/-- OR. -/
def execOr (n : Fin 96) (f : NibF) (s : State) : Out := s.onDev (runOr n f)

/-- XOR. -/
def execXor (n : Fin 96) (f : NibF) (s : State) : Out := s.onDev (runXor n f)

/-- SHL. -/
def execShl (n : Fin 96) (f : NibF) (s : State) : Out := s.onDev (runShl n f)

/-- SHR. -/
def execShr (n : Fin 96) (f : NibF) (s : State) : Out := s.onDev (runShr n f)

/-- SAR. -/
def execSar (n : Fin 96) (f : NibF) (s : State) : Out := s.onDev (runSar n f)

/-- MUL. -/
def execMul (n : Fin 96) (f : NibF) (s : State) : Out := s.onDev (runMul n f)

/-- MULH. -/
def execMulh (n : Fin 96) (f : NibF) (s : State) : Out := s.onDev (runMulh n f)

/-- MULHU. -/
def execMulhu (n : Fin 96) (f : NibF) (s : State) : Out := s.onDev (runMulhu n f)

/-- MIN. -/
def execMin (n : Fin 96) (f : NibF) (s : State) : Out := s.onDev (runMin n f)

/-- MAX. -/
def execMax (n : Fin 96) (f : NibF) (s : State) : Out := s.onDev (runMax n f)

/-- VADD. -/
def execVadd (n : Fin 96) (f : NibF) (s : State) : Out := s.onDev (runVadd n f)

/-- VSUB. -/
def execVsub (n : Fin 96) (f : NibF) (s : State) : Out := s.onDev (runVsub n f)

/-- VADDS. -/
def execVadds (n : Fin 96) (f : NibF) (s : State) : Out := s.onDev (runVadds n f)

/-- VSUBS. -/
def execVsubs (n : Fin 96) (f : NibF) (s : State) : Out := s.onDev (runVsubs n f)

/-- VADDSU. -/
def execVaddsu (n : Fin 96) (f : NibF) (s : State) : Out := s.onDev (runVaddsu n f)

/-- VSUBSU. -/
def execVsubsu (n : Fin 96) (f : NibF) (s : State) : Out := s.onDev (runVsubsu n f)

/-- VABSD. -/
def execVabsd (n : Fin 96) (f : NibF) (s : State) : Out := s.onDev (runVabsd n f)

/-- VABSDU. -/
def execVabsdu (n : Fin 96) (f : NibF) (s : State) : Out := s.onDev (runVabsdu n f)

/-- VMIN. -/
def execVmin (n : Fin 96) (f : NibF) (s : State) : Out := s.onDev (runVmin n f)

/-- VMINU. -/
def execVminu (n : Fin 96) (f : NibF) (s : State) : Out := s.onDev (runVminu n f)

/-- VMAX. -/
def execVmax (n : Fin 96) (f : NibF) (s : State) : Out := s.onDev (runVmax n f)

/-- VMAXU. -/
def execVmaxu (n : Fin 96) (f : NibF) (s : State) : Out := s.onDev (runVmaxu n f)

/-- VAND. -/
def execVand (n : Fin 96) (f : NibF) (s : State) : Out := s.onDev (runVand n f)

/-- VOR. -/
def execVor (n : Fin 96) (f : NibF) (s : State) : Out := s.onDev (runVor n f)

/-- VXOR. -/
def execVxor (n : Fin 96) (f : NibF) (s : State) : Out := s.onDev (runVxor n f)

/-- VSHL. -/
def execVshl (n : Fin 96) (f : NibF) (s : State) : Out := s.onDev (runVshl n f)

/-- VSHR. -/
def execVshr (n : Fin 96) (f : NibF) (s : State) : Out := s.onDev (runVshr n f)

/-- VSAR. -/
def execVsar (n : Fin 96) (f : NibF) (s : State) : Out := s.onDev (runVsar n f)

/-- VAVG. -/
def execVavg (n : Fin 96) (f : NibF) (s : State) : Out := s.onDev (runVavg n f)

/-- VAVGU. -/
def execVavgu (n : Fin 96) (f : NibF) (s : State) : Out := s.onDev (runVavgu n f)

/-- VBCAST. -/
def execVbcast (n : Fin 96) (f : NibF) (s : State) : Out := s.onDev (runVbcast n f)

/-- VMUL. -/
def execVmul (n : Fin 96) (f : NibF) (s : State) : Out := s.onDev (runVmul n f)

/-- VMAC. -/
def execVmac (n : Fin 96) (f : NibF) (s : State) : Out := s.onDev (runVmac n f)

/-- VMACU. -/
def execVmacu (n : Fin 96) (f : NibF) (s : State) : Out := s.onDev (runVmacu n f)

/-- VMACS. -/
def execVmacs (n : Fin 96) (f : NibF) (s : State) : Out := s.onDev (runVmacs n f)

/-- VDOT2. -/
def execVdot2 (n : Fin 96) (f : NibF) (s : State) : Out := s.onDev (runVdot2 n f)

/-- ACLR. -/
def execAclr (n : Fin 96) (f : NibF) (s : State) : Out := s.onDev (runAclr n f)

/-- ARD. -/
def execArd (n : Fin 96) (f : NibF) (s : State) : Out := s.onDev (runArd n f)

/-- ARDU. -/
def execArdu (n : Fin 96) (f : NibF) (s : State) : Out := s.onDev (runArdu n f)

/-- BFMUL. -/
def execBfmul (n : Fin 96) (f : NibF) (s : State) : Out := s.onDev (runBfmul n f)

/-- BFMAC. -/
def execBfmac (n : Fin 96) (f : NibF) (s : State) : Out := s.onDev (runBfmac n f)

/-- BFCVT_I. -/
def execBfcvtI (n : Fin 96) (f : NibF) (s : State) : Out := s.onDev (runBfcvtI n f)

/-- BFCVT_A. -/
def execBfcvtA (n : Fin 96) (f : NibF) (s : State) : Out := s.onDev (runBfcvtA n f)

/-- VCMP_CC. -/
def execVcmpCc (n : Fin 96) (cc : CmpCond) (f : NibF) (s : State) : Out := s.onDev (runVcmpCc n cc f)

/-- VSEL. -/
def execVsel (n : Fin 96) (f : NibF) (s : State) : Out := s.onDev (runVsel n f)

/-- VSLIDE. -/
def execVslide (n : Fin 96) (f : NibF) (s : State) : Out := s.onDev (runVslide n f)

/-- VPERM. -/
def execVperm (n : Fin 96) (f : NibF) (s : State) : Out := s.onDev (runVperm n f)

/-- VPK. -/
def execVpk (n : Fin 96) (f : NibF) (s : State) : Out := s.onDev (runVpk n f)

/-- VUNPK. -/
def execVunpk (n : Fin 96) (f : NibF) (s : State) : Out := s.onDev (runVunpk n f)

/-- VUNPKU. -/
def execVunpku (n : Fin 96) (f : NibF) (s : State) : Out := s.onDev (runVunpku n f)

/-- VRSUM. -/
def execVrsum (n : Fin 96) (f : NibF) (s : State) : Out := s.onDev (runVrsum n f)

/-- VRSUMU. -/
def execVrsumu (n : Fin 96) (f : NibF) (s : State) : Out := s.onDev (runVrsumu n f)

/-- VRMIN. -/
def execVrmin (n : Fin 96) (f : NibF) (s : State) : Out := s.onDev (runVrmin n f)

/-- VRMAX. -/
def execVrmax (n : Fin 96) (f : NibF) (s : State) : Out := s.onDev (runVrmax n f)

/-- VRFIRST. -/
def execVrfirst (n : Fin 96) (f : NibF) (s : State) : Out := s.onDev (runVrfirst n f)

/-- VRCNT. -/
def execVrcnt (n : Fin 96) (f : NibF) (s : State) : Out := s.onDev (runVrcnt n f)

/-- VLD. -/
def execVld (n : Fin 96) (f : NibF) (errs : List (Nat × Bytes)) (t : Nat) (s : State) : Out := s.onDev (runVld n f errs t)

/-- VST. -/
def execVst (n : Fin 96) (f : NibF) (s : State) : Out := s.onDev (runVst n f)

/-- SLD. -/
def execSld (n : Fin 96) (f : NibF) (errs : List (Nat × Bytes)) (t : Nat) (s : State) : Out := s.onDev (runSld n f errs t)

/-- SST. -/
def execSst (n : Fin 96) (f : NibF) (s : State) : Out := s.onDev (runSst n f)

/-- SLDH. -/
def execSldh (n : Fin 96) (f : NibF) (errs : List (Nat × Bytes)) (t : Nat) (s : State) : Out := s.onDev (runSldh n f errs t)

/-- SLDHU. -/
def execSldhu (n : Fin 96) (f : NibF) (errs : List (Nat × Bytes)) (t : Nat) (s : State) : Out := s.onDev (runSldhu n f errs t)

/-- VLDM. -/
def execVldm (n : Fin 96) (f : NibF) (errs : List (Nat × Bytes)) (t : Nat) (s : State) : Out := s.onDev (runVldm n f errs t)

/-- VSTM. -/
def execVstm (n : Fin 96) (f : NibF) (s : State) : Out := s.onDev (runVstm n f)

/-- PVLD. -/
def execPvld (n : Fin 96) (f : NibF) (errs : List (Nat × Bytes)) (t : Nat) (s : State) : Out := s.onDev (runPvld n f errs t)

/-- PSLD. -/
def execPsld (n : Fin 96) (f : NibF) (errs : List (Nat × Bytes)) (t : Nat) (s : State) : Out := s.onDev (runPsld n f errs t)

/-- REC. -/
def execRecEmit (n : Fin 96) (f : NibF) (s : State) : Out := s.onDev (runRecEmit n f)

/-- WOUT_L. -/
def execWoutL (n : Fin 96) (f : NibF) (s : State) : Out := s.onDev (runWoutL n f)

/-- WOUT_R. -/
def execWoutR (n : Fin 96) (f : NibF) (s : State) : Out := s.onDev (runWoutR n f)

/-- TDONE. -/
def execTdone (n : Fin 96) (f : NibF) (t : Nat) (s : State) : Out := s.onDev (runTdone n f t)

end Machine
end Sys2Proof
end

