-- ==== Sys2Proof/Machine/Pace.lean ====
section
/-! DEFINITION. Droop sensors, pace gates, the core rail setpoint (R353 to R358). -/
namespace Sys2Proof.Machine

/-- Whether gate `g` follows sensor `d` (R355). -/
def gateFollows (g d : Nat) : Bool :=
  decide (48 ≤ d) ||
    (if g < 8 then d == 24 + 2 * g || d == 25 + 2 * g
     else if g < 104 then d == (g - 8) / 4
     else decide (40 ≤ d))

def Dev.droop (s : Dev) (d : Nat) : Droop := s.droops.get .reset d
def Dev.setDroop (s : Dev) (d : Nat) (x : Droop) : Dev := { s with droops := s.droops.set .reset d x }

/-- Trip threshold, mV (R356). -/
def Dev.droopAt (s : Dev) : Nat := s.pv P.pwrRailMv 0 - s.pv P.paceDroopMv 0

/-- The lowest rail a sensor has seen since the last read of `pace.min_mv`. DESIGN CHOICE, entry 53. -/
def Dev.railSeen (s : Dev) (d mv : Nat) : Dev :=
  let m := s.pv P.paceMinMv d
  if m = 0 ∨ mv < m then s.setP P.paceMinMv d mv else s

/-- A level halved, not below 1/8. -/
def halved (l : Nat) : Nat := Nat.max 1 (l / 2)

/-- A followed sensor trips: the level halves, once for trips within 5 ns; a restore step of the same instant is lost
(R357, R358). DESIGN CHOICE, entry 6. -/
def Dev.gateTrip (s : Dev) (g : Nat) : Dev :=
  let x := s.gate g
  let again := match x.tripAt with | some t => decide (s.now ≤ t + 5000) | none => false
  if again then s
  else
    let l := s.pv P.paceLevel g
    let l := match x.before with | some b => if x.since = s.now then b else l | none => l
    (s.setGate g ⟨s.now, some s.now, none⟩).setP P.paceLevel g (halved l)

def runDroopTrip (d : Fin 64) (railMv : Nat) (t : Nat) (s : Dev) : Dev :=
  let s := (s.at' t).railSeen d railMv
  let x := s.droop d
  if x.tripped = true ∨ s.droopAt ≤ railMv then s
  else
    let stayed := match x.clearAt with | some c => decide (s.now ≤ c + psPerRt) | none => false
    let s := s.setDroop d { x with tripped := true }
    if stayed then s
    else
      let s := s.bump P.paceTripCount d 1
      (s.forEach ((List.range 106).filter (fun g => gateFollows g d)) Dev.gateTrip)

def runDroopClear (d : Fin 64) (railMv : Nat) (t : Nat) (s : Dev) : Dev :=
  let s := s.at' t
  let x := s.droop d
  if x.tripped = true ∧ s.droopAt + 10 ≤ railMv then (s.setDroop d ⟨false, some s.now⟩) else s

/-- A gate's 1 µs step: the level halves again while a followed sensor stays tripped, and rises by 1/8 after 1 µs with
all of them clear. DESIGN CHOICE, entry 53. -/
def runPaceLevelStep (g : Fin 106) (t : Nat) (s : Dev) : Dev :=
  let s := s.at' t
  let x := s.gate g
  let l := s.pv P.paceLevel g
  let mine := (List.range 64).filter (fun d => gateFollows g d)
  if s.now < x.since + us 1 then s
  else if mine.any (fun d => (s.droop d).tripped) then
    (if l = 1 then s else ((s.setGate g ⟨s.now, x.tripAt, none⟩).setP P.paceLevel g (halved l)))
  else if mine.all (fun d => match (s.droop d).clearAt with | some c => decide (c + us 1 ≤ s.now) | none => true) ∧ l < 8 then
    ((s.setGate g ⟨s.now, x.tripAt, some l⟩).setP P.paceLevel g (l + 1))
  else s

/-- Almanac's 100 ms reading of the speed monitors: one step of 5 mV under AUTO (R353). -/
def runRailAdjust (speedIndex : Nat) (t : Nat) (s : Dev) : Dev :=
  let s := (s.at' t).setP P.pwrSpeedIndex 0 (speedIndex % 65536)
  let mv := s.pv P.pwrRailMv 0
  if s.pv P.pwrRailPolicy 0 ≠ E.pwrRailPolicy.AUTO ∨ s.inP E.pwrState.P4 = true then s
  else if 870 ≤ speedIndex % 65536 then (s.setP P.pwrRailMv 0 (Nat.max 650 (mv - 5)))
  else (s.setP P.pwrRailMv 0 (Nat.min 850 (mv + 5)))

/-! ## The commands -/

/-- DROOP_TRIP. -/
def execDroopTrip (d : Fin 64) (railMv : Nat) (t : Nat) (s : State) : Out := s.onDev (runDroopTrip d railMv t)

/-- DROOP_CLEAR. -/
def execDroopClear (d : Fin 64) (railMv : Nat) (t : Nat) (s : State) : Out := s.onDev (runDroopClear d railMv t)

/-- PACE_LEVEL_STEP. -/
def execPaceLevelStep (g : Fin 106) (t : Nat) (s : State) : Out := s.onDev (runPaceLevelStep g t)

/-- RAIL_ADJUST. -/
def execRailAdjust (speedIndex : Nat) (t : Nat) (s : State) : Out := s.onDev (runRailAdjust speedIndex t)

end Sys2Proof.Machine
end

