-- ==== Sys2Proof/Machine/Params.lean ====
section
/-! DEFINITION. The commands NOP, TB_GET, PARAM_GET, PARAM_SET and PARAM_INFO (R4, R320, R324, R325, R328 to R331). -/
namespace Sys2Proof.Machine

/-- NOP. -/
def runNop (mb : Fin 21) (s : Dev) : Dev := s.cmd mb 0x0001 (fun s _ => s.answer mb 0 [])

/-- TB_GET: TB in ns. -/
def runTbGet (mb : Fin 21) (t : Nat) (s : Dev) : Dev :=
  (s.at' t).cmd mb 0x0002 (fun s _ => s.answer mb 0 (le 8 s.tb))

/-- The entries of a batch: inline, or as read from host memory. -/
def Preface.entries (p : Preface) (pay : Bytes) (host : Option Bytes) : Option (List Entry) :=
  if p.host then host.map (fun b => entriesAt b 0 p.count) else some (entriesAt pay 16 p.count)

/-- Read the entries in order; a read clears an RC value. -/
def Dev.getAll : List Entry → Dev → Dev × List Entry
  | [], s => (s, [])
  | e :: r, s =>
    let v := s.readParam e.id e.inst e.word
    let (t, l) := Dev.getAll r (s.clearRc e.id e.inst e.word)
    (t, { e with value := v } :: l)

def runParamGet (mb : Fin 21) (host : Option Bytes) (t : Nat) (s : Dev) : Dev :=
  (s.at' t).cmd mb 0x0010 (fun s r =>
    match parsePreface r false with
    | none => s.fail mb C.badValue
    | some p =>
      match p.entries r.pay host with
      | none => s.fail mb C.busError
      | some es =>
        match firstBad es (entryCode r.path false) with
        | some (i, c) => s.finish mb c i 0 false []
        | none =>
          let (s, got) := Dev.getAll es s
          if p.host then
            let s := got.zipIdx.foldl (fun s e => s.emit (.hostWrite (p.addr + 16 * e.2 + 8) (le 8 e.1.value) false)) s
            s.answer mb 0 []
          else s.answer mb 0 (got.map Entry.bytes).flatten)

def runParamSet (mb : Fin 21) (host : Option Bytes) (t : Nat) (s : Dev) : Dev :=
  (s.at' t).cmd mb 0x0011 (fun s r =>
    match parsePreface r true with
    | none => s.fail mb C.badValue
    | some p =>
      match p.entries r.pay host with
      | none => s.fail mb C.busError
      | some es =>
        match s.setBatch r.path p.frame es with
        | (_, some (i, c)) => s.finish mb c i 0 false []
        | (s, none) => s.done mb)

/-! ## PARAM_INFO (R325) -/

/-- Parameters whose Default column gives none. -/
def noDefault : List Nat :=
  [P.posEncCount, P.posEncStatus, P.posAxisPosition, P.posAxisVelocity, P.posAxisStatus, P.fiLatch, P.fiLevel,
   P.foState, P.merFwVersion, P.merFwDigest, P.merRecordSeq, P.lanePrecodeTx, P.laneEqCtleBoost, P.laneState,
   P.headInfo, P.headDelayPs, P.headTemp, P.headFault, P.plateMemUsed, P.nibState, P.nibUtil, P.ephFolioUsed,
   P.ephSlotsUsed, P.ligXUsed, P.ligMemUsed, P.spanLeaderId, P.spanEpoch, P.spanHop, P.spanRing, P.spanHopDelayPs] ++
  [P.spanTbErrPs, P.spanRefSrc, P.memFreeBytes, P.memBankUtil, P.qStatus, P.quillLinkMbps, P.quillMps, P.duxFire,
   P.pwrRailMv, P.pwrSpeedIndex, P.paceMinMv, P.rstLastCause, P.rstBootSel, P.rstRefSel, P.secSvnRunning, P.secFwAuth,
   P.almTemp, P.almTempMax, P.almVinMv, P.almVfieldMv, P.almRailMeasMv, P.almSupplyStatus, P.almLaneEyeHMv,
   P.almLaneEyeW, P.almFwSlotState, P.almFwSlotVersion, P.almFwStageCounter, P.almLogNextSeq, P.almLogOldestSeq]

/-- A number for each type, access and boundary, on which the codes of PARAM_INFO depend. -/
def PType.num : PType → Nat
  | .u w => w
  | .s w => 256 + w
  | .bool => 512
  | .enum _ => 513
  | .fix m n => 1024 + 256 * m + n

def PAcc.num : PAcc → Nat
  | .rw => 0 | .ro => 1 | .wo => 2 | .w1c => 3 | .rc => 4

def PBnd.num : PBnd → Nat
  | .imm => 0 | .frame => 1 | .tile => 2 | .reset => 3 | .none => 4

/-- Smallest and largest VALUE that a row allows. -/
def PRow.bounds (r : PRow) : Int × Int :=
  let ty : Int × Int := match r.ty with
    | .u w => (0, 2 ^ w - 1)
    | .s w => (-(2 ^ (w - 1)), 2 ^ (w - 1) - 1)
    | .fix m n => (-(2 ^ (m + n - 1)), 2 ^ (m + n - 1) - 1)
    | .bool => (0, 1)
    | .enum l => ((l.foldl Nat.min (l.headD 0) : Nat), (l.foldl Nat.max 0 : Nat))
  (r.ranges.foldl (fun a x => min a x.1) ((r.ranges.head?.map Prod.fst).getD ty.1),
   r.ranges.foldl (fun a x => max a x.2) ((r.ranges.head?.map Prod.snd).getD ty.2))

/-- The answer of PARAM_INFO (R325). DESIGN CHOICE, entry 16. -/
def PRow.info (r : PRow) : Bytes :=
  let dflt := if noDefault.contains r.id then (Config.infoDefault r.id).toNat else paramDefault r.id 0
  le 2 r.id ++ le 2 r.inst ++ [Config.infoType r.ty.num, Config.infoAccess r.acc.num, Config.infoBoundary r.bnd.num]
    ++ le 1 r.words ++ le 8 (toTwos 64 r.bounds.1) ++ le 8 (toTwos 64 r.bounds.2) ++ le 8 dflt
    ++ slice (r.name.toList.map (fun c => BitVec.ofNat 8 c.toNat)) 0 32

def runParamInfo (mb : Fin 21) (s : Dev) : Dev :=
  s.cmd mb 0x0012 (fun s r =>
    match paramRow (fld r.pay 0 2) with
    | none => s.fail mb C.badParam
    | some row => s.answer mb 0 row.info)

/-! ## The commands -/

/-- NOP. -/
def execNop (mb : Fin 21) (s : State) : Out := s.onDev (runNop mb)

/-- TB_GET. -/
def execTbGet (mb : Fin 21) (t : Nat) (s : State) : Out := s.onDev (runTbGet mb t)

/-- PARAM_GET. -/
def execParamGet (mb : Fin 21) (host : Option Bytes) (t : Nat) (s : State) : Out := s.onDev (runParamGet mb host t)

/-- PARAM_SET. -/
def execParamSet (mb : Fin 21) (host : Option Bytes) (t : Nat) (s : State) : Out := s.onDev (runParamSet mb host t)

/-- PARAM_INFO. -/
def execParamInfo (mb : Fin 21) (s : State) : Out := s.onDev (runParamInfo mb)

end Sys2Proof.Machine
end

