-- ==== Sys2Proof/Machine/Reset.lean ====
section
/-! DEFINITION. Reset sources, releases, the boot ROM's commands, PCI Express and USB attachment, power transitions
(R362 to R380, R397, R407, R426). -/
namespace Sys2Proof.Machine

/-! ## Cold reset sources (R362, R415) -/

/-- A cold reset from a source: the device's part, and the SRAM, which is zero after it (R248). -/
def State.cold (s : State) (cause : Nat) : State := { s with sram := .empty, dev := s.dev.beginCold cause }

def State.at' (s : State) (t : Nat) : State := { s with dev := s.dev.at' t }

/-- VIN has risen and stood for 1 ms: the timebase starts anew, and `t` counts on it. -/
def execPowerOn (t : Nat) (s : State) : Out :=
  .next { s with sram := .empty, dev := { s.dev.beginCold E.rstLastCause.POWER_ON with now := t } }

def execSysRst (t : Nat) (s : State) : Out := .next ((s.at' t).cold E.rstLastCause.SYS_RST)

def execBrownout (t : Nat) (s : State) : Out := .next ((s.at' t).cold E.rstLastCause.BROWNOUT)

def execVinLow (t : Nat) (s : State) : Out := .next ((s.at' t).cold E.rstLastCause.VIN_LOW)

/-! ## Releases (R366 to R370) -/

/-- The device runs on the MEMS resonator in place of an external clock (R367). -/
def Dev.onMems (s : Dev) : Dev := (s.setP P.rstRefFallback 0 1).setP P.spanRefSrc 0 E.spanRefSrc.MEMS

/-- No valid external clock within 10 ms, while the release waits for its reference. -/
def runReferenceFallback (s : Dev) : Dev := if s.rst.coldPending then s.onMems else s

/-- The cold release: straps, reference, Almanac and the USB port, the core, boot. `extClock`: an external clock is
valid within 10 ms. DESIGN CHOICE, entry 56. -/
def runColdReset (bootSel refSel : Fin 4) (extClock sets : Bool) (t : Nat) (s : Dev) : Dev :=
  let s := s.at' t
  if !s.rst.coldPending then s
  else
    let missed := s.pv P.rstRefFallback 0 == 1
    let s := { s with alm := { s.alm with bootCount := (s.alm.bootCount + 1) % 2 ^ 32 } }
    let s := ((s.setP P.rstBootSel 0 bootSel).setP P.rstRefSel 0 refSel).setP P.rstRefFallback 0 0
    let s :=
      if refSel.val = 0 then s.setP P.spanRefSrc 0 E.spanRefSrc.MEMS
      else if refSel.val = 3 then s.setP P.spanRefSrc 0 E.spanRefSrc.PORT_A
      else if extClock && !missed then s.setP P.spanRefSrc 0 E.spanRefSrc.EXT
      else s.onMems
    let s := { s with rst := { s.rst with coldPending := false, dfu := bootSel == 2, attached := s.rst.vbus } }
    let s := if s.rst.vbus then s.emit (.usbAttach true) else s
    ((s.addLog 1 0 (s.pv P.rstLastCause 0) 0).boot false sets)

/-- The warm release: the blocks are held for 64 rt, then boot. DESIGN CHOICE, entry 56. -/
def runWarmReset (sets : Bool) (t : Nat) (s : Dev) : Dev :=
  let s := s.at' t
  if s.rst.warmPending && !s.rst.coldPending then
    ({ s with rst := { s.rst with warmPending := false } }.boot true sets)
  else s

/-! ## PCI Express (R362, R364, R370, R380) -/

/-- PE_PERST_N asserted. DESIGN CHOICE, entry 69. -/
def runPerst (t : Nat) (s : Dev) : Dev :=
  let s := s.at' t
  let s := { s with rst := { s.rst with perstLow := true } }
  if s.rst.coldPending || s.inP E.pwrState.P4 then s
  else (s.beginWarm E.rstLastCause.PERST).clearEdge

/-- PE_PERST_N deasserted after it was asserted: link training, or an exit from P4. -/
def runPerstDeassert (t : Nat) (s : Dev) : Dev :=
  let s := s.at' t
  if !s.rst.perstLow then s
  else
    let s := { s with rst := { s.rst with perstLow := false } }
    if s.inP E.pwrState.P4 then
      (if s.rst.moving.isSome then s else { s with rst := { s.rst with moving := some E.pwrState.P0 } })
    else if s.rst.coldPending || s.rst.unlocked.get false 4 then s
    else (s.emit .linkTrain)

/-- Hot reset, or the link goes down: FLR of both functions, then link training. PRESUMED, entry 58. -/
def runHotReset (t : Nat) (s : Dev) : Dev :=
  let s := s.at' t
  if s.pcieOff then s else (s.flr0.flr1.emit .linkTrain)

def runFlrPf0 (t : Nat) (s : Dev) : Dev :=
  let s := s.at' t
  if s.pcieOff then s else s.flr0

def runFlrPf1 (s : Dev) : Dev := if s.pcieOff then s else s.flr1

/-- Link training is complete: ID_LINK and `quill.link_mbps` (R271, R274). -/
def runPcieLinkUp (gen width mps mrrs : Nat) (s : Dev) : Dev :=
  if s.pcieOff || !([3, 4, 5, 6].contains gen && [1, 2, 4, 8, 16].contains width && [128, 256, 512].contains mps
      && [128, 256, 512, 1024, 2048, 4096].contains mrrs) then s
  else
    let full := if gen = 6 then 121000 else if gen = 5 then 56000 else if gen = 4 then 28000 else 14000
    let s := { s with rst := { s.rst with gen := gen, width := width }, quill := { s.quill with mrrs := mrrs } }
    ((s.setP P.quillLinkMbps 0 (full * width / 16)).setP P.quillMps 0 mps)

/-! ## Device-initiated and ordered resets (R365, R383, R404, R407, R409) -/

/-- FATAL is set and signalled; a warm reset follows after 100 µs. -/
def Dev.raiseFatal (s : Dev) (cause : Nat) : Dev :=
  let s := (s.raise0 304).addLog 16 0 cause 0
  { s with rst := { s.rst with fatalAt := some (s.now + resetDelay, cause) } }

/-- Whether the Scribe watchdog runs: firmware runs, Scribe is not halted, not in P3 or P4, no reset is due from it. -/
def Dev.watched (s : Dev) : Bool :=
  s.rst.ready && !s.rst.loader && !s.sec.scribeHalted && !s.inP E.pwrState.P3 && !s.inP E.pwrState.P4
    && s.rst.fatalAt.isNone && s.pv P.almWdScribeMs 0 != 0

/-- No progress report of Scribe within `alm.wd.scribe_ms`. DESIGN CHOICE, entry 67. -/
def runScribeWatchdog (t : Nat) (s : Dev) : Dev :=
  let s := s.at' t
  if s.watched && decide (s.alm.scribeAt + ms (s.pv P.almWdScribeMs 0) ≤ s.now) then
    let s := (((s.bump P.almWdCount 0 1).addLog 6 0 0 0).mgmtEvent 7).trialFail
    (s.raiseFatal E.rstLastCause.WATCHDOG)
  else s

/-- POISON in Scribe's working memory (R253). DESIGN CHOICE, entry 67. -/
def runFatal (t : Nat) (s : Dev) : Dev :=
  let s := s.at' t
  if s.rst.ready && s.rst.fatalAt.isNone && !s.inP E.pwrState.P4 then (s.raiseFatal E.rstLastCause.POISON) else s

/-- The reset ordered that is due, kind and cause; the one FATAL announced that is due. -/
def Dev.resetDue (s : Dev) : Option (Nat × Nat) :=
  match s.rst.due with | some (i, k, c) => if i ≤ s.now then some (k, c) else none | none => none

def Dev.fatalDue (s : Dev) : Option Nat :=
  match s.rst.fatalAt with | some (i, c) => if i ≤ s.now then some c else none | none => none

/-- A reset that was announced or ordered falls due; a cold one prevails. DESIGN CHOICE, entry 56. -/
def execDeferredReset (t : Nat) (s : State) : Out :=
  let s := s.at' t
  match s.dev.resetDue, s.dev.fatalDue with
  | some (0, c), _ => .next (s.cold c)
  | _, some c => .next { s with dev := s.dev.beginWarm c }
  | some (_, c), none => .next { s with dev := { s.dev with rst := { s.dev.rst with due := none } }.beginWarm c }
  | none, none => .next s

/-! ## The boot ROM (R371 to R374) -/

/-- BOOT_LOAD: bytes of host memory into the image buffer. -/
def runBootLoad (mb : Fin 21) (host : Option Bytes) (s : Dev) : Dev :=
  s.cmd mb 0x00F0 (fun s r =>
    let n := fld r.pay 8 4
    let off := fld r.pay 12 4
    if n = 0 ∨ 16777216 < n ∨ 25165824 < off + n then s.fail mb C.badValue
    else
      match host with
      | none => s.fail mb C.busError
      | some b => { s with rst := { s.rst with buffer := s.rst.buffer.write off (slice b 0 n) } }.done mb)

/-- BOOT_RUN: the image is checked and started. DESIGN CHOICE, entry 60. -/
def runBootRun (mb : Fin 21) (sets : Bool) (t : Nat) (s : Dev) : Dev :=
  (s.at' t).cmd mb 0x00F1 (fun s r =>
    let n := fld r.pay 0 4
    match s.checkPlain (s.rst.buffer.read 0 n) with
    | .sig => s.fail mb C.badSignature
    | .good =>
      let s := { s.done mb with rst := { s.rst with runLen := n, kept := false } }
      s.startBuffer 2 sets
    | _ => s.fail mb C.badProgram)

/-- DFU_DNLOAD of one image on the service USB port; a refused one leaves the port waiting. -/
def runDfuDnload (image : Bytes) (sets : Bool) (t : Nat) (s : Dev) : Dev :=
  let s := s.at' t
  if !s.rst.dfu || !s.rst.attached || s.rst.coldPending || s.rst.ready || s.rst.starting.isSome then s
  else if s.checkPlain image = .good then
    ({ s with rst := { s.rst with buffer := Mem.ofBytes image, runLen := image.length } }.startBuffer 3 sets)
  else s

/-- An image has not set READY within 2 s of starting: refused as in R371. -/
def runBootReadyTimeout (sets : Bool) (t : Nat) (s : Dev) : Dev :=
  let s := s.at' t
  match s.rst.starting with
  | none => s
  | some a =>
    if s.now < a + secs 2 then s
    else if 2 ≤ s.rst.image then
      (if s.rst.image = 3 ∧ s.rst.kept = false then s.awaitDfu else s.startLoader)
    else
      let i := s.rst.image
      let s := s.slotRefused i 4
      if bit s.rst.tried (1 - i) then s.startLoader
      else (Dev.trySlots sets [1 - i] (s.bump P.rstBootFallbackCount 0 1))

/-! ## Power states (R378 to R380) -/

/-- A power transition completes, and a later write of `pwr.target` then takes effect. DESIGN CHOICE, entry 59. -/
def Dev.transition (s : Dev) (sets : Bool) : Dev :=
  match s.rst.moving with
  | none => s
  | some p =>
    let next := s.rst.nextTarget
    let s := { s with rst := { s.rst with moving := none, nextTarget := none } }.reachP p sets
    match next with
    | none => s
    | some q => if s.inP q then s else { s with rst := { s.rst with moving := some q } }

/-- The SRAM loses its contents in P4 (R363). -/
def execPowerTransitionDone (sets : Bool) (t : Nat) (s : State) : Out :=
  let d := (s.dev.at' t).transition sets
  .next { s with sram := if d.inP E.pwrState.P4 then .empty else s.sram, dev := d }

/-- A PF0 BAR write waits in P3: the exit begins. -/
def runP3BarWake (t : Nat) (s : Dev) : Dev :=
  let s := s.at' t
  if s.inP E.pwrState.P3 && !s.rst.heldWrites.isEmpty && s.rst.moving.isNone then
    { s with rst := { s.rst with moving := some E.pwrState.P0 } }
  else s

/-! ## The service port (R426) -/

/-- USB_VBUS crosses 4.0 V; the port attaches from step 4 of the release on. -/
def runUsbVbusChange (mv : Nat) (s : Dev) : Dev :=
  let on := decide (4000 < mv)
  let at' := on && !s.rst.coldPending
  let was := s.rst.attached
  let s := { s with rst := { s.rst with vbus := on, attached := at' } }
  (if was = at' then s else s.emit (.usbAttach at'))

/-! ## The commands -/

/-- REFERENCE_FALLBACK. -/
def execReferenceFallback (s : State) : Out := s.onDev (runReferenceFallback)

/-- COLD_RESET. -/
def execColdReset (bootSel refSel : Fin 4) (extClock sets : Bool) (t : Nat) (s : State) : Out := s.onDev (runColdReset bootSel refSel extClock sets t)

/-- WARM_RESET. -/
def execWarmReset (sets : Bool) (t : Nat) (s : State) : Out := s.onDev (runWarmReset sets t)

/-- PERST. -/
def execPerst (t : Nat) (s : State) : Out := s.onDev (runPerst t)

/-- PERST_DEASSERT. -/
def execPerstDeassert (t : Nat) (s : State) : Out := s.onDev (runPerstDeassert t)

/-- HOT_RESET. -/
def execHotReset (t : Nat) (s : State) : Out := s.onDev (runHotReset t)

/-- FLR_PF0. -/
def execFlrPf0 (t : Nat) (s : State) : Out := s.onDev (runFlrPf0 t)

/-- FLR_PF1. -/
def execFlrPf1 (s : State) : Out := s.onDev (runFlrPf1)

/-- PCIE_LINK_UP. -/
def execPcieLinkUp (rate sizes : Nat × Nat) (s : State) : Out :=
  s.onDev (runPcieLinkUp rate.1 rate.2 sizes.1 sizes.2)

/-- SCRIBE_WATCHDOG. -/
def execScribeWatchdog (t : Nat) (s : State) : Out := s.onDev (runScribeWatchdog t)

/-- FATAL. -/
def execFatal (t : Nat) (s : State) : Out := s.onDev (runFatal t)

/-- BOOT_LOAD. -/
def execBootLoad (mb : Fin 21) (host : Option Bytes) (s : State) : Out := s.onDev (runBootLoad mb host)

/-- BOOT_RUN. -/
def execBootRun (mb : Fin 21) (sets : Bool) (t : Nat) (s : State) : Out := s.onDev (runBootRun mb sets t)

/-- DFU_DNLOAD. -/
def execDfuDnload (image : Bytes) (sets : Bool) (t : Nat) (s : State) : Out := s.onDev (runDfuDnload image sets t)

/-- BOOT_READY_TIMEOUT. -/
def execBootReadyTimeout (sets : Bool) (t : Nat) (s : State) : Out := s.onDev (runBootReadyTimeout sets t)

/-- P3_BAR_WAKE. -/
def execP3BarWake (t : Nat) (s : State) : Out := s.onDev (runP3BarWake t)

/-- USB_VBUS_CHANGE. -/
def execUsbVbusChange (mv : Nat) (s : State) : Out := s.onDev (runUsbVbusChange mv)

end Sys2Proof.Machine
end

