-- ==== Sys2Proof/Machine/Security.lean ====
section
/-! DEFINITION. Lifecycle, debug tokens, the rollback counter, the trace, JTAG debug requests (R382 to R396). -/
namespace Sys2Proof.Machine

/-- The serial number as it is signed. DESIGN CHOICE, entry 62. -/
def serialBytes : Bytes := le 8 Config.serial.toNat

/-- Hash of a fused owner key: 0 program, 1 debug, 2 lifecycle. -/
def Dev.ownerKey (s : Dev) (i : Nat) : Option Bytes :=
  if bit (s.pv P.secOwnerKeys 0) i then some (s.sec.keys.get [] i) else none

/-! ## Lifecycle (R383 to R385) -/

/-- The permitted transitions. -/
def lcMoves (old new : Nat) : Bool :=
  (old == E.secLc.BLANK && (new == E.secLc.OPEN || new == E.secLc.FIELDED))
    || (old == E.secLc.OPEN && new == E.secLc.FIELDED) || (old == E.secLc.FIELDED && new == E.secLc.LOCKED)
    || (old != E.secLc.RETIRED && new == E.secLc.RETIRED)

/-- Whether the owner lifecycle key signs a message, where that key is fused. -/
def Dev.lcSigned (s : Dev) (msg sig : Bytes) : Bool :=
  match s.ownerKey 2 with | some k => sigOk k (sha256 msg) sig | none => true

/-- LC_ADVANCE. DESIGN CHOICE, entry 62. -/
def runLcAdvance (mb : Fin 21) (t : Nat) (s : Dev) : Dev :=
  (s.at' t).cmd mb 0x0201 (fun s r =>
    let target := fld r.pay 0 1
    let mask := fld r.pay 1 1
    let hash := fun (i : Nat) => slice r.pay (8 + 32 * i) 32
    let old := s.pv P.secLcPending 0
    let fused := s.pv P.secOwnerKeys 0
    let keysBad := (mask &&& fused) != 0 || (mask != 0 && old != E.secLc.BLANK && old != E.secLc.OPEN)
      || (List.range 3).any (fun i => !bit mask i && !rsvZero (hash i) 0 32)
    if 4 < target ∨ 7 < mask ∨ lcMoves old target = false ∨ keysBad = true then
      s.fail mb C.badValue
    else if !s.lcSigned (serialBytes ++ le 1 target) (slice r.pay 104 128) then s.fail mb C.badSignature
    else if s.mode M.update then s.fail mb C.busy
    else
      let gone := target == E.secLc.RETIRED
      let code := if gone then s.sealCode 0 else C.ok
      if code ≠ C.ok then s.fail mb code
      else
        let s := s.setP P.secLcPending 0 target
        let s := { s with sec := { s.sec with
          keys := (bitsOf 3 mask).foldl (fun (m : FMap Bytes) i => m.set [] i (hash i)) s.sec.keys } }
        let s := s.setP P.secOwnerKeys 0 (fused ||| mask)
        let s := if gone then
            let s := s.auditAdj 7 (sourceOf r.path) 0 0 0 0
            { s with mer := { s.mer with erased := true }, sec := { s.sec with flashKeyErased := true } }
          else s
        ((s.addLog 13 (sourceOf r.path) old target).done mb).orderReset false)

/-! ## Debug tokens (R392, R393) -/

/-- DEBUG_CHALLENGE: a fresh nonce, the serial, the challenge number. -/
def runDebugChallenge (mb : Fin 21) (t : Nat) (s : Dev) : Dev :=
  (s.at' t).cmd mb 0x0202 (fun s _ =>
    if s.now < s.sec.lockUntil then s.fail mb C.denied
    else
      let n := s.sec.chalNo + 1
      let s := { s with sec := { s.sec with chalNo := n, chalAt := some s.now } }
      s.finish mb C.ok 0 0 true ((List.range 32).map (Config.nonce n) ++ serialBytes ++ le 2 n))

/-- A failed unlock: counted; the eighth in a row closes DEBUG_CHALLENGE for 60 s. DESIGN CHOICE, entry 63. -/
def Dev.unlockFail (s : Dev) (mb code : Nat) : Dev :=
  let n := s.sec.fails + 1
  let s := { s with sec := { s.sec with
    fails := if n = 8 then 0 else n, lockUntil := if n = 8 then s.now + secs 60 else s.sec.lockUntil } }
  (s.bump P.secUnlockFailCount 0 1).fail mb code

/-- Whether the lifecycle state allows a signer: owner 0, vendor 1 (R382). -/
def lcSigner (lc signer : Nat) : Bool :=
  if signer = 0 then lc == E.secLc.OPEN || lc == E.secLc.FIELDED else lc != E.secLc.RETIRED

/-- DEBUG_UNLOCK. DESIGN CHOICE, entry 63. -/
def runDebugUnlock (mb : Fin 21) (t : Nat) (s : Dev) : Dev :=
  (s.at' t).cmd mb 0x0203 (fun s r =>
    let level := fld r.pay 0 1
    let signer := fld r.pay 1 1
    let life := fld r.pay 4 4
    if level = 0 ∨ 3 < level ∨ 1 < signer then s.fail mb C.badValue
    else
      let fresh := match s.sec.chalAt with
        | some a => fld r.pay 2 2 == s.sec.chalNo % 65536 && decide (s.now ≤ a + secs 300)
        | none => false
      let key := if signer = 0 then s.ownerKey 1 else some (keyBytes Config.vendorDebugKeyHash)
      if !fresh || !lcSigner (s.pv P.secLc 0) signer then s.unlockFail mb C.denied
      else
        let msg := (List.range 32).map (Config.nonce s.sec.chalNo) ++ serialBytes ++ le 1 level ++ le 4 life
        let s := { s with sec := { s.sec with chalAt := none } }
        let ok := match key with | some k => sigOk k (sha256 msg) (slice r.pay 8 128) | none => false
        if !ok then s.unlockFail mb C.badSignature
        else
          let old := s.activeLevel
          let s := { s with sec := { s.sec with
            fails := 0, grantEnd := if life = 0 then none else some (s.now + secs life) } }
          let s := s.setP P.secDebugGrant 0 level
          let s := s.setP P.secGrantSource 0 (if signer = 0 then E.secGrantSource.OWNER else E.secGrantSource.VENDOR)
          ((s.levelFrom old).addLog 14 (sourceOf r.path) level signer).finish mb C.ok 0 level true [])

/-- DEBUG_RELOCK. -/
def runDebugRelock (mb : Fin 21) (t : Nat) (s : Dev) : Dev :=
  (s.at' t).cmd mb 0x0204 (fun s _ => s.relock.done mb)

/-- A grant's lifetime runs out. -/
def runGrantExpire (t : Nat) (s : Dev) : Dev :=
  let s := s.at' t
  match s.sec.grantEnd with
  | some e => if e ≤ s.now then s.relock else s
  | none => s

/-! ## Rollback (R390) -/

/-- Whether some image in use or in flash has an SVN below `n`. -/
def Dev.svnHolds (s : Dev) (n : Nat) : Bool :=
  (s.rst.ready && !s.rst.loader && decide (s.pv P.secSvnRunning 0 < n))
    || [0, 1].any (fun i => s.pv P.almFwSlotState i == E.almFwSlotState.VALID && decide ((s.fwSlot i).svnOf < n))

/-- SVN_COMMIT. DESIGN CHOICE, entry 62. -/
def runSvnCommit (mb : Fin 21) (t : Nat) (s : Dev) : Dev :=
  (s.at' t).cmd mb 0x0205 (fun s r =>
    let n := fld r.pay 0 1
    if n ≤ s.pv P.secSvnFused 0 ∨ 64 < n then s.fail mb C.badValue
    else if !s.lcSigned (serialBytes ++ le 1 n) (slice r.pay 8 128) then s.fail mb C.badSignature
    else if s.mode M.update || s.svnHolds n then s.fail mb C.busy
    else (s.setP P.secSvnFused 0 n).done mb)

/-! ## The trace (R391, R395) -/

/-- TRACE_READ: up to 14 entries from an index, 0 the oldest kept. -/
def runTraceRead (mb : Fin 21) (s : Dev) : Dev :=
  s.cmd mb 0x0206 (fun s r =>
    if s.activeLevel = 0 ∨ s.inP E.pwrState.P3 = true ∨ s.inP E.pwrState.P4 = true then s.fail mb C.denied
    else
      let es := (s.sec.trace.reverse.drop (fld r.pay 0 4)).take 14
      s.answer mb es.length es.flatten)

/-! ## JTAG (R369, R386, R391, R393, R394) -/

/-- What a power state and the active level make of a request. -/
inductive Leave where
  | allowed | denied | waits
  deriving DecidableEq, Repr

/-- The level a request needs in P0 to P2. -/
def debugLevel : DebugOp → Nat
  | .bypass | .idcode | .sample => 0
  | .counters => 1
  | .halt | .step | .resume | .breakAt _ => 2
  | .extest | .scan | .readMem _ _ | .writeMem _ _ | .forcePcie => 3

/-- Whether a debug request may act now (R391, R393). DESIGN CHOICE, entry 64. -/
def Dev.debugLeave (s : Dev) (op : DebugOp) : Leave :=
  let lvl := s.activeLevel
  if s.inP E.pwrState.P4 then (match op with | .bypass | .idcode => .allowed | _ => .denied)
  else if s.inP E.pwrState.P3 then
    match op with
    | .bypass | .idcode | .sample => .allowed
    | .extest => if lvl = 3 then .allowed else .denied
    | .readMem _ _ | .writeMem _ _ | .scan => if lvl = 3 then .waits else .denied
    | _ => .denied
  else if debugLevel op ≤ lvl then .allowed else .denied

/-- Word `w` of a nib's local store as 32 bytes. -/
def Nib.word32 (n : Nib) (w : Nat) : Bytes := (List.range 32).map (fun i => n.byteAt (32 * w + i))

/-- What a read of a stored word gives, its 35 bytes read with the errors `err`: it is corrected, or poisoned and counted,
and POISON gives no data. Where a block has written its page and no debugger the word, the data is open; zeros stand
where nothing has written (R248 to R253). DESIGN CHOICE, entry 48; DESIGN CHOICE, entry 64. -/
def State.readStored (s : State) (k page : Nat) (err : Bytes) (corr bad : Dev → Dev) : State × Bytes :=
  let s := s.scrubSram k err corr bad
  if s.dev.poison.get false k then (s, [])
  else
    let c := s.storedWord k
    (s, if c = zeroWord && s.dev.dirty.get false page then (List.range 32).map (Config.sramData k s.dev.now)
        else slice c 0 32)

/-- The data bytes a debugger reads (R391). -/
def State.debugRead (s : State) (loc : MemLoc) (err : Bytes) : State × Bytes :=
  match loc with
  | .nib n w =>
    let (x, corr, bad, new) := (s.dev.nib n).checkWord w (slice err 0 35)
    ({ s with dev := (s.dev.setNib n x).nibEcc n corr (b2n new) }, if bad then [] else x.word32 w)
  | .bank b w =>
    s.readStored (bankKey b w) (w / 128 * 16 + b) err (fun d => d.bump P.memBankCorrCount b 1) (fun d => d.bankBad b w)
  | .priv w =>
    if w < 524288 then
      s.readStored (privKey w) privPage err (fun d => d.bump P.memPrivCorrCount 0 1) (fun d => d.privBad w)
    else (s, [])

/-- A debugger writes a whole word with its check bytes; a poison mark goes (R252). DESIGN CHOICE, entry 48. -/
def State.debugWrite (s : State) (loc : MemLoc) (data : Bytes) : State :=
  let d := slice data 0 32
  match loc with
  | .nib n w =>
    let x := (s.dev.nib n).putBytes (32 * w.val) d
    { s with dev := s.dev.setNib n { x with poison := x.poison.set false w.val false } }
  | .bank b w => { s.putWord (bankKey b w) (d ++ rsCheck d) with dev := s.dev.bankWrite b w }
  | .priv w =>
    if w < 524288 then
      { s.putWord (privKey w) (d ++ rsCheck d) with
        dev := { s.dev with poison := s.dev.poison.set false (privKey w) false } }
    else s

/-- Scribe or a nib halts, steps, resumes, takes a breakpoint. DESIGN CHOICE, entry 64. -/
def Dev.debugRun (s : Dev) (tgt : DebugTarget) (op : DebugOp) : Dev :=
  match tgt with
  | .scribe =>
    (match op with
     | .halt => { s with sec := { s.sec with scribeHalted := true } }
     | .resume =>
       if s.sec.scribeHalted then
         { s with sec := { s.sec with scribeHalted := false }, alm := { s.alm with scribeAt := s.now } }
       else s
     | .breakAt pc => { s with sec := { s.sec with scribeBreaks := pc :: s.sec.scribeBreaks } }
     | _ => s)
  | .nib n =>
    let x := s.nib n
    (match op with
     | .halt => if s.nibSt n = E.nibState.FENCED then s else s.setNib n { x with halted := true, steps := 0 }
     | .step => if x.halted then s.setNib n { x with steps := x.steps + 1 } else s
     | .resume =>
       if x.halted then
         s.setNib n { x with
           halted := false, steps := 0, lastInstr := s.now
           sentA := if x.bufA.isSome then s.now else x.sentA, sentB := if x.bufB.isSome then s.now else x.sentB }
       else s
     | .breakAt pc => s.setNib n { x with breaks := pc :: x.breaks }
     | _ => s)

/-- The requests that leave the stored words of the SRAM alone, once allowed. -/
def Dev.debugAct (s : Dev) (tgt : DebugTarget) (op : DebugOp) : Dev :=
  let ir := fun (v : Nat) => { s with sec := { s.sec with tapIr := v } }
  match op with
  | .bypass => ir 0
  | .idcode => (ir 1).emit (.jtag (le 4 Config.idcode.toNat))
  | .sample => (ir 2).emit (.jtag (Config.scanData s.now))
  | .extest => ir 3
  | .scan => (ir 4).emit (.jtag (Config.scanData s.now))
  | .counters => s.emit (.jtag s.sec.trace.reverse.flatten)
  | .forcePcie =>
    if s.rst.unlocked.get false 4 then { s with rst := { s.rst with waitLock := s.rst.waitLock.set false 4 true } } else s
  | .halt | .step | .resume | .breakAt _ => s.debugRun tgt op
  | .readMem _ _ | .writeMem _ _ => s

/-- A debug request at the TAP. -/
def execDebugRequest (tgt : DebugTarget) (op : DebugOp) (t : Nat) (s : State) : Out :=
  let s := { s with dev := s.dev.at' t }
  if s.dev.rst.coldPending then .next s
  else
    match s.dev.debugLeave op with
    | .waits => .next s
    | .denied => .next { s with dev := s.dev.emit (.jtag [BitVec.ofNat 8 C.denied]) }
    | .allowed =>
      match op with
      | .readMem loc err =>
        let r := s.debugRead loc err
        .next { r.1 with dev := r.1.dev.emit (.jtag r.2) }
      | .writeMem loc d => .next (s.debugWrite loc d)
      | _ => .next { s with dev := s.dev.debugAct tgt op }

/-! ## The commands -/

/-- LC_ADVANCE. -/
def execLcAdvance (mb : Fin 21) (t : Nat) (s : State) : Out := s.onDev (runLcAdvance mb t)

/-- DEBUG_CHALLENGE. -/
def execDebugChallenge (mb : Fin 21) (t : Nat) (s : State) : Out := s.onDev (runDebugChallenge mb t)

/-- DEBUG_UNLOCK. -/
def execDebugUnlock (mb : Fin 21) (t : Nat) (s : State) : Out := s.onDev (runDebugUnlock mb t)

/-- DEBUG_RELOCK. -/
def execDebugRelock (mb : Fin 21) (t : Nat) (s : State) : Out := s.onDev (runDebugRelock mb t)

/-- GRANT_EXPIRE. -/
def execGrantExpire (t : Nat) (s : State) : Out := s.onDev (runGrantExpire t)

/-- SVN_COMMIT. -/
def execSvnCommit (mb : Fin 21) (t : Nat) (s : State) : Out := s.onDev (runSvnCommit mb t)

/-- TRACE_READ. -/
def execTraceRead (mb : Fin 21) (s : State) : Out := s.onDev (runTraceRead mb)

end Sys2Proof.Machine
end

