-- ==== Sys2Proof/Machine/Dispatch.lean ====
section
/-! DEFINITION. The meaning of every command: one arm per constructor, one direct call each. -/
namespace Sys2Proof.Machine

def exec (i : Instr) (s : State) : Host.Outcome State Fault Refusal :=
  match i with
  | .registerWrite fn loc size value t => Sys2Proof.Machine.execRegisterWrite fn loc size value t s
  | .w1cClear tgt mask devSet => Sys2Proof.Machine.execW1cClear tgt mask devSet s
  | .rcRead path id inst add => Sys2Proof.Machine.execRcRead path id inst add s
  | .lowHalfRead loc size => Sys2Proof.Machine.execLowHalfRead loc size s
  | .mailboxReqWrite fn m off data => Sys2Proof.Machine.execMailboxReqWrite fn m off data s
  | .mbmDoorbell fn m t => Sys2Proof.Machine.execMbmDoorbell fn m t s
  | .usbRequest data t => Sys2Proof.Machine.execUsbRequest data t s
  | .qcnDoorbell c => Sys2Proof.Machine.execQcnDoorbell c s
  | .mailboxTimeout mb t => Sys2Proof.Machine.execMailboxTimeout mb t s
  | .nop mb => Sys2Proof.Machine.execNop mb s
  | .tbGet mb t => Sys2Proof.Machine.execTbGet mb t s
  | .paramGet mb host t => Sys2Proof.Machine.execParamGet mb host t s
  | .paramSet mb host t => Sys2Proof.Machine.execParamSet mb host t s
  | .paramInfo mb => Sys2Proof.Machine.execParamInfo mb s
  | .modeSet mb t => Sys2Proof.Machine.execModeSet mb t s
  | .streamStart mb t => Sys2Proof.Machine.execStreamStart mb t s
  | .streamStop mb t => Sys2Proof.Machine.execStreamStop mb t s
  | .webStart mb t => Sys2Proof.Machine.execWebStart mb t s
  | .webStop mb t => Sys2Proof.Machine.execWebStop mb t s
  | .exposeSet mb t => Sys2Proof.Machine.execExposeSet mb t s
  | .headRegRead mb t => Sys2Proof.Machine.execHeadRegRead mb t s
  | .headRegWrite mb t => Sys2Proof.Machine.execHeadRegWrite mb t s
  | .plateTableLoad mb given => Sys2Proof.Machine.execPlateTableLoad mb given s
  | .programLoad mb given => Sys2Proof.Machine.execProgramLoad mb given s
  | .nibReset mb t => Sys2Proof.Machine.execNibReset mb t s
  | .dmaStart mb t => Sys2Proof.Machine.execDmaStart mb t s
  | .dmaStop mb => Sys2Proof.Machine.execDmaStop mb s
  | .queueFlush mb => Sys2Proof.Machine.execQueueFlush mb s
  | .merIdent mb => Sys2Proof.Machine.execMerIdent mb s
  | .merAdjust mb t => Sys2Proof.Machine.execMerAdjust mb t s
  | .merQuadRegister mb t => Sys2Proof.Machine.execMerQuadRegister mb t s
  | .merFwStage mb t => Sys2Proof.Machine.execMerFwStage mb t s
  | .merRecordGet mb => Sys2Proof.Machine.execMerRecordGet mb s
  | .merAck mb => Sys2Proof.Machine.execMerAck mb s
  | .merAuditRead mb => Sys2Proof.Machine.execMerAuditRead mb s
  | .merVerify mb => Sys2Proof.Machine.execMerVerify mb s
  | .bootLoad mb host => Sys2Proof.Machine.execBootLoad mb host s
  | .bootRun mb sets t => Sys2Proof.Machine.execBootRun mb sets t s
  | .dfuDnload image sets t => Sys2Proof.Machine.execDfuDnload image sets t s
  | .lcAdvance mb t => Sys2Proof.Machine.execLcAdvance mb t s
  | .debugChallenge mb t => Sys2Proof.Machine.execDebugChallenge mb t s
  | .debugUnlock mb t => Sys2Proof.Machine.execDebugUnlock mb t s
  | .debugRelock mb t => Sys2Proof.Machine.execDebugRelock mb t s
  | .svnCommit mb t => Sys2Proof.Machine.execSvnCommit mb t s
  | .traceRead mb => Sys2Proof.Machine.execTraceRead mb s
  | .almInfo mb => Sys2Proof.Machine.execAlmInfo mb s
  | .almTimeSet mb t => Sys2Proof.Machine.execAlmTimeSet mb t s
  | .almReset mb t => Sys2Proof.Machine.execAlmReset mb t s
  | .almLogRead mb => Sys2Proof.Machine.execAlmLogRead mb s
  | .almFwBegin mb t => Sys2Proof.Machine.execAlmFwBegin mb t s
  | .almFwWrite mb t => Sys2Proof.Machine.execAlmFwWrite mb t s
  | .almFwActivate mb t => Sys2Proof.Machine.execAlmFwActivate mb t s
  | .almFwAbort mb t => Sys2Proof.Machine.execAlmFwAbort mb t s
  | .almStoreWrite mb => Sys2Proof.Machine.execAlmStoreWrite mb s
  | .duxFire path c t => Sys2Proof.Machine.execDuxFire path c t s
  | .folioResize => Sys2Proof.Machine.execFolioResize s
  | .encoderEdge e a b t => Sys2Proof.Machine.execEncoderEdge e a b t s
  | .zEdge e z t => Sys2Proof.Machine.execZEdge e z t s
  | .los e t => Sys2Proof.Machine.execLos e t s
  | .encFlagClear e openWire fast t => Sys2Proof.Machine.execEncFlagClear e openWire fast t s
  | .fusionResume x t => Sys2Proof.Machine.execFusionResume x t s
  | .axisUpdate x t => Sys2Proof.Machine.execAxisUpdate x t s
  | .triggerSend st t => Sys2Proof.Machine.execTriggerSend st t s
  | .firingErrorCheck st t => Sys2Proof.Machine.execFiringErrorCheck st t s
  | .fieldInputEdge fi level tEdge t => Sys2Proof.Machine.execFieldInputEdge fi level tEdge t s
  | .markerPulse o t => Sys2Proof.Machine.execMarkerPulse o t s
  | .strobePulse o t => Sys2Proof.Machine.execStrobePulse o t s
  | .pulseEnd o t => Sys2Proof.Machine.execPulseEnd o t s
  | .warmHoldExpire o t => Sys2Proof.Machine.execWarmHoldExpire o t s
  | .vfieldLoss mv t => Sys2Proof.Machine.execVfieldLoss mv t s
  | .vfieldRestore mv t => Sys2Proof.Machine.execVfieldRestore mv t s
  | .driverThermalShutdown o t => Sys2Proof.Machine.execDriverThermalShutdown o t s
  | .driverCooled o => Sys2Proof.Machine.execDriverCooled o s
  | .sealChange asserted t => Sys2Proof.Machine.execSealChange asserted t s
  | .lengthInputEdge ch level tEdge t => Sys2Proof.Machine.execLengthInputEdge ch level tEdge t s
  | .quadAttest t => Sys2Proof.Machine.execQuadAttest t s
  | .debugLevelChange t => Sys2Proof.Machine.execDebugLevelChange t s
  | .trainingFrame l frame t => Sys2Proof.Machine.execTrainingFrame l frame t s
  | .bringupTimeout l t => Sys2Proof.Machine.execBringupTimeout l t s
  | .backoffExpire l t => Sys2Proof.Machine.execBackoffExpire l t s
  | .absentProbe l t => Sys2Proof.Machine.execAbsentProbe l t s
  | .fecCodeword l msg parity t => Sys2Proof.Machine.execFecCodeword l msg parity t s
  | .align l payload t => Sys2Proof.Machine.execAlign l payload t s
  | .sleep l kind => Sys2Proof.Machine.execSleep l kind s
  | .retrainReq l num t => Sys2Proof.Machine.execRetrainReq l num t s
  | .upRetrainStart h t => Sys2Proof.Machine.execUpRetrainStart h t s
  | .eqDriftCheck l boost dfe t => Sys2Proof.Machine.execEqDriftCheck l boost dfe t s
  | .retrainComplete l converged values t => Sys2Proof.Machine.execRetrainComplete l converged values t s
  | .linkDown l why t => Sys2Proof.Machine.execLinkDown l why t s
  | .eiEntry l t => Sys2Proof.Machine.execEiEntry l t s
  | .delayProbeTimer h t => Sys2Proof.Machine.execDelayProbeTimer h t s
  | .delayEcho h num turnaround t => Sys2Proof.Machine.execDelayEcho h num turnaround t s
  | .pixel h pkt errs t => Sys2Proof.Machine.execPixel h pkt errs t s
  | .frameStart h pkt t => Sys2Proof.Machine.execFrameStart h pkt t s
  | .frameEnd h pkt t => Sys2Proof.Machine.execFrameEnd h pkt t s
  | .ack h pkt t => Sys2Proof.Machine.execAck h pkt t s
  | .headInfo h pkt t => Sys2Proof.Machine.execHeadInfo h pkt t s
  | .headStatus h pkt t => Sys2Proof.Machine.execHeadStatus h pkt t s
  | .ackTimeout h tag t => Sys2Proof.Machine.execAckTimeout h tag t s
  | .exposeSetDeferredSend mb t => Sys2Proof.Machine.execExposeSetDeferredSend mb t s
  | .lineTimeout st t => Sys2Proof.Machine.execLineTimeout st t s
  | .heldFrameEnd st t => Sys2Proof.Machine.execHeldFrameEnd st t s
  | .pllLock tile t => Sys2Proof.Machine.execPllLock tile t s
  | .pllLockLoss tile t => Sys2Proof.Machine.execPllLockLoss tile t s
  | .tileCut q errs t => Sys2Proof.Machine.execTileCut q errs t s
  | .tileDispatch slot nib desc input t => Sys2Proof.Machine.execTileDispatch slot nib desc input t s
  | .tileStart n t => Sys2Proof.Machine.execTileStart n t s
  | .tileCommit q errs t => Sys2Proof.Machine.execTileCommit q errs t s
  | .cutthruCopy q bytes errs t => Sys2Proof.Machine.execCutthruCopy q bytes errs t s
  | .tileTimeout n t => Sys2Proof.Machine.execTileTimeout n t s
  | .nibHang n t => Sys2Proof.Machine.execNibHang n t s
  | .noProgressTimeout t => Sys2Proof.Machine.execNoProgressTimeout t s
  | .domainReset t => Sys2Proof.Machine.execDomainReset t s
  | .nibReload n => Sys2Proof.Machine.execNibReload n s
  | .reloadComplete n t => Sys2Proof.Machine.execReloadComplete n t s
  | .marchTestDone n pass t => Sys2Proof.Machine.execMarchTestDone n pass t s
  | .nibPark n t => Sys2Proof.Machine.execNibPark n t s
  | .nibNop n f => Sys2Proof.Machine.execNibNop n f s
  | .brCc n cc f => Sys2Proof.Machine.execBrCc n cc f s
  | .loop n f => Sys2Proof.Machine.execLoop n f s
  | .li n f => Sys2Proof.Machine.execLi n f s
  | .add n f => Sys2Proof.Machine.execAdd n f s
  | .sub n f => Sys2Proof.Machine.execSub n f s
  | .and n f => Sys2Proof.Machine.execAnd n f s
  | .or n f => Sys2Proof.Machine.execOr n f s
  | .xor n f => Sys2Proof.Machine.execXor n f s
  | .shl n f => Sys2Proof.Machine.execShl n f s
  | .shr n f => Sys2Proof.Machine.execShr n f s
  | .sar n f => Sys2Proof.Machine.execSar n f s
  | .mul n f => Sys2Proof.Machine.execMul n f s
  | .mulh n f => Sys2Proof.Machine.execMulh n f s
  | .mulhu n f => Sys2Proof.Machine.execMulhu n f s
  | .min n f => Sys2Proof.Machine.execMin n f s
  | .max n f => Sys2Proof.Machine.execMax n f s
  | .vadd n f => Sys2Proof.Machine.execVadd n f s
  | .vsub n f => Sys2Proof.Machine.execVsub n f s
  | .vadds n f => Sys2Proof.Machine.execVadds n f s
  | .vsubs n f => Sys2Proof.Machine.execVsubs n f s
  | .vaddsu n f => Sys2Proof.Machine.execVaddsu n f s
  | .vsubsu n f => Sys2Proof.Machine.execVsubsu n f s
  | .vabsd n f => Sys2Proof.Machine.execVabsd n f s
  | .vabsdu n f => Sys2Proof.Machine.execVabsdu n f s
  | .vmin n f => Sys2Proof.Machine.execVmin n f s
  | .vminu n f => Sys2Proof.Machine.execVminu n f s
  | .vmax n f => Sys2Proof.Machine.execVmax n f s
  | .vmaxu n f => Sys2Proof.Machine.execVmaxu n f s
  | .vand n f => Sys2Proof.Machine.execVand n f s
  | .vor n f => Sys2Proof.Machine.execVor n f s
  | .vxor n f => Sys2Proof.Machine.execVxor n f s
  | .vshl n f => Sys2Proof.Machine.execVshl n f s
  | .vshr n f => Sys2Proof.Machine.execVshr n f s
  | .vsar n f => Sys2Proof.Machine.execVsar n f s
  | .vavg n f => Sys2Proof.Machine.execVavg n f s
  | .vavgu n f => Sys2Proof.Machine.execVavgu n f s
  | .vbcast n f => Sys2Proof.Machine.execVbcast n f s
  | .vmul n f => Sys2Proof.Machine.execVmul n f s
  | .vmac n f => Sys2Proof.Machine.execVmac n f s
  | .vmacu n f => Sys2Proof.Machine.execVmacu n f s
  | .vmacs n f => Sys2Proof.Machine.execVmacs n f s
  | .vdot2 n f => Sys2Proof.Machine.execVdot2 n f s
  | .aclr n f => Sys2Proof.Machine.execAclr n f s
  | .ard n f => Sys2Proof.Machine.execArd n f s
  | .ardu n f => Sys2Proof.Machine.execArdu n f s
  | .bfmul n f => Sys2Proof.Machine.execBfmul n f s
  | .bfmac n f => Sys2Proof.Machine.execBfmac n f s
  | .bfcvtI n f => Sys2Proof.Machine.execBfcvtI n f s
  | .bfcvtA n f => Sys2Proof.Machine.execBfcvtA n f s
  | .vcmpCc n cc f => Sys2Proof.Machine.execVcmpCc n cc f s
  | .vsel n f => Sys2Proof.Machine.execVsel n f s
  | .vslide n f => Sys2Proof.Machine.execVslide n f s
  | .vperm n f => Sys2Proof.Machine.execVperm n f s
  | .vpk n f => Sys2Proof.Machine.execVpk n f s
  | .vunpk n f => Sys2Proof.Machine.execVunpk n f s
  | .vunpku n f => Sys2Proof.Machine.execVunpku n f s
  | .vrsum n f => Sys2Proof.Machine.execVrsum n f s
  | .vrsumu n f => Sys2Proof.Machine.execVrsumu n f s
  | .vrmin n f => Sys2Proof.Machine.execVrmin n f s
  | .vrmax n f => Sys2Proof.Machine.execVrmax n f s
  | .vrfirst n f => Sys2Proof.Machine.execVrfirst n f s
  | .vrcnt n f => Sys2Proof.Machine.execVrcnt n f s
  | .vld n f errs t => Sys2Proof.Machine.execVld n f errs t s
  | .vst n f => Sys2Proof.Machine.execVst n f s
  | .sld n f errs t => Sys2Proof.Machine.execSld n f errs t s
  | .sst n f => Sys2Proof.Machine.execSst n f s
  | .sldh n f errs t => Sys2Proof.Machine.execSldh n f errs t s
  | .sldhu n f errs t => Sys2Proof.Machine.execSldhu n f errs t s
  | .vldm n f errs t => Sys2Proof.Machine.execVldm n f errs t s
  | .vstm n f => Sys2Proof.Machine.execVstm n f s
  | .pvld n f errs t => Sys2Proof.Machine.execPvld n f errs t s
  | .psld n f errs t => Sys2Proof.Machine.execPsld n f errs t s
  | .recEmit n f => Sys2Proof.Machine.execRecEmit n f s
  | .woutL n f => Sys2Proof.Machine.execWoutL n f s
  | .woutR n f => Sys2Proof.Machine.execWoutR n f s
  | .tdone n f t => Sys2Proof.Machine.execTdone n f t s
  | .webLineForm input t => Sys2Proof.Machine.execWebLineForm input t s
  | .syncFrameSend t => Sys2Proof.Machine.execSyncFrameSend t s
  | .syncFrameReceive port frame latencyPs t => Sys2Proof.Machine.execSyncFrameReceive port frame latencyPs t s
  | .serviceSlot port slot t => Sys2Proof.Machine.execServiceSlot port slot t s
  | .hopProbe port t => Sys2Proof.Machine.execHopProbe port t s
  | .spanLossTimeout t => Sys2Proof.Machine.execSpanLossTimeout t s
  | .refSignalLoss portB => Sys2Proof.Machine.execRefSignalLoss portB s
  | .scrubRead loc err t => Sys2Proof.Machine.execScrubRead loc err t s
  | .queueWrite q data last itemWords t => Sys2Proof.Machine.execQueueWrite q data last itemWords t s
  | .queueRead q err t => Sys2Proof.Machine.execQueueRead q err t s
  | .descriptorFetch c words => Sys2Proof.Machine.execDescriptorFetch c words s
  | .linkRead c link => Sys2Proof.Machine.execLinkRead c link s
  | .recordDeliver c errs t => Sys2Proof.Machine.execRecordDeliver c errs t s
  | .imageFrameDeliver c errs t => Sys2Proof.Machine.execImageFrameDeliver c errs t s
  | .hostReadData c data busError t => Sys2Proof.Machine.execHostReadData c data busError t s
  | .msixUnmask fn vector => Sys2Proof.Machine.execMsixUnmask fn vector s
  | .bmeClear fn => Sys2Proof.Machine.execBmeClear fn s
  | .bmeSet fn => Sys2Proof.Machine.execBmeSet fn s
  | .eventDeliver ev c t => Sys2Proof.Machine.execEventDeliver ev c t s
  | .sinkBusyEnd k => Sys2Proof.Machine.execSinkBusyEnd k s
  | .tapHoldRelease k t => Sys2Proof.Machine.execTapHoldRelease k t s
  | .droopTrip d railMv t => Sys2Proof.Machine.execDroopTrip d railMv t s
  | .droopClear d railMv t => Sys2Proof.Machine.execDroopClear d railMv t s
  | .paceLevelStep g t => Sys2Proof.Machine.execPaceLevelStep g t s
  | .railAdjust speedIndex t => Sys2Proof.Machine.execRailAdjust speedIndex t s
  | .powerOn t => Sys2Proof.Machine.execPowerOn t s
  | .sysRst t => Sys2Proof.Machine.execSysRst t s
  | .brownout t => Sys2Proof.Machine.execBrownout t s
  | .vinLow t => Sys2Proof.Machine.execVinLow t s
  | .coldReset bootSel refSel extClock sets t => Sys2Proof.Machine.execColdReset bootSel refSel extClock sets t s
  | .referenceFallback => Sys2Proof.Machine.execReferenceFallback s
  | .warmReset sets t => Sys2Proof.Machine.execWarmReset sets t s
  | .perst t => Sys2Proof.Machine.execPerst t s
  | .perstDeassert t => Sys2Proof.Machine.execPerstDeassert t s
  | .hotReset t => Sys2Proof.Machine.execHotReset t s
  | .flrPf0 t => Sys2Proof.Machine.execFlrPf0 t s
  | .flrPf1 => Sys2Proof.Machine.execFlrPf1 s
  | .scribeWatchdog t => Sys2Proof.Machine.execScribeWatchdog t s
  | .fatal t => Sys2Proof.Machine.execFatal t s
  | .almanacWatchdog poison => Sys2Proof.Machine.execAlmanacWatchdog poison s
  | .deferredReset t => Sys2Proof.Machine.execDeferredReset t s
  | .bootReadyTimeout sets t => Sys2Proof.Machine.execBootReadyTimeout sets t s
  | .powerTransitionDone sets t => Sys2Proof.Machine.execPowerTransitionDone sets t s
  | .p3BarWake t => Sys2Proof.Machine.execP3BarWake t s
  | .grantExpire t => Sys2Proof.Machine.execGrantExpire t s
  | .sensorSample temps vinMv vfieldMv railMv t => Sys2Proof.Machine.execSensorSample temps vinMv vfieldMv railMv t s
  | .eyeScan l heightMv width t => Sys2Proof.Machine.execEyeScan l heightMv width t s
  | .trialExpire t => Sys2Proof.Machine.execTrialExpire t s
  | .unknownTypePacket h pkt => Sys2Proof.Machine.execUnknownTypePacket h pkt s
  | .debugRequest tgt op t => Sys2Proof.Machine.execDebugRequest tgt op t s
  | .pcieLinkUp rate sizes => Sys2Proof.Machine.execPcieLinkUp rate sizes s
  | .usbVbusChange mv => Sys2Proof.Machine.execUsbVbusChange mv s

end Sys2Proof.Machine
end

