-- ==== Sys2Proof/Safety.lean ====
section
/-! DEFINITION. The words that claims use: safe runs, a nib about to run a word, a mailbox whose command may run. -/
namespace Sys2Proof.Machine

/-- A step that neither faults nor refuses. -/
def StepSafe (s : State) : Prop := ∃ t, step s = .next t

/-- The first `k` steps all answer a next state. -/
def SafeFor : Nat → State → Prop
  | 0, _ => True
  | k + 1, s => ∃ t, step s = .next t ∧ SafeFor k t

/-! ## Nib instructions -/

/-- Nib `n` stands before a word of CLASS `cls`, OP `op` and fields `f` of its program `p`: it runs a tile, the word is
read clean, and budget is left (R160, R168, R171, R185, R186). -/
structure AtWord (s : Dev) (n cls op : Nat) (f : NibF) (p : Prog) : Prop where
  ready : s.nibReady n = true
  prog : (s.nib n).prog = some p
  inside : (s.nib n).pc < p.words
  clean : (s.nib n).poison.get false ((128 + 8 * (s.nib n).pc) / 32) = false
  word : p.word (s.nib n).pc = nibWord cls op f
  budget : (s.nib n).icount < s.budgetOf (s.nib n) p

/-- Where a nib that goes on behind the word at `pc` arrives: its loops and the next word (R171). -/
def Nib.onward (x : Nib) : List LoopEnt × Nat := endLoops x.loops (x.pc + 1)

/-- A loop that ends behind the present word does not leave the code, which would be an ACCESS fault (R171). -/
def StaysInCode (x : Nib) (p : Prog) : Prop := x.onward.1 = x.loops ∨ x.onward.2 < p.words

/-- `x` after one instruction more, standing in its program where `y` stands: loops, pc, halt and single steps are
`y`'s, everything else is `x`'s. -/
def Nib.moved (x y : Nib) (now : Nat) : Nib :=
  { x with
    loops := y.loops, pc := y.pc, halted := y.halted, steps := y.steps
    icount := x.icount + 1, lastInstr := now }

/-- `y` has gone on behind `x`'s word (R171). -/
def WentOn (x y : Nib) : Prop := (y.loops, y.pc) = x.onward

/-- What an instruction on nib `n` does when it completes: exec answers a next state that is `d`, the device it runs
on, but for this nib. The nib has gone on behind the word, one instruction more is counted, and beside that it is `y`, of
which `post` says what its registers hold; `only` puts back from `y` what the instruction may write. -/
def Completes (i : Instr) (s : State) (d : Dev) (n : Nat) (only : Nib → Nib → Nib) (post : Nib → Prop) : Prop :=
  ∃ y : Nib, exec i s = .next { s with dev := d.setNib n y }
    ∧ WentOn (d.nib n) y
    ∧ y = only ((d.nib n).moved y d.now) y
    ∧ post y

/-- An instruction of CLASS `cls` and OP `op` whose one result is a scalar: s[D] becomes `v`, but for s0, which keeps
reading zero; every other register and the local store stay. -/
def ScalarResult (c : Fin 96 → NibF → Instr) (cls op : Nat) (v : Nib → NibF → W32) : Prop :=
  ∀ (s : State) (n : Fin 96) (f : NibF) (p : Prog),
    AtWord s.dev n cls op f p → StaysInCode (s.dev.nib n) p →
      Completes (c n f) s s.dev n (fun x y => { x with sreg := y.sreg })
        (fun y => ∀ r, y.s r = if r = f.dst.val ∧ r ≠ 0 then v (s.dev.nib n) f else (s.dev.nib n).s r)

/-- An instruction whose one result is a vector register with lanes of `w f` bits: lane `i` of v[D] becomes `v x f i`
where PRED enables it; every other lane, every other register and the local store stay. -/
def VectorResult (c : Fin 96 → NibF → Instr) (cls op : Nat) (w : NibF → Nat) (v : Nib → NibF → Nat → Nat) : Prop :=
  ∀ (s : State) (n : Fin 96) (f : NibF) (p : Prog),
    AtWord s.dev n cls op f p → StaysInCode (s.dev.nib n) p →
      Completes (c n f) s s.dev n (fun x y => { x with v := y.v })
        (fun y => (∀ r, r ≠ f.dst.val → y.vr r = (s.dev.nib n).vr r)
          ∧ ∀ i, i < 1024 / w f → y.lane (w f) f.dst.val i =
              if (s.dev.nib n).laneOn f (w f) i = true then v (s.dev.nib n) f i
              else (s.dev.nib n).lane (w f) f.dst.val i)

/-- Lanes of the width that EW selects. -/
def byEw (f : NibF) : Nat := laneWidth f.ew.val

/-- Lane `i` of v[A] and of v[B], unsigned. -/
def laneA (x : Nib) (f : NibF) (i : Nat) : Nat := x.lane (byEw f) f.a.val i
def laneB (x : Nib) (f : NibF) (i : Nat) : Nat := x.lane (byEw f) f.b.val i

/-- The same, signed. -/
def laneAs (x : Nib) (f : NibF) (i : Nat) : Int := ofTwos (byEw f) (laneA x f i)
def laneBs (x : Nib) (f : NibF) (i : Nat) : Int := ofTwos (byEw f) (laneB x f i)

/-- The value of a lane held to the signed range, and to the unsigned range, of `w` bits. -/
def toSigned (w : Nat) (v : Int) : Nat := toTwos w (max (-(2 ^ (w - 1) : Int)) (min v (2 ^ (w - 1) - 1)))
def toUnsigned (w : Nat) (v : Int) : Nat := (max 0 (min v (2 ^ w - 1))).toNat

/-- Lane `i` of accumulator bank `b` held to `w` bits. -/
def held (w : Nat) (v : Int) : Int := max (-(2 ^ (w - 1) : Int)) (min v (2 ^ (w - 1) - 1))

/-- An instruction that adds `term` to the lanes of a[D] that PRED enables, held to 40 bits; ACC_SAT records a lane that
would pass its limit; every other lane, register and status bit stays. -/
def AccumResult (c : Fin 96 → NibF → Instr) (op : Nat) (term : Nib → NibF → Nat → Int) : Prop :=
  ∀ (s : State) (n : Fin 96) (f : NibF) (p : Prog),
    AtWord s.dev n 0x3 op f p → StaysInCode (s.dev.nib n) p →
      Completes (c n f) s s.dev n (fun x y => { x with acc := y.acc, status := y.status })
        (fun y => (∀ b e, e < 64 → y.ar b e =
            if b = f.dst.val % 4 ∧ (s.dev.nib n).enabled f e = true
            then held 40 ((s.dev.nib n).ar b e + term (s.dev.nib n) f e) else (s.dev.nib n).ar b e)
          ∧ ((∃ e, e < 64 ∧ (s.dev.nib n).enabled f e = true
                ∧ held 40 ((s.dev.nib n).ar (f.dst.val % 4) e + term (s.dev.nib n) f e)
                  ≠ (s.dev.nib n).ar (f.dst.val % 4) e + term (s.dev.nib n) f e) →
              y.status = setBit (s.dev.nib n).status stAccSat)
          ∧ ((∀ e, e < 64 → (s.dev.nib n).enabled f e = true →
                held 40 ((s.dev.nib n).ar (f.dst.val % 4) e + term (s.dev.nib n) f e)
                  = (s.dev.nib n).ar (f.dst.val % 4) e + term (s.dev.nib n) f e) →
              y.status = (s.dev.nib n).status))

/-- An instruction whose one result is a mask register: bit `e` of m[D] becomes `v x f e` where PRED enables it; every
other bit, every other register and the local store stay. -/
def MaskResult (c : Fin 96 → NibF → Instr) (cls op : Nat) (v : Nib → NibF → Nat → Bool) : Prop :=
  ∀ (s : State) (n : Fin 96) (f : NibF) (p : Prog),
    AtWord s.dev n cls op f p → StaysInCode (s.dev.nib n) p →
      Completes (c n f) s s.dev n (fun x y => { x with m := y.m })
        (fun y => (∀ r, r ≠ f.dst.val → y.mr r = (s.dev.nib n).mr r)
          ∧ ∀ e, e < 64 → (y.mr f.dst.val).getLsbD e =
              if (s.dev.nib n).enabled f e = true then v (s.dev.nib n) f e
              else ((s.dev.nib n).mr f.dst.val).getLsbD e)

/-- The words a load of `len` bytes at `a` meets hold no poison, and come without an error. -/
def ReadsClean (x : Nib) (errs : List (Nat × Bytes)) (a len : Nat) : Prop :=
  ∀ w ∈ wordsOf a len, x.poison.get false w = false ∧ errOf errs w = List.replicate 35 0

/-- A load of `len` bytes at s[A] + IMM from bytes that the program may load: `only` and `post` say what the bytes become.
The instant of the load is `t`. -/
def LoadResult (c : Fin 96 → NibF → List (Nat × Bytes) → Nat → Instr) (op len : Nat) (only : Nib → Nib → Nib)
    (post : Nib → NibF → (Nat → Byte) → Nib → Prop) : Prop :=
  ∀ (s : State) (n : Fin 96) (f : NibF) (errs : List (Nat × Bytes)) (t : Nat) (p : Prog),
    AtWord s.dev n 0x8 op f p → StaysInCode (s.dev.nib n) p →
    (∀ k, k < len → (s.dev.nib n).loadable (memAddr (s.dev.nib n) f + k) = true) →
    ReadsClean (s.dev.nib n) errs (memAddr (s.dev.nib n) f) len →
      Completes (c n f errs t) s (s.dev.at' t) n only
        (post (s.dev.nib n) f (fun k => (s.dev.nib n).progByte (memAddr (s.dev.nib n) f + k)))

/-- A store at s[A] + IMM: `b x f k` is the byte stored at offset `k`, if any. Where the program may store all of them and
none meets a poisoned word, exactly they change: every other byte of the local store, and every register, stays. The
scratch granules stored to count as stored (R160). -/
def StoreResult (c : Fin 96 → NibF → Instr) (op : Nat) (b : Nib → NibF → Nat → Option Byte) : Prop :=
  ∀ (s : State) (n : Fin 96) (f : NibF) (p : Prog),
    AtWord s.dev n 0x8 op f p → StaysInCode (s.dev.nib n) p →
    (∀ k, (b (s.dev.nib n) f k).isSome = true →
      (s.dev.nib n).storable (memAddr (s.dev.nib n) f + k) = true
      ∧ (s.dev.nib n).poison.get false ((memAddr (s.dev.nib n) f + k) / 32) = false) →
      Completes (c n f) s s.dev n
        (fun x y => { x with store := y.store, granules := y.granules, poison := y.poison })
        (fun y => (∀ w, y.poison.get false w = (s.dev.nib n).poison.get false w)
          ∧ (∀ a, y.byteAt a =
              if memAddr (s.dev.nib n) f ≤ a then
                (b (s.dev.nib n) f (a - memAddr (s.dev.nib n) f)).getD ((s.dev.nib n).byteAt a)
              else (s.dev.nib n).byteAt a)
          ∧ ∀ g, y.granules.get false g = true ↔
              (s.dev.nib n).granules.get false g = true
                ∨ ∃ k, (b (s.dev.nib n) f k).isSome = true ∧ 0x74000 ≤ memAddr (s.dev.nib n) f + k
                    ∧ (memAddr (s.dev.nib n) f + k - 0x74000) / 64 = g)

/-- A fault of class `code` that every sound nib repeats ends tile `no` on nib `n`: exec answers a next state in which
the tile is settled with `outcome` and no result, the nib is IDLE and runs nothing, the fault is counted and recorded, and
the other nibs are as on `d` (R186, R200). -/
def EndsTile (i : Instr) (s : State) (d : Dev) (n no outcome code : Nat) : Prop :=
  ∀ T, d.tile no = some T →
    ∃ t : Dev, exec i s = .next { s with dev := t }
      ∧ t.tile no = some { T with st := .done, result := some ⟨outcome, [], [], [], 0⟩, since := d.now }
      ∧ t.nibSt n = E.nibState.IDLE
      ∧ (t.nib n).running = false
      ∧ t.pv P.nibLastFault n = code
      ∧ t.pv P.nibFaultCount n = countTo P.nibFaultCount (d.pv P.nibFaultCount n + 1)
      ∧ ∀ m, m ≠ n → t.nib m = d.nib m

/-- The byte of the pool at address `a` as the quad of nib `n` holds it: constant-region offset `a` mod 15,872 of member
`a` / 15,872 (R161). -/
def poolByte (d : Dev) (n a : Nat) : Byte := (d.nib (4 * (n / 4) + a / 15872)).byteAt (0x10000 + a % 15872)

/-! ## Mailbox commands -/

/-- exec answers a next state whose queue and stored words are as they were, and `post` says what became of the device. -/
def Gives (i : Instr) (s : State) (post : Dev → Prop) : Prop :=
  ∃ u : Dev, exec i s = .next { s with dev := u } ∧ post u

/-- `u` is `d` but for the end of the command in mailbox `m`: its status and response, its interrupt, one trace entry. -/
def OnlyAnswers (d u : Dev) (m : Nat) : Prop :=
  u = { d with
    mbs := u.mbs, int0 := u.int0, int1 := u.int1, out := u.out
    quill := { d.quill with pend0 := u.quill.pend0, pend1 := u.quill.pend1 }
    sec := { d.sec with trace := u.sec.trace, traceNo := u.sec.traceNo } }
  ∧ (∀ j, j ≠ m → u.mb j = d.mb j)
  ∧ (u.mb m).req = (d.mb m).req ∧ (u.mb m).snap = (d.mb m).snap ∧ (u.mb m).tag = (d.mb m).tag

/-- The command with opcode `op` waits in mailbox `m` and may reach its effect commit; `r` is its request
(R316, R318, R323). -/
structure MayRun (s : Dev) (m op : Nat) (r : Req) : Prop where
  queued : (s.mb m).st = .queued
  request : (s.mb m).request m = r
  opcode : r.op = op
  order : s.mayRun m = true
  served : (s.sec.scribeHalted && decide (m < 16)) = false

/-- Mailbox `m` holds the final status `c` of request `r`, with effect or without, the response `pay` and the DETAIL
and VALUE words (R316, R317, R318). -/
structure Ended (t : Dev) (m : Nat) (r : Req) (c : Nat) (eff : Bool) (pay : Bytes) (detail value : Nat) : Prop where
  status : (t.mb m).st = .complete
  code : (t.mb m).code = c
  effect : (t.mb m).effect = eff
  waits : (t.mb m).wait = .none
  response : (t.mb m).rsp = Mem.ofBytes (rspHeader r pay.length detail c value ++ pay)

/-- exec answers a next state in which the command in mailbox `m` has ended, on a device that is otherwise `d`. -/
def Answers (i : Instr) (s : State) (d : Dev) (m : Nat) (r : Req) (c : Nat) (eff : Bool) (pay : Bytes) (value : Nat) : Prop :=
  Gives i s (fun u => Ended u m r c eff pay 0 value ∧ OnlyAnswers d u m)

/-- The command ends with a status other than OK, and nothing else has changed. -/
def Refuses (i : Instr) (s : State) (d : Dev) (m : Nat) (r : Req) (c : Nat) : Prop := Answers i s d m r c false [] 0

end Sys2Proof.Machine
end

