-- ==== Sys2Proof/Certificates/Slice0/Obligations.lean ====
section
/-! DEFINITION. The statements for the provers. -/
open Sys2Proof Sys2Proof.Machine

/-- LI and the scalar instructions of class SALU: each has its result in s[D], modulo 2^32, and changes nothing else
(R157, R170). Completes (exec answers a next state): LI, ADD, SUB, AND, OR, XOR, SHL, SHR, SAR, MUL, MULH, MULHU, MIN,
MAX. -/
def Obligations.ScalarInstructions : Prop :=
  ScalarResult .li 0x1 0x00 (fun _ f => f.imm)
  ∧ ScalarResult .add 0x1 0x01 (fun x f => BitVec.ofNat 32 ((x.s f.a.val).toNat + (x.s f.b.val).toNat))
  ∧ ScalarResult .sub 0x1 0x02 (fun x f => BitVec.ofInt 32 ((x.s f.a.val).toInt - (x.s f.b.val).toInt))
  ∧ ScalarResult .and 0x1 0x03 (fun x f => x.s f.a.val &&& x.s f.b.val)
  ∧ ScalarResult .or 0x1 0x04 (fun x f => x.s f.a.val ||| x.s f.b.val)
  ∧ ScalarResult .xor 0x1 0x05 (fun x f => x.s f.a.val ^^^ x.s f.b.val)
  ∧ ScalarResult .shl 0x1 0x06 (fun x f =>
      BitVec.ofNat 32 ((x.s f.a.val).toNat * 2 ^ ((x.s f.b.val).toNat % 32)))
  ∧ ScalarResult .shr 0x1 0x07 (fun x f =>
      BitVec.ofNat 32 ((x.s f.a.val).toNat / 2 ^ ((x.s f.b.val).toNat % 32)))
  ∧ ScalarResult .sar 0x1 0x08 (fun x f =>
      BitVec.ofInt 32 ((x.s f.a.val).toInt / 2 ^ ((x.s f.b.val).toNat % 32)))
  ∧ ScalarResult .mul 0x1 0x09 (fun x f =>
      BitVec.ofNat 32 ((x.s f.a.val).toNat * (x.s f.b.val).toNat))
  ∧ ScalarResult .mulh 0x1 0x0A (fun x f =>
      BitVec.ofInt 32 ((x.s f.a.val).toInt * (x.s f.b.val).toInt / 2 ^ 32))
  ∧ ScalarResult .mulhu 0x1 0x0B (fun x f =>
      BitVec.ofNat 32 ((x.s f.a.val).toNat * (x.s f.b.val).toNat / 2 ^ 32))
  ∧ ScalarResult .min 0x1 0x0C (fun x f => BitVec.ofInt 32 (min (x.s f.a.val).toInt (x.s f.b.val).toInt))
  ∧ ScalarResult .max 0x1 0x0D (fun x f => BitVec.ofInt 32 (max (x.s f.a.val).toInt (x.s f.b.val).toInt))

/-- Class VALU and VMUL, lane by lane, at the width EW selects (R169, R170, R172). Completes (exec answers a next
state): VADD, VSUB, VADDS, VSUBS, VADDSU, VSUBSU, VABSD, VABSDU, VMIN, VMINU, VMAX, VMAXU, VAND, VOR, VXOR, VSHL,
VSHR, VSAR, VAVG, VAVGU, VBCAST, VMUL. -/
def Obligations.LaneArithmetic : Prop :=
  VectorResult .vadd 0x2 0x01 byEw (fun x f i => toTwos (byEw f) (laneA x f i + laneB x f i))
  ∧ VectorResult .vsub 0x2 0x02 byEw (fun x f i => toTwos (byEw f) ((laneA x f i : Int) - laneB x f i))
  ∧ VectorResult .vadds 0x2 0x03 byEw (fun x f i => toSigned (byEw f) (laneAs x f i + laneBs x f i))
  ∧ VectorResult .vsubs 0x2 0x04 byEw (fun x f i => toSigned (byEw f) (laneAs x f i - laneBs x f i))
  ∧ VectorResult .vaddsu 0x2 0x05 byEw (fun x f i => toUnsigned (byEw f) ((laneA x f i : Int) + laneB x f i))
  ∧ VectorResult .vsubsu 0x2 0x06 byEw (fun x f i => toUnsigned (byEw f) ((laneA x f i : Int) - laneB x f i))
  ∧ VectorResult .vabsd 0x2 0x07 byEw (fun x f i => (laneAs x f i - laneBs x f i).natAbs)
  ∧ VectorResult .vabsdu 0x2 0x08 byEw (fun x f i => ((laneA x f i : Int) - laneB x f i).natAbs)
  ∧ VectorResult .vmin 0x2 0x09 byEw (fun x f i => toTwos (byEw f) (min (laneAs x f i) (laneBs x f i)))
  ∧ VectorResult .vminu 0x2 0x0A byEw (fun x f i => min (laneA x f i) (laneB x f i))
  ∧ VectorResult .vmax 0x2 0x0B byEw (fun x f i => toTwos (byEw f) (max (laneAs x f i) (laneBs x f i)))
  ∧ VectorResult .vmaxu 0x2 0x0C byEw (fun x f i => max (laneA x f i) (laneB x f i))
  ∧ VectorResult .vand 0x2 0x0D byEw (fun x f i => laneA x f i &&& laneB x f i)
  ∧ VectorResult .vor 0x2 0x0E byEw (fun x f i => laneA x f i ||| laneB x f i)
  ∧ VectorResult .vxor 0x2 0x0F byEw (fun x f i => laneA x f i ^^^ laneB x f i)
  ∧ VectorResult .vshl 0x2 0x10 byEw (fun x f i => toTwos (byEw f) (laneA x f i * 2 ^ shift5 f))
  ∧ VectorResult .vshr 0x2 0x11 byEw (fun x f i => (roundShift (laneA x f i) (shift5 f) (roundMode f)).toNat)
  ∧ VectorResult .vsar 0x2 0x12 byEw (fun x f i =>
      toTwos (byEw f) (roundShift (laneAs x f i) (shift5 f) (roundMode f)))
  ∧ VectorResult .vavg 0x2 0x13 byEw (fun x f i => toTwos (byEw f) ((laneAs x f i + laneBs x f i + 1) / 2))
  ∧ VectorResult .vavgu 0x2 0x14 byEw (fun x f i => (laneA x f i + laneB x f i + 1) / 2)
  ∧ VectorResult .vbcast 0x2 0x15 byEw (fun x f _ => (x.s f.a.val).toNat % 2 ^ byEw f)
  ∧ VectorResult .vmul 0x3 0x01 byEw (fun x f i =>
      toSigned (byEw f) (roundShift (laneAs x f i * laneBs x f i) (shift5 f) (roundMode f)))

/-- The instructions that accumulate: enabled lanes of a[D] gain the exact term, held to 40 bits with ACC_SAT; ACLR
clears them; ARD and ARDU shift, round and saturate a bank's lanes into v[D] (R169, R170, R172). Completes (exec
answers a next state): VMAC, VMACU, VMACS, VDOT2, ACLR, ARD, ARDU. -/
def Obligations.Accumulators : Prop :=
  AccumResult .vmac 0x02 (fun x f e => ofTwos 16 (x.lane 16 f.a.val e) * ofTwos 16 (x.lane 16 f.b.val e))
  ∧ AccumResult .vmacu 0x03 (fun x f e => (x.lane 16 f.a.val e : Int) * x.lane 16 f.b.val e)
  ∧ AccumResult .vmacs 0x04 (fun x f e => ofTwos 16 (x.lane 16 f.a.val e) * (x.s f.b.val).toInt)
  ∧ AccumResult .vdot2 0x05 (fun x f e =>
      ofTwos 8 (x.lane 8 f.a.val (2 * e)) * ofTwos 8 (x.lane 8 f.b.val (2 * e))
        + ofTwos 8 (x.lane 8 f.a.val (2 * e + 1)) * ofTwos 8 (x.lane 8 f.b.val (2 * e + 1)))
  ∧ (∀ (s : State) (n : Fin 96) (f : NibF) (p : Prog),
      AtWord s.dev n 0x4 0x01 f p → StaysInCode (s.dev.nib n) p →
        Completes (.aclr n f) s s.dev n (fun x y => { x with acc := y.acc })
          (fun y => ∀ b e, e < 64 → y.ar b e =
            if b = f.dst.val % 4 ∧ (s.dev.nib n).enabled f e = true then 0 else (s.dev.nib n).ar b e))
  ∧ VectorResult .ard 0x4 0x02 (fun _ => 16) (fun x f e =>
      toSigned 16 (roundShift (x.ar (f.a.val % 4) e) (shift6 f) (roundMode f)))
  ∧ VectorResult .ardu 0x4 0x03 (fun _ => 16) (fun x f e =>
      toUnsigned 16 (roundShift (x.ar (f.a.val % 4) e) (shift6 f) (roundMode f)))

/-- The bfloat16 instructions: BFMUL, BFCVT.I and BFCVT.A write lanes of v[D]; BFMAC adds the product's integer part
to the enabled lanes of a[D], held to 32 bits with ACC_SAT, and an invalid product sets the bound and BF_INVALID
(R173). The fixed choices of bfloat16 arithmetic: a NaN, and infinity times zero, give 0x7FC0; a subnormal input
counts as the zero of its sign; no result is subnormal; the product of two finite values beyond the range is infinite
(R173). Completes (exec answers a next state): BFMUL, BFMAC, BFCVT_I, BFCVT_A. -/
def Obligations.Bfloat16 : Prop :=
  (VectorResult .bfmul 0x5 0x01 (fun _ => 16) (fun x f e => bfMul (x.lane 16 f.a.val e) (x.lane 16 f.b.val e))
  ∧ VectorResult .bfcvtI 0x5 0x03 (fun _ => 16) (fun x f e => bfRound (ofTwos 16 (x.lane 16 f.a.val e)) 0)
  ∧ VectorResult .bfcvtA 0x5 0x04 (fun _ => 16) (fun x f e => bfRound (x.ar (f.a.val % 4) e) (-(bfE f)))
  ∧ ∀ (s : State) (n : Fin 96) (f : NibF) (p : Prog),
      AtWord s.dev n 0x5 0x02 f p → StaysInCode (s.dev.nib n) p →
        Completes (.bfmac n f) s s.dev n (fun x y => { x with acc := y.acc, status := y.status })
          (fun y => (∀ b e, e < 64 → y.ar b e =
              if b = f.dst.val % 4 ∧ (s.dev.nib n).enabled f e = true then
                (match bfTerm ((s.dev.nib n).lane 16 f.a.val e) ((s.dev.nib n).lane 16 f.b.val e) (bfE f) with
                 | .int v => held 32 ((s.dev.nib n).ar b e + v)
                 | .invalid v => v)
              else (s.dev.nib n).ar b e)
            ∧ (bit y.status stBfInvalid = true ↔ bit (s.dev.nib n).status stBfInvalid = true
                ∨ ∃ e v, e < 64 ∧ (s.dev.nib n).enabled f e = true
                  ∧ bfTerm ((s.dev.nib n).lane 16 f.a.val e) ((s.dev.nib n).lane 16 f.b.val e) (bfE f) = .invalid v)
            ∧ (bit y.status stAccSat = true ↔ bit (s.dev.nib n).status stAccSat = true
                ∨ ∃ e v, e < 64 ∧ (s.dev.nib n).enabled f e = true
                  ∧ bfTerm ((s.dev.nib n).lane 16 f.a.val e) ((s.dev.nib n).lane 16 f.b.val e) (bfE f) = .int v
                  ∧ held 32 ((s.dev.nib n).ar (f.dst.val % 4) e + v) ≠ (s.dev.nib n).ar (f.dst.val % 4) e + v)
            ∧ ∀ b, b ≠ stBfInvalid → b ≠ stAccSat → bit y.status b = bit (s.dev.nib n).status b))
  ∧ (∀ x y, bfOf x = .nan ∨ bfOf y = .nan → bfMul x y = 0x7FC0)
  ∧ (∀ x y a, bfOf x = .inf a → y < 65536 → y / 128 % 256 = 0 → bfMul x y = 0x7FC0 ∧ bfMul y x = 0x7FC0)
  ∧ (∀ x y, x < 65536 → x / 128 % 256 = 0 → bfMul x y = bfMul (x - x % 128) y ∧ bfMul y x = bfMul y (x - x % 128))
  ∧ (∀ x y, bfMul x y / 128 % 256 = 0 → bfMul x y % 128 = 0)
  ∧ (∀ x y a b m k p q, bfOf x = .fin a m p → bfOf y = .fin b k q → 
      2 ^ 428 ≤ m * k * 2 ^ (p + q + 300).toNat →
      bfMul x y = (if a = b then 0x7F80 else 0xFF80))

/-- Compare, select, slide, permute, pack and unpack, lane by lane (R169, R170). Completes (exec answers a next
state): VCMP_CC, VSEL, VSLIDE, VPERM, VPK, VUNPK, VUNPKU. -/
def Obligations.LaneMoves : Prop :=
  (∀ cc : CmpCond, MaskResult (fun n f => .vcmpCc n cc f) 0x6 cc.op (fun x f e =>
      if f.ew.val = 1 then
        (if f.imm.getLsbD 0 = false
         then cc.holds 8 (x.lane 8 f.a.val (2 * e)) (x.lane 8 f.b.val (2 * e))
            && cc.holds 8 (x.lane 8 f.a.val (2 * e + 1)) (x.lane 8 f.b.val (2 * e + 1))
         else cc.holds 8 (x.lane 8 f.a.val (2 * e)) (x.lane 8 f.b.val (2 * e))
            || cc.holds 8 (x.lane 8 f.a.val (2 * e + 1)) (x.lane 8 f.b.val (2 * e + 1)))
      else cc.holds 16 (x.lane 16 f.a.val e) (x.lane 16 f.b.val e)))
  ∧ VectorResult .vsel 0x6 0x09 byEw (fun x f i =>
      if (x.mr (f.imm.toNat % 8)).getLsbD (if byEw f = 8 then i / 2 else i) then laneA x f i else laneB x f i)
  ∧ VectorResult .vslide 0x6 0x0A byEw (fun x f i =>
      if 0 ≤ f.imm.toInt then
        (if i + f.imm.toInt.toNat < 1024 / byEw f then laneA x f (i + f.imm.toInt.toNat)
         else laneB x f (i + f.imm.toInt.toNat - 1024 / byEw f))
      else
        (if ((1024 / byEw f : Nat) + i + f.imm.toInt : Int).toNat < 1024 / byEw f
         then laneB x f ((1024 / byEw f : Nat) + i + f.imm.toInt : Int).toNat
         else laneA x f (((1024 / byEw f : Nat) + i + f.imm.toInt : Int).toNat - 1024 / byEw f)))
  ∧ VectorResult .vperm 0x6 0x0B byEw (fun x f i =>
      if laneB x f i < 1024 / byEw f then laneA x f (laneB x f i) else 0)
  ∧ VectorResult .vpk 0x6 0x0C (fun _ => 8) (fun x f i =>
      if f.imm.getLsbD 0 = false
      then toSigned 8 (ofTwos 16 (if i < 64 then x.lane 16 f.a.val i else x.lane 16 f.b.val (i - 64)))
      else toUnsigned 8 (ofTwos 16 (if i < 64 then x.lane 16 f.a.val i else x.lane 16 f.b.val (i - 64))))
  ∧ VectorResult .vunpk 0x6 0x0D (fun _ => 16) (fun x f i =>
      toTwos 16 (ofTwos 8 (x.lane 8 f.a.val (if f.imm.getLsbD 0 = true then i + 64 else i))))
  ∧ VectorResult .vunpku 0x6 0x0E (fun _ => 16) (fun x f i =>
      x.lane 8 f.a.val (if f.imm.getLsbD 0 = true then i + 64 else i))

/-- The reductions: over the lanes of v[A] that PRED enables, and over the bits of m[A], into s[D] (R169, R170, R172).
Completes (exec answers a next state): VRSUM, VRSUMU, VRMIN, VRMAX, VRFIRST, VRCNT. -/
def Obligations.Reductions : Prop :=
  ScalarResult .vrsum 0x7 0x01 (fun x f =>
      BitVec.ofInt 32 (((x.enabledLanes f (byEw f)).map (ofTwos (byEw f))).sum))
  ∧ ScalarResult .vrsumu 0x7 0x02 (fun x f => BitVec.ofNat 32 ((x.enabledLanes f (byEw f)).sum))
  ∧ ScalarResult .vrmin 0x7 0x03 (fun x f =>
      BitVec.ofInt 32 (((x.enabledLanes f (byEw f)).map (ofTwos (byEw f))).foldl min (2 ^ (byEw f - 1) - 1)))
  ∧ ScalarResult .vrmax 0x7 0x04 (fun x f =>
      BitVec.ofInt 32 (((x.enabledLanes f (byEw f)).map (ofTwos (byEw f))).foldl max (-(2 ^ (byEw f - 1)))))
  ∧ ScalarResult .vrfirst 0x7 0x05 (fun x f =>
      BitVec.ofNat 32 (((List.range 64).find? (fun e => (x.mr f.a.val).getLsbD e)).getD 64))
  ∧ ScalarResult .vrcnt 0x7 0x06 (fun x f =>
      BitVec.ofNat 32 ((List.range 64).filter (fun e => (x.mr f.a.val).getLsbD e)).length)

/-- The loads: little-endian bytes from s[A] + IMM, sign- or zero-extended, into the register that DST names; nothing
else changes (R160, R169, R170). Completes (exec answers a next state): VLD, SLD, SLDH, SLDHU, VLDM. -/
def Obligations.LocalLoads : Prop :=
  LoadResult .vld 0x01 128 (fun x y => { x with v := y.v })
    (fun x f b y => (∀ r, r ≠ f.dst.val → y.vr r = x.vr r)
      ∧ ∀ e, e < 64 → y.lane 16 f.dst.val e =
          if x.enabled f e = true then (b (2 * e)).toNat + 256 * (b (2 * e + 1)).toNat else x.lane 16 f.dst.val e)
  ∧ LoadResult .sld 0x03 4 (fun x y => { x with sreg := y.sreg })
    (fun x f b y => ∀ r, y.s r = if r = f.dst.val ∧ r ≠ 0
      then BitVec.ofNat 32 ((b 0).toNat + 256 * (b 1).toNat + 65536 * (b 2).toNat + 16777216 * (b 3).toNat) else x.s r)
  ∧ LoadResult .sldh 0x05 2 (fun x y => { x with sreg := y.sreg })
    (fun x f b y => ∀ r, y.s r = if r = f.dst.val ∧ r ≠ 0
      then (BitVec.ofNat 16 ((b 0).toNat + 256 * (b 1).toNat)).signExtend 32 else x.s r)
  ∧ LoadResult .sldhu 0x06 2 (fun x y => { x with sreg := y.sreg })
    (fun x f b y => ∀ r, y.s r = if r = f.dst.val ∧ r ≠ 0
      then BitVec.ofNat 32 ((b 0).toNat + 256 * (b 1).toNat) else x.s r)
  ∧ LoadResult .vldm 0x07 8 (fun x y => { x with m := y.m })
    (fun x f b y => (∀ r, r ≠ f.dst.val → y.mr r = x.mr r)
      ∧ ∀ k, k < 64 → (y.mr f.dst.val).getLsbD k = (b (k / 8)).getLsbD (k % 8))

/-- The stores: the bytes of the register that SRCB names, lowest first, at s[A] + IMM; lanes that PRED excludes keep
their bytes; no other byte and no register changes (R160, R169, R170). Completes (exec answers a next state): VST,
SST, VSTM. -/
def Obligations.LocalStores : Prop :=
  StoreResult .vst 0x02 (fun x f k =>
      if k < 128 ∧ x.enabled f (k / 2) = true
      then some (BitVec.ofNat 8 (x.lane 16 f.b.val (k / 2) / 256 ^ (k % 2))) else none)
  ∧ StoreResult .sst 0x04 (fun x f k =>
      if k < 4 then some (BitVec.ofNat 8 ((x.s f.b.val).toNat / 256 ^ k)) else none)
  ∧ StoreResult .vstm 0x08 (fun x f k =>
      if k < 8 then some (BitVec.ofNat 8 ((x.mr f.b.val).toNat / 256 ^ k)) else none)

/-- A branch to `target` goes where the code allows it: inside the code, and into no loop body from outside (R171). -/
def Sys2Proof.MayBranch (x : Nib) (p : Prog) (target : Int) : Prop :=
  0 ≤ target ∧ target < p.words ∧ p.intoBody x.pc target.toNat = false

/-- NOP, BR.cc and LOOP: where the nib stands afterwards; no register and no byte of the local store changes (R170,
R171). The loop stack as the end of a body finds it: away from a body's end the nib goes to the next word; at its end
an iteration that is left starts again at the body's first word, and the last one closes the loop (R170, R171).
Completes (exec answers a next state): NIB_NOP, BR_CC, LOOP. -/
def Obligations.ControlInstructions : Prop :=
  (∀ (s : State) (n : Fin 96) (f : NibF) (p : Prog), AtWord s.dev n 0x0 0x00 f p → StaysInCode (s.dev.nib n) p →
      Completes (.nibNop n f) s s.dev n (fun x _ => x) (fun _ => True))
  ∧ (∀ (s : State) (n : Fin 96) (cc : BrCond) (f : NibF) (p : Prog), AtWord s.dev n 0x0 cc.op f p →
      cc.holds ((s.dev.nib n).s f.a.val) ((s.dev.nib n).s f.b.val) = false → StaysInCode (s.dev.nib n) p →
      Completes (.brCc n cc f) s s.dev n (fun x _ => x) (fun _ => True))
  ∧ (∀ (s : State) (n : Fin 96) (cc : BrCond) (f : NibF) (p : Prog), AtWord s.dev n 0x0 cc.op f p →
      cc.holds ((s.dev.nib n).s f.a.val) ((s.dev.nib n).s f.b.val) = true →
      MayBranch (s.dev.nib n) p ((s.dev.nib n).pc + f.imm.toInt) →
      ∃ y, exec (.brCc n cc f) s = .next { s with dev := s.dev.setNib n y }
        ∧ y = (s.dev.nib n).moved y s.dev.now
        ∧ (y.pc : Int) = (s.dev.nib n).pc + f.imm.toInt
        ∧ y.loops = (s.dev.nib n).loops.dropWhile (fun l => !(decide (l.first ≤ y.pc) && decide (y.pc ≤ l.last))))
  ∧ (∀ (s : State) (n : Fin 96) (f : NibF) (p : Prog), AtWord s.dev n 0x0 0x08 f p →
      (s.dev.nib n).loops.length < 4 → (s.dev.nib n).s f.a.val ≠ 0 →
      ∃ y, exec (.loop n f) s = .next { s with dev := s.dev.setNib n y }
        ∧ y = (s.dev.nib n).moved y s.dev.now
        ∧ y.pc = (s.dev.nib n).pc + 1
        ∧ y.loops = ⟨(s.dev.nib n).pc + 1, (s.dev.nib n).pc + 1 + f.imm.toNat % 4096, ((s.dev.nib n).s f.a.val).toNat⟩
            :: (s.dev.nib n).loops)
  ∧ (∀ (s : State) (n : Fin 96) (f : NibF) (p : Prog), AtWord s.dev n 0x0 0x08 f p →
      (s.dev.nib n).loops.length < 4 → (s.dev.nib n).s f.a.val = 0 →
      (endLoops (s.dev.nib n).loops ((s.dev.nib n).pc + 2 + f.imm.toNat % 4096)).2 < p.words →
      ∃ y, exec (.loop n f) s = .next { s with dev := s.dev.setNib n y }
        ∧ y = (s.dev.nib n).moved y s.dev.now
        ∧ (y.loops, y.pc) = endLoops (s.dev.nib n).loops ((s.dev.nib n).pc + 2 + f.imm.toNat % 4096))
  ∧ ∀ (s : State) (n : Fin 96) (f : NibF) (p : Prog), AtWord s.dev n 0x0 0x00 f p → StaysInCode (s.dev.nib n) p →
    ∃ y, exec (.nibNop n f) s = .next { s with dev := s.dev.setNib n y }
      ∧ ((s.dev.nib n).loops = [] → y.loops = [] ∧ y.pc = (s.dev.nib n).pc + 1)
      ∧ (∀ l r, (s.dev.nib n).loops = l :: r → (s.dev.nib n).pc ≠ l.last →
          y.loops = l :: r ∧ y.pc = (s.dev.nib n).pc + 1)
      ∧ (∀ l r, (s.dev.nib n).loops = l :: r → (s.dev.nib n).pc = l.last → 1 < l.left →
          y.loops = { l with left := l.left - 1 } :: r ∧ y.pc = l.first)
      ∧ (∀ l, (s.dev.nib n).loops = [l] → (s.dev.nib n).pc = l.last → l.left ≤ 1 →
          y.loops = [] ∧ y.pc = (s.dev.nib n).pc + 1)

/-- Pool loads: each byte comes from the constant region of the member of the quad that its pool address names, one
load may read from two members, and the nib's quad is otherwise left alone (R161, R170). Completes (exec answers a
next state): PVLD, PSLD. -/
def Obligations.PoolLoads : Prop :=
  ∀ (s : State) (n : Fin 96) (f : NibF) (errs : List (Nat × Bytes)) (t : Nat) (p : Prog) (wide : Bool),
    AtWord s.dev n 0x9 (if wide then 0x01 else 0x02) f p → StaysInCode (s.dev.nib n) p →
    memAddr (s.dev.nib n) f + (if wide then 128 else 4) ≤ 63488 →
    (∀ k, k < (if wide then 128 else 4) →
      s.dev.nibSt (4 * (n / 4) + (memAddr (s.dev.nib n) f + k) / 15872) ≠ E.nibState.FENCED
      ∧ (s.dev.nib (4 * (n / 4) + (memAddr (s.dev.nib n) f + k) / 15872)).poison.get false
          ((0x10000 + (memAddr (s.dev.nib n) f + k) % 15872) / 32) = false) →
    errs = [] →
    ∃ (u : Dev) (y : Nib),
      exec (if wide then .pvld n f errs t else .psld n f errs t) s = .next { s with dev := u }
      ∧ { u with nibs := s.dev.nibs } = s.dev.at' t
      ∧ u.nib n = y ∧ (∀ m, m ≠ n.val → u.nib m = s.dev.nib m)
      ∧ WentOn (s.dev.nib n) y
      ∧ y = { (s.dev.nib n).moved y (s.dev.at' t).now with v := y.v, sreg := y.sreg }
      ∧ (wide = true → y.sreg = (s.dev.nib n).sreg ∧ (∀ r, r ≠ f.dst.val → y.vr r = (s.dev.nib n).vr r)
          ∧ ∀ e, e < 64 → y.lane 16 f.dst.val e =
              if (s.dev.nib n).enabled f e = true then
                (poolByte s.dev n (memAddr (s.dev.nib n) f + 2 * e)).toNat
                  + 256 * (poolByte s.dev n (memAddr (s.dev.nib n) f + 2 * e + 1)).toNat
              else (s.dev.nib n).lane 16 f.dst.val e)
      ∧ (wide = false → y.v = (s.dev.nib n).v ∧ ∀ r, y.s r = if r = f.dst.val ∧ r ≠ 0
          then BitVec.ofNat 32 (ofLE ((List.range 4).map (fun k => poolByte s.dev n (memAddr (s.dev.nib n) f + k))))
          else (s.dev.nib n).s r)

/-- REC appends the eight scalars s[A] to s[A + 7] as one record of 32 bytes, or beyond RECORD_MAX sets REC_TRUNC
alone; WOUT keeps its edge value on the registered quad for a tile of the registered web, two at most, and elsewhere
counts it as ignored (R165, R166, R167, R174). Completes (exec answers a next state): REC, WOUT_L, WOUT_R. -/
def Obligations.RecordsAndEdges : Prop :=
  (∀ (s : State) (n : Fin 96) (f : NibF) (p : Prog), AtWord s.dev n 0xA 0x01 f p → StaysInCode (s.dev.nib n) p →
      Completes (.recEmit n f) s s.dev n (fun x y => { x with recs := y.recs, status := y.status })
        (fun y =>
          ((s.dev.nib n).recs.length < p.recordMax →
            y.status = (s.dev.nib n).status
            ∧ y.recs = (s.dev.nib n).recs
                ++ [((List.range 8).map (fun k => le 4 ((s.dev.nib n).s (f.a.val + k)).toNat)).flatten])
          ∧ (p.recordMax ≤ (s.dev.nib n).recs.length →
            y.recs = (s.dev.nib n).recs ∧ y.status = setBit (s.dev.nib n).status stRecTrunc)))
  ∧ (∀ (s : State) (n : Fin 96) (f : NibF) (p : Prog) (left : Bool) (T : Tile),
      AtWord s.dev n 0xA (if left then 0x02 else 0x03) f p → StaysInCode (s.dev.nib n) p →
      (s.dev.nib n).cur.bind s.dev.tile = some T →
      Completes (if left then .woutL n f else .woutR n f) s
        (if s.dev.inRegQuad n && s.dev.isRegSeq T.q then s.dev else s.dev.bump P.nibWoutIgnored n 1) n
        (fun x y => { x with wouts := y.wouts, status := y.status })
        (fun y =>
          if (s.dev.inRegQuad n && s.dev.isRegSeq T.q) = true then
            ((s.dev.nib n).wouts.length < 2 →
              y.status = (s.dev.nib n).status
              ∧ y.wouts = (s.dev.nib n).wouts ++ [(left, ((s.dev.nib n).s f.a.val).toInt)])
            ∧ (2 ≤ (s.dev.nib n).wouts.length →
              y.wouts = (s.dev.nib n).wouts ∧ y.status = setBit (s.dev.nib n).status stWoutExtra)
          else y.wouts = (s.dev.nib n).wouts ∧ y.status = (s.dev.nib n).status))

/-- TDONE hands the tile over: its image is the bytes of the result region, its records, edge values and status word
are the nib's; the nib is IDLE, runs nothing, and `nib.tiles_done` counts it (R165, R174, R185). Completes (exec
answers a next state): TDONE. -/
def Obligations.TileEnd : Prop :=
  ∀ (s : State) (n : Fin 96) (f : NibF) (t : Nat) (p : Prog) (no : Nat) (T : Tile),
    AtWord s.dev n 0xA 0x04 f p → (s.dev.nib n).cur = some no → s.dev.tile no = some T →
    ((s.dev.nib n).s f.a.val).toNat ≤ (s.dev.nib n).imageMax →
    (∀ w, (s.dev.nib n).poison.get false w = false) →
    ∃ u : Dev, exec (.tdone n f t) s = .next { s with dev := u }
      ∧ u.tile no = some { T with
          st := .done
          result := some ⟨outDone,
            (List.range ((s.dev.nib n).s f.a.val).toNat).map (fun k => (s.dev.nib n).byteAt (0x54000 + k)),
            (s.dev.nib n).recs, (s.dev.nib n).wouts, (s.dev.nib n).status⟩
          since := Nat.max s.dev.now t }
      ∧ u.nibSt n = E.nibState.IDLE
      ∧ (u.nib n).running = false ∧ (u.nib n).cur ≠ some no
      ∧ u.pv P.nibTilesDone n = countTo P.nibTilesDone (s.dev.pv P.nibTilesDone n + 1)
      ∧ ∀ m, m ≠ n.val → u.nib m = s.dev.nib m

/-- Faults that any sound nib repeats: a load or store of a byte not open to the program, a TDONE longer than
IMAGE_MAX and a branch out of the code raise ACCESS; a fifth loop and a branch into a body from outside raise STACK;
an instruction beyond the budget raises BUDGET. The tile commits in turn with that outcome (R160, R165, R171, R186,
R200). -/
def Obligations.NibFaults : Prop :=
  (∀ (s : State) (n : Fin 96) (f : NibF) (errs : List (Nat × Bytes)) (t : Nat) (p : Prog) (no op len : Nat) (i : Instr),
      (i, op, len) ∈ [(Instr.vld n f errs t, 0x01, 128), (.sld n f errs t, 0x03, 4), (.sldh n f errs t, 0x05, 2),
        (.sldhu n f errs t, 0x06, 2), (.vldm n f errs t, 0x07, 8)] →
      AtWord s.dev n 0x8 op f p → (s.dev.nib n).cur = some no →
      (∃ k, k < len ∧ (s.dev.nib n).loadable (memAddr (s.dev.nib n) f + k) = false) →
      EndsTile i s (s.dev.at' t) n no outAccess E.nibLastFault.ACCESS)
  ∧ (∀ (s : State) (n : Fin 96) (f : NibF) (p : Prog) (no op len : Nat) (i : Instr),
      (i, op, len) ∈ [(Instr.sst n f, 0x04, 4), (.vstm n f, 0x08, 8)] →
      AtWord s.dev n 0x8 op f p → (s.dev.nib n).cur = some no →
      (∃ k, k < len ∧ (s.dev.nib n).storable (memAddr (s.dev.nib n) f + k) = false) →
      EndsTile i s s.dev n no outAccess E.nibLastFault.ACCESS)
  ∧ (∀ (s : State) (n : Fin 96) (f : NibF) (p : Prog) (no : Nat), AtWord s.dev n 0x8 0x02 f p → (s.dev.nib n).cur = some no →
      (∃ k, k < 128 ∧ (s.dev.nib n).enabled f (k / 2) = true
        ∧ (s.dev.nib n).storable (memAddr (s.dev.nib n) f + k) = false) →
      EndsTile (.vst n f) s s.dev n no outAccess E.nibLastFault.ACCESS)
  ∧ (∀ (s : State) (n : Fin 96) (f : NibF) (t : Nat) (p : Prog) (no : Nat), AtWord s.dev n 0xA 0x04 f p →
      (s.dev.nib n).cur = some no → (s.dev.nib n).imageMax < ((s.dev.nib n).s f.a.val).toNat →
      EndsTile (.tdone n f t) s (s.dev.at' t) n no outAccess E.nibLastFault.ACCESS)
  ∧ (∀ (s : State) (n : Fin 96) (cc : BrCond) (f : NibF) (p : Prog) (no : Nat), AtWord s.dev n 0x0 cc.op f p →
      (s.dev.nib n).cur = some no → cc.holds ((s.dev.nib n).s f.a.val) ((s.dev.nib n).s f.b.val) = true →
      ((s.dev.nib n).pc + f.imm.toInt < 0 ∨ p.words ≤ (s.dev.nib n).pc + f.imm.toInt) →
      EndsTile (.brCc n cc f) s s.dev n no outAccess E.nibLastFault.ACCESS)
  ∧ (∀ (s : State) (n : Fin 96) (cc : BrCond) (f : NibF) (p : Prog) (no : Nat), AtWord s.dev n 0x0 cc.op f p →
      (s.dev.nib n).cur = some no → cc.holds ((s.dev.nib n).s f.a.val) ((s.dev.nib n).s f.b.val) = true →
      0 ≤ (s.dev.nib n).pc + f.imm.toInt → (s.dev.nib n).pc + f.imm.toInt < p.words →
      p.intoBody (s.dev.nib n).pc ((s.dev.nib n).pc + f.imm.toInt).toNat = true →
      EndsTile (.brCc n cc f) s s.dev n no outStack E.nibLastFault.STACK)
  ∧ (∀ (s : State) (n : Fin 96) (f : NibF) (p : Prog) (no : Nat), AtWord s.dev n 0x0 0x08 f p →
      (s.dev.nib n).cur = some no → 4 ≤ (s.dev.nib n).loops.length →
      EndsTile (.loop n f) s s.dev n no outStack E.nibLastFault.STACK)
  ∧ (∀ (s : State) (n : Fin 96) (f : NibF) (p : Prog) (no cls op : Nat) (i : Instr), nibOp i = some (n, cls, op, f) →
      (∀ errs t, i ≠ .vld n f errs t ∧ i ≠ .sld n f errs t ∧ i ≠ .sldh n f errs t ∧ i ≠ .sldhu n f errs t
        ∧ i ≠ .vldm n f errs t ∧ i ≠ .pvld n f errs t ∧ i ≠ .psld n f errs t ∧ i ≠ .tdone n f t) →
      s.dev.nibReady n = true → (s.dev.nib n).prog = some p → (s.dev.nib n).pc < p.words →
      (s.dev.nib n).poison.get false ((128 + 8 * (s.dev.nib n).pc) / 32) = false →
      p.word (s.dev.nib n).pc = nibWord cls op f → (s.dev.nib n).cur = some no →
      s.dev.budgetOf (s.dev.nib n) p ≤ (s.dev.nib n).icount →
      EndsTile i s s.dev n no outBudget E.nibLastFault.BUDGET)

/-- The word of every well-formed nib instruction decodes to that instruction, with every operand, and every 64-bit
word that decodes is the word of what it decodes to (R168, R170). -/
def Obligations.NibWordRoundTrip : Prop :=
  (∀ (n : Fin 96) (f : NibF) (t cls op : Nat) (i : Instr), opInstr cls op n f t = some i → i.wf = true →
      encodeNib i = some (nibWord cls op f) ∧ decodeNib n t (nibWord cls op f) = some i)
  ∧ (∀ (n : Fin 96) (t w : Nat) (i : Instr), w < 2 ^ 64 → decodeNib n t w = some i → encodeNib i = some w)
  ∧ (∀ (i : Instr) (n : Fin 96) (cls op : Nat) (f : NibF), nibOp i = some (n, cls, op, f) →
      ∃ j t, opInstr cls op n f t = some j ∧ nibOp j = some (n, cls, op, f))

/-- The container check accepts exactly the words of well-formed instructions, pool loads only with POOL_SPLIT (R169,
R177). -/
def Obligations.LoaderAcceptsWellFormed : Prop :=
  ∀ (split : Bool) (n : Fin 96) (t w : Nat), w < 2 ^ 64 →
    (wordOk split w = true ↔ (∃ i, decodeNib n t w = some i) ∧ (bits w 60 4 = 9 → split = true))

/-- A command that spells another word than the one the nib's code holds there, or that meets a nib that does not run,
leaves the device as it is (the model's choice, entry 20). -/
def Obligations.OtherWordsDoNothing : Prop :=
  ∀ (s : State) (n : Fin 96) (f : NibF) (p : Prog) (cls op : Nat) (i : Instr), nibOp i = some (n, cls, op, f) →
    (∀ errs t, i ≠ .vld n f errs t ∧ i ≠ .sld n f errs t ∧ i ≠ .sldh n f errs t ∧ i ≠ .sldhu n f errs t
      ∧ i ≠ .vldm n f errs t ∧ i ≠ .pvld n f errs t ∧ i ≠ .psld n f errs t ∧ i ≠ .tdone n f t) →
    (s.dev.nibReady n = false ∨
      ((s.dev.nib n).prog = some p ∧ (s.dev.nib n).pc < p.words
        ∧ (s.dev.nib n).poison.get false ((128 + 8 * (s.dev.nib n).pc) / 32) = false
        ∧ p.word (s.dev.nib n).pc ≠ nibWord cls op f)) →
    exec i s = .next s

/-- A read of a register returns its present value; a 4-byte read of a 64-bit register's lower half latches the upper
half, and the read of the upper half that follows returns what was latched; an aligned 8-byte read returns both
halves; any other access reads zero (R5, R273). A second read of an upper half gives its present value, which is the
model's choice (entry 15). REGISTER_WRITE: a 1 written to a cause bit clears it and a 0 leaves it; a write of a vector
register names the source's vector; a write of an identification register is ignored (R2, R276, R277). Completes (exec
answers a next state): REGISTER_WRITE, LOW_HALF_READ. -/
def Obligations.RegisterAccesses : Prop :=
  (∀ (s : State) (fn : Fn) (off : Nat), s.dev.pcieOff = false →
    (off % 4 = 0 →
      (wideReg fn off = true → Gives (.lowHalfRead (fn, .b0, off) 4) s (fun u =>
        u = { s.dev with
          latch := s.dev.latch.set none (latchKey fn (off + 4)) (some (s.dev.regWord fn (off + 4)))
          out := .readData (s.dev.regWord fn off) :: s.dev.out }))
      ∧ (∀ v, wideReg fn off = false → s.dev.latch.get none (latchKey fn off) = some v →
        Gives (.lowHalfRead (fn, .b0, off) 4) s (fun u =>
          u = { s.dev with latch := s.dev.latch.set none (latchKey fn off) none, out := .readData v :: s.dev.out }))
      ∧ (wideReg fn off = false → s.dev.latch.get none (latchKey fn off) = none →
        Gives (.lowHalfRead (fn, .b0, off) 4) s (fun u => u = s.dev.emit (.readData (s.dev.regWord fn off)))))
    ∧ (off % 8 = 0 → Gives (.lowHalfRead (fn, .b0, off) 8) s (fun u =>
        u = s.dev.emit (.readData (s.dev.regWord fn off + 2 ^ 32 * s.dev.regWord fn (off + 4)))))
    ∧ ∀ bar size, ¬(size = 8 ∧ off % 8 = 0) → ¬(size = 4 ∧ off % 4 = 0) →
        Gives (.lowHalfRead (fn, bar, off) size) s (fun u => u = s.dev.emit (.readData 0)))
  ∧ ∀ (s : State) (off v t : Nat), s.dev.pcieOff = false → off % 4 = 0 → v < 2 ^ 32 →
    (s.dev.inP E.pwrState.P3 = false → ∀ b n, intWord0 off = some (b, n) → Gives (.registerWrite .pf0 (.b0, off) 4 v t) s (fun u =>
      u = { s.dev.at' t with int0 := u.int0 } ∧ ∀ src, u.int0.get false src =
        (s.dev.int0.get false src && !(decide (b ≤ src) && decide (src < b + n) && bit v (src - b)))))
    ∧ (∀ b n, intWord1 off = some (b, n) → Gives (.registerWrite .pf1 (.b0, off) 4 v t) s (fun u =>
      u = { s.dev.at' t with int1 := u.int1 } ∧ ∀ src, u.int1.get false src =
        (s.dev.int1.get false src && !(decide (b ≤ src) && decide (src < b + n) && bit v (src - b)))))
    ∧ (s.dev.inP E.pwrState.P3 = false → ∀ src, src ≤ 304 → off = 0x1100 + 4 * src →
      Gives (.registerWrite .pf0 (.b0, off) 4 v t) s (fun u =>
        u = { s.dev.at' t with intMap := u.intMap }
        ∧ ∀ j, u.vectorOf j = if j = src then v % 256 else s.dev.vectorOf j))
    ∧ (s.dev.inP E.pwrState.P3 = false → off < 0x24 → ∀ fn, Gives (.registerWrite fn (.b0, off) 4 v t) s (fun u => u = s.dev.at' t))
    ∧ (s.dev.inP E.pwrState.P3 = true → Gives (.registerWrite .pf0 (.b0, off) 4 v t) s (fun u =>
        u = { s.dev.at' t with rst := { s.dev.rst with heldWrites := s.dev.rst.heldWrites ++ [(.b0, off, 4, v)] } }))

/-- W1C_CLEAR: of each cause bit that the write names, the bits written 1 clear, and those that the device sets in the
same instant stand; the same for a W1C parameter without a rule of its own (R2, R3). RC_READ: the read returns the
count, which starts anew from what the device adds in the same instant (R4, R439). Completes (exec answers a next
state): W1C_CLEAR, RC_READ. -/
def Obligations.CausesAndCounts : Prop :=
  (∀ (s : State) (off mask dev b n : Nat), s.dev.pcieOff = false → off % 4 = 0 → intWord0 off = some (b, n) →
    Gives (.w1cClear (.bar .pf0 off) mask dev) s (fun u =>
      (∀ i, i < (if wideReg .pf0 off then 64 else n) →
        u.int0.get false (b + i) = (bit dev i || (s.dev.int0.get false (b + i) && !bit mask i)))
      ∧ (∀ src, (src < b ∨ b + (if wideReg .pf0 off then 64 else n) ≤ src) →
        u.int0.get false src = s.dev.int0.get false src)
      ∧ u = { s.dev with int0 := u.int0, out := u.out, quill := { s.dev.quill with pend0 := u.quill.pend0 } }))
  ∧ (∀ (s : State) (path : Path) (id inst mask dev : Nat) (r : PRow), paramRow id = some r → r.acc = .w1c →
      inst < r.inst → mayWrite path id inst = true → id ≠ P.posAxisEvents →
      Gives (.w1cClear (.param path id inst) mask dev) s (fun u =>
        u.pv id inst = (andNot (s.dev.pv id inst) mask ||| dev % 256)
        ∧ (∀ j, j ≠ pkey id inst 0 → u.pk j = s.dev.pk j) ∧ u = { s.dev with frc := u.frc }))
  ∧ ∀ (s : State) (path : Path) (id inst add : Nat) (r : PRow), paramRow id = some r → r.acc = .rc → inst < r.inst →
    mayRead path id = true →
    Gives (.rcRead path id inst add) s (fun u =>
      u.out = .readData (s.dev.readParam id inst 0) :: s.dev.out
      ∧ u.pv id inst = countTo id add
      ∧ (∀ j, j ≠ pkey id inst 0 → u.pk j = s.dev.pk j)
      ∧ u = { s.dev with frc := u.frc, out := u.out, alm := { s.dev.alm with fresh := u.alm.fresh } })

/-- The mailbox that request window `m` of a function belongs to (R274, R275, R316). -/
def Sys2Proof.windowOf (fn : Fn) (m : Nat) : Nat := match fn with | .pf0 => m | .pf1 => 16 + m

/-- MAILBOX_REQ_WRITE: a write of an idle or finished mailbox's window changes exactly its bytes; while the mailbox is
QUEUED or RUNNING it is discarded and counted (R273, R316). Completes (exec answers a next state): MAILBOX_REQ_WRITE.
-/
def Obligations.RequestWindow : Prop :=
  ∀ (s : State) (fn : Fn) (m : Fin 16) (off : Nat) (data : Bytes), s.dev.pcieOff = false → s.dev.inP E.pwrState.P3 = false →
    (fn = .pf1 → m.val < 4) → data.length ∈ [1, 2, 4, 8, 16, 32, 64] → off % data.length = 0 → off < 256 →
    ((s.dev.mb (windowOf fn m)).st ≠ .queued → (s.dev.mb (windowOf fn m)).st ≠ .running →
      Gives (.mailboxReqWrite fn m off data) s (fun u =>
        u = s.dev.setMb (windowOf fn m) { s.dev.mb (windowOf fn m) with req := (u.mb (windowOf fn m)).req }
        ∧ ∀ a, (u.mb (windowOf fn m)).req.rd a =
            if off ≤ a ∧ a < off + data.length then data.getD (a - off) 0 else (s.dev.mb (windowOf fn m)).req.rd a))
    ∧ ((s.dev.mb (windowOf fn m)).st = .queued ∨ (s.dev.mb (windowOf fn m)).st = .running →
      Gives (.mailboxReqWrite fn m off data) s (fun u => u = s.dev.bump P.ctlMbBusyCount (windowOf fn m) 1))

/-- The request that stands in the window of mailbox `m`. -/
def Sys2Proof.windowReq (d : Dev) (m : Nat) : Req := parseReq m ((d.mb m).req.read 0 256)

/-- Whether the header rules accept a request: HEADER fields, a defined opcode, its path, its length (R318, R319, R324). -/
def Sys2Proof.headerOk (r : Req) : Bool :=
  decide (r.len ≤ 240) && r.rsv == 0 && decide (r.flags ≤ 1) && opPath r.op r.path == some true && opLen r.op r.len r.pay

/-- MBM_DOORBELL with READY: an accepted request is copied, its response cleared, and waits QUEUED with its timeout;
one that breaks a header rule ends at once with that rule's status; a doorbell while a command waits or runs is
counted and changes nothing; without READY it is ignored (R316, R317, R318, R319, R321, R324). Completes (exec answers
a next state): MBM_DOORBELL. -/
def Obligations.Doorbells : Prop :=
  ∀ (s : State) (fn : Fn) (m : Fin 16) (t : Nat), s.dev.pcieOff = false → s.dev.inP E.pwrState.P3 = false →
    (fn = .pf1 → m.val < 4) → s.dev.rst.loader = false →
    (s.dev.rst.ready = false → Gives (.mbmDoorbell fn m t) s (fun u => u = s.dev.at' t))
    ∧ (s.dev.rst.ready = true →
      ((s.dev.mb (windowOf fn m)).st = .queued ∨ (s.dev.mb (windowOf fn m)).st = .running) →
      Gives (.mbmDoorbell fn m t) s (fun u => u = (s.dev.at' t).bump P.ctlMbBusyCount (windowOf fn m) 1))
    ∧ (s.dev.rst.ready = true →
      (s.dev.mb (windowOf fn m)).st ≠ .queued → (s.dev.mb (windowOf fn m)).st ≠ .running →
      (headerOk (windowReq s.dev (windowOf fn m)) = true →
        Gives (.mbmDoorbell fn m t) s (fun u =>
          u.mb (windowOf fn m) = { s.dev.mb (windowOf fn m) with
            snap := (s.dev.mb (windowOf fn m)).req, rsp := .empty, st := .queued, effect := false, code := 0
            tag := (windowReq s.dev (windowOf fn m)).tag
            deadline := (s.dev.at' t).deadlineOf (windowReq s.dev (windowOf fn m))
            wait := .none, order := s.dev.doorbells + 1 }
          ∧ (∀ j, j ≠ windowOf fn m → u.mb j = s.dev.mb j)
          ∧ u = { s.dev.at' t with mbs := u.mbs, frc := u.frc, doorbells := s.dev.doorbells + 1 }
          ∧ u.pv P.ctlCmdCount (windowOf fn m) = countTo P.ctlCmdCount (s.dev.pv P.ctlCmdCount (windowOf fn m) + 1)))
      ∧ (headerOk (windowReq s.dev (windowOf fn m)) = false →
        Gives (.mbmDoorbell fn m t) s (fun u =>
          Ended u (windowOf fn m) (windowReq s.dev (windowOf fn m))
            (if 240 < (windowReq s.dev (windowOf fn m)).len ∨ (windowReq s.dev (windowOf fn m)).rsv ≠ 0
                ∨ 1 < (windowReq s.dev (windowOf fn m)).flags then C.badHeader
             else match opPath (windowReq s.dev (windowOf fn m)).op (windowReq s.dev (windowOf fn m)).path with
              | none => C.badOpcode
              | some false => C.denied
              | some true => C.badHeader)
            false [] 0 0)))

/-- USB_REQUEST: on an attached service port that runs nothing, the 256 bytes become mailbox 20's window and ring it:
an accepted request waits QUEUED (R380, R397). MAILBOX_TIMEOUT: a command still QUEUED or RUNNING when its time is up
answers TIMEOUT; one that has committed keeps its effect and what it waits for, one that has not is cancelled (R321).
Completes (exec answers a next state): USB_REQUEST, MAILBOX_TIMEOUT. -/
def Obligations.UsbAndTimeouts : Prop :=
  (∀ (s : State) (data : Bytes) (t : Nat), data.length = 257 → s.dev.rst.attached = true → s.dev.rst.dfu = false →
    s.dev.rst.coldPending = false →
    (s.dev.mb 20).st ≠ .queued → (s.dev.mb 20).st ≠ .running →
    headerOk (parseReq 20 ((Mem.ofBytes (data.take 256)).read 0 256)) = true →
    Gives (.usbRequest data t) s (fun u =>
      (u.mb 20).st = .queued ∧ (u.mb 20).snap = Mem.ofBytes (data.take 256)
      ∧ (u.mb 20).request 20 = parseReq 20 ((Mem.ofBytes (data.take 256)).read 0 256)
      ∧ (∀ j, j ≠ 20 → u.mb j = s.dev.mb j)
      ∧ u = { s.dev.at' t with mbs := u.mbs, doorbells := s.dev.doorbells + 1 }))
  ∧ ∀ (s : State) (m : Fin 21) (t due : Nat), (s.dev.mb m).deadline = some due → due ≤ Nat.max s.dev.now t →
    ((s.dev.mb m).st = .queued ∨ (s.dev.mb m).st = .running) →
    Gives (.mailboxTimeout m t) s (fun u =>
      u.mb m = { s.dev.mb m with
        rsp := Mem.ofBytes (rspHeader ((s.dev.mb m).request m) 0 0 C.timeout 0), st := .timeout, code := C.timeout
        deadline := none, wait := if (s.dev.mb m).effect then (s.dev.mb m).wait else .none }
      ∧ (∀ j, j ≠ m.val → u.mb j = s.dev.mb j)
      ∧ (m.val < 20 → u.pv P.ctlTimeoutCount m = countTo P.ctlTimeoutCount (s.dev.pv P.ctlTimeoutCount m + 1)))

/-- Each final status signals: PF0's mailbox m sets interrupt source 128 + m, PF1's mailbox 16 + m sets cause m, and
the service port gets the response and the status (R316, R397). Stated of NOP, which does nothing else (R325). TB_GET
answers TB in ns; PARAM_INFO the description of a defined parameter, and BAD_PARAM for another; neither changes
anything else (R10, R325). Completes (exec answers a next state): NOP, TB_GET, PARAM_INFO. -/
def Obligations.Queries : Prop :=
  (∀ (s : State) (m : Fin 21) (r : Req), MayRun s.dev m 0x0001 r →
    Gives (.nop m) s (fun u =>
      Ended u m r C.ok false [] 0 0 ∧ OnlyAnswers s.dev u m
      ∧ (m.val < 16 → u.int0.get false (128 + m) = true)
      ∧ (16 ≤ m.val → m.val < 20 → u.int1.get false (m - 16) = true)
      ∧ (m.val = 20 → ∃ b, Output.usb b ∈ u.out ∧ b = (u.mb 20).rsp.read 0 256 ++ le 4 (mbStatus (u.mb 20)))))
  ∧ (∀ (s : State) (m : Fin 21) (t : Nat) (r : Req), MayRun s.dev m 0x0002 r →
    Gives (.tbGet m t) s (fun u =>
      Ended u m r C.ok false (le 8 ((((Nat.max s.dev.now t : Nat) : Int) + s.dev.tbOff).toNat / 1000)) 0 0
      ∧ OnlyAnswers (s.dev.at' t) u m))
  ∧ (∀ (s : State) (m : Fin 21) (r : Req) (row : PRow), MayRun s.dev m 0x0012 r → paramRow (fld r.pay 0 2) = some row →
    Gives (.paramInfo m) s (fun u => Ended u m r C.ok false row.info 0 0 ∧ OnlyAnswers s.dev u m))
  ∧ (∀ (s : State) (m : Fin 21) (r : Req), MayRun s.dev m 0x0012 r → paramRow (fld r.pay 0 2) = none →
    Gives (.paramInfo m) s (fun u => Ended u m r C.badParam false [] 0 0 ∧ OnlyAnswers s.dev u m))

/-- PARAM_GET answers its entries in order with their values, in the response or to host memory; a first entry that
fails a check gives its status and its index in DETAIL, and nothing is read (R320, R328, R329, R330). Completes (exec
answers a next state): PARAM_GET. -/
def Obligations.ParamGets : Prop :=
  ∀ (s : State) (m : Fin 21) (host : Option Bytes) (t : Nat) (r : Req) (p : Preface) (es : List Entry),
    MayRun s.dev m 0x0010 r → parsePreface r false = some p → p.entries r.pay host = some es →
    (firstBad es (entryCode r.path false) = none →
      (∀ e ∈ es, ∀ row, paramRow e.id = some row → row.acc ≠ .rc) →
      (p.host = false → Gives (.paramGet m host t) s (fun u =>
        Ended u m r C.ok false
          ((es.map (fun e => ({ e with value := (s.dev.at' t).readParam e.id e.inst e.word } : Entry).bytes)).flatten) 0 0
        ∧ OnlyAnswers (s.dev.at' t) u m))
      ∧ (p.host = true → Gives (.paramGet m host t) s (fun u =>
        Ended u m r C.ok false [] 0 0 ∧ OnlyAnswers (s.dev.at' t) u m
        ∧ ∀ i e, es[i]? = some e →
            Output.hostWrite (p.addr + 16 * i + 8) (le 8 ((s.dev.at' t).readParam e.id e.inst e.word)) false ∈ u.out)))
    ∧ (∀ i c, firstBad es (entryCode r.path false) = some (i, c) → Gives (.paramGet m host t) s (fun u =>
        Ended u m r c false [] i 0 ∧ OnlyAnswers (s.dev.at' t) u m))

/-- PARAM_SET is all or nothing: a batch that some check refuses changes no parameter and answers that entry's status
with its index in DETAIL; a batch that none refuses answers OK with its effect in place (R320, R330). PARAM_SET of one
timing parameter in one inline entry, with a value of its range: the value is in force and reads back, and no other
parameter has changed (R328, R330). Completes (exec answers a next state): PARAM_SET. -/
def Obligations.ParamSets : Prop :=
  (∀ (s : State) (m : Fin 21) (host : Option Bytes) (t : Nat) (r : Req) (p : Preface) (es : List Entry),
    MayRun s.dev m 0x0011 r → parsePreface r true = some p → p.entries r.pay host = some es →
    (∀ i c, ((s.dev.at' t).setBatch r.path p.frame es).2 = some (i, c) → Gives (.paramSet m host t) s (fun u =>
        Ended u m r c false [] i 0 ∧ OnlyAnswers (s.dev.at' t) u m))
    ∧ (((s.dev.at' t).setBatch r.path p.frame es).2 = none → Gives (.paramSet m host t) s (fun u =>
        u = ((s.dev.at' t).setBatch r.path p.frame es).1.finish m C.ok 0 0 true [])))
  ∧ ∀ (s : State) (m : Fin 21) (t id v : Nat) (r : Req) (row : PRow),
    id ∈ [P.modeQuietParkUs, P.ctlTimeoutDefaultUs, P.nibHangUs, P.nibFaultWindowMs, P.ephTileTimeoutUs] →
    paramRow id = some row → row.accepts v = true → v < 2 ^ 64 → r.path = .pf0 →
    MayRun s.dev m 0x0011 r → parsePreface r true = some ⟨none, false, 1, 0⟩ →
    entriesAt r.pay 16 1 = [⟨id, 0, 0, 0, v⟩] →
    (∀ k, (s.dev.slot k).pending = none) → s.dev.calKeys.length ≤ 252 → 0 ≤ s.dev.memFree →
    Gives (.paramSet m none t) s (fun u =>
      Ended u m r C.ok true [] 0 0
      ∧ u.pv id 0 = v ∧ u.readParam id 0 0 = v
      ∧ ∀ k, k ≠ pkey id 0 0 → u.pk k = s.dev.pk k ∧ u.ak k = s.dev.ak k)

/-- The lanes of lane `l`'s link on `d` (R15). -/
def Sys2Proof.linkOf (d : Dev) (l : Nat) : List Nat := d.linkLanes (d.linkBase l)

/-- A training frame with a good control field, seen in TX_TRAIN: the partner's precoding and its request for the own
transmitter's taps are taken, the lane counts it and answers with one frame; once every lane of the link has 16 in a row
the link enters EQ. The inverse of the precoding starts anew (R96, R100, R101, R102). -/
def Sys2Proof.trained (d : Dev) (l : Nat) (field : Nat) : Dev :=
  ((d.setP P.lanePrecodeTx l (bits field 49 1)).setLane l
    { ({ d.lane l with rx := { (d.lane l).rx with last := 0 } } : Lane).coef (bits field 54 6) with
      good := (d.lane l).good + 1 }).sendFrames l 1

/-- TRAINING_FRAME in TX_TRAIN, and from an ABSENT lane's partner (R101, R102, R105). Completes (exec answers a next
state): TRAINING_FRAME. -/
def Obligations.TrainingFrames : Prop :=
  ∀ (s : State) (l : Fin 32) (frame : List (Fin 4)) (t : Nat), s.dev.pv P.laneMode l = E.laneMode.LINK →
    s.dev.tileUnlocked l = false → s.dev.loopOf (s.dev.linkBase l) = E.laneLoop.NONE →
    (∀ field, frameField (frame.map Fin.val) = some field → fieldCrcOk field = true →
      (s.dev.pv P.laneState l = E.laneState.ABSENT →
        Gives (.trainingFrame l frame t) s (fun u => u = (s.dev.at' t).attempt (s.dev.linkBase l) 1))
      ∧ (s.dev.pv P.laneState l ≠ E.laneState.ABSENT → (s.dev.lane l).phase = 1 →
        (s.dev.lane (s.dev.linkBase l)).phase = 1 → bits field 60 4 = 9 →
        ((∀ k ∈ linkOf s.dev l, 16 ≤ (if k = l.val then (s.dev.lane l).good + 1 else (s.dev.lane k).good)) →
          Gives (.trainingFrame l frame t) s (fun u =>
            u = (trained (s.dev.at' t) l field).enterPhase (s.dev.linkBase l) 2))
        ∧ (l.val ∈ linkOf s.dev l →
          (∃ k ∈ linkOf s.dev l, (if k = l.val then (s.dev.lane l).good + 1 else (s.dev.lane k).good) < 16) →
          Gives (.trainingFrame l frame t) s (fun u => u = trained (s.dev.at' t) l field))))
    ∧ (s.dev.pv P.laneState l ≠ E.laneState.ABSENT → (s.dev.lane l).phase = 1 → (s.dev.lane (s.dev.linkBase l)).phase = 1 →
      (∀ field, frameField (frame.map Fin.val) = some field → fieldCrcOk field = false ∨ bits field 60 4 ≠ 9) →
      l.val ∈ linkOf s.dev l →
      Gives (.trainingFrame l frame t) s (fun u =>
        u = ((s.dev.at' t).setLane l
          { s.dev.lane l with rx := { (s.dev.lane l).rx with last := 0 }, good := 0 }).sendFrames l 1))

/-- A link that has not come up in time: every lane records the cause and backs off, or after the eighth attempt goes
ABSENT with its transmitters idle; a backoff of 2^(n-1) ms ends with attempt n + 1; an ABSENT lane probes every 250 ms
with 8 frames (R102, R103, R105). Completes (exec answers a next state): BRINGUP_TIMEOUT, BACKOFF_EXPIRE,
ABSENT_PROBE. -/
def Obligations.BringUpTimers : Prop :=
  (∀ (s : State) (l : Fin 32) (t : Nat), (s.dev.lane l).phase ∈ [1, 3, 4, 5] →
    (s.dev.lane l).since + s.dev.laneTime (s.dev.linkBase l) (phaseTimeout (s.dev.lane l).phase) ≤ Nat.max s.dev.now t →
    Gives (.bringupTimeout l t) s (fun u =>
      (∀ k ∈ linkOf s.dev l, u.pv P.laneLastFail k = E.laneLastFail.TIMEOUT ∧ (u.lane k).phase = 0
        ∧ u.pv P.laneState k = if 8 ≤ s.dev.pv P.laneAttempt (s.dev.linkBase l) then E.laneState.ABSENT else E.laneState.BACKOFF)
      ∧ (s.dev.pv P.laneAttempt (s.dev.linkBase l) < 8 → u.out = s.dev.out)
      ∧ (8 ≤ s.dev.pv P.laneAttempt (s.dev.linkBase l) → ∀ k ∈ linkOf s.dev l, Output.elecIdle k ∈ u.out)))
  ∧ (∀ (s : State) (l : Fin 32) (t : Nat), s.dev.pv P.laneState l = E.laneState.BACKOFF →
    (s.dev.lane l).since + s.dev.laneTime (s.dev.linkBase l) (ms (2 ^ (s.dev.pv P.laneAttempt (s.dev.linkBase l) - 1)))
        ≤ Nat.max s.dev.now t →
    Gives (.backoffExpire l t) s (fun u =>
      u = (s.dev.at' t).attempt (s.dev.linkBase l) (s.dev.pv P.laneAttempt (s.dev.linkBase l) + 1)
      ∧ ∀ k ∈ linkOf s.dev l, u.pv P.laneAttempt k = s.dev.pv P.laneAttempt (s.dev.linkBase l) + 1))
  ∧ (∀ (s : State) (l : Fin 32) (t : Nat), s.dev.pv P.laneState l = E.laneState.ABSENT →
    (s.dev.lane l).since + s.dev.laneTime (s.dev.linkBase l) (ms 250) ≤ Nat.max s.dev.now t →
    Gives (.absentProbe l t) s (fun u =>
      u = ((s.dev.at' t).setLane l { s.dev.lane l with since := Nat.max s.dev.now t }).sendFrames l 8
      ∧ ∃ f, u.out = .burst l 8 f :: s.dev.out))

/-- Codewords and control blocks on a lane that is UP: a codeword that decodes ends the run of bad ones, and is
counted if symbols were corrected; an uncorrectable one is counted and adds to that run; ALIGN renews the lock, given
as it comes or brought by codewords; a damaged block is counted; the fourth SLEEP block of one kind in a row puts the
down direction into low power (R94, R98, R99, R104, R109). Completes (exec answers a next state): FEC_CODEWORD, ALIGN,
SLEEP. -/
def Obligations.BlocksReceived : Prop :=
  ∀ (s : State) (l : Fin 32) (t : Nat), (s.dev.lane l).phase = 6 → (s.dev.lane (s.dev.linkBase l)).phase = 6 →
    (s.dev.pv P.laneState l ≠ E.laneState.WAIT_LOCK → s.dev.loopOf (s.dev.linkBase l) = E.laneLoop.NONE →
      ∀ msg parity : List (Fin 4), Gives (.fecCodeword l msg parity t) s (fun u =>
        (∀ rx blks n, decodeBlocks (s.dev.laneInLink l) (s.dev.lane l).rxPre (s.dev.lane l).rx ((msg ++ parity).map Fin.val)
            = (rx, some (blks, n)) →
          (u.lane l).bad = 0 ∧ (u.lane l).good = (s.dev.lane l).good + 1
          ∧ u.pv P.laneFecUncorrCount l = s.dev.pv P.laneFecUncorrCount l
          ∧ u.pv P.laneFecCorrCount l = (if n = 0 then s.dev.pv P.laneFecCorrCount l
              else countTo P.laneFecCorrCount (s.dev.pv P.laneFecCorrCount l + 1)))
        ∧ (∀ rx, decodeBlocks (s.dev.laneInLink l) (s.dev.lane l).rxPre (s.dev.lane l).rx ((msg ++ parity).map Fin.val)
            = (rx, none) →
          (u.lane l).bad = (s.dev.lane l).bad + 1 ∧ (u.lane l).good = 0
          ∧ u.pv P.laneFecCorrCount l = s.dev.pv P.laneFecCorrCount l
          ∧ u.pv P.laneFecUncorrCount l = countTo P.laneFecUncorrCount (s.dev.pv P.laneFecUncorrCount l + 1))
        ∧ u = { s.dev.at' t with lanes := u.lanes, heads := u.heads, frc := u.frc, out := u.out }))
    ∧ (∀ payload, slice payload 0 4 = [0x1E, 0xE1, 0x4B, 0x96] → fld payload 30 2 = crc16 (slice payload 0 30) →
      Gives (.align l (some payload) t) s (fun u =>
        u = (s.dev.at' t).setLane l { s.dev.lane l with aligned := true, alignAt := Nat.max s.dev.now t, sleepSeen := 0 })
      ∧ ∀ rest, (s.dev.lane l).ctl = payload :: rest → Gives (.align l none t) s (fun u =>
        u.lane l = { s.dev.lane l with
          aligned := true, alignAt := Nat.max s.dev.now t, sleepSeen := 0, ctl := rest }
        ∧ u = { s.dev.at' t with lanes := u.lanes }))
    ∧ (∀ payload, fld payload 0 1 ∉ [0x00, 0x2D, 0x33, 0x66] → slice payload 0 4 ≠ [0x1E, 0xE1, 0x4B, 0x96] →
      Gives (.align l (some payload) t) s (fun u => u = (s.dev.at' t).bump P.laneCtlErrCount l 1))
    ∧ (∀ kind : BitVec 8, kind.toNat ≤ 1 → Gives (.sleep l (some kind)) s (fun u =>
        u = s.dev.setLane l { s.dev.lane l with
          sleepKind := kind.toNat
          sleepSeen := if (s.dev.lane l).sleepKind = kind.toNat then (s.dev.lane l).sleepSeen + 1 else 1
          downPower :=
            if 4 ≤ (if (s.dev.lane l).sleepKind = kind.toNat then (s.dev.lane l).sleepSeen + 1 else 1) then kind.toNat + 1
            else (s.dev.lane l).downPower }))

/-- Corrected symbols of a lane within the last ms (R106). -/
def Sys2Proof.recentCorr (d : Dev) (l : Nat) : Nat :=
  (((d.lane l).corr.filter (fun p => decide (d.now < p.2 + d.laneTime (d.linkBase l) (ms 1)))).map Prod.fst).foldl (· + ·) 0

/-- Retrains: the head's request is noted and the up direction trains 8 frames and aligns on every lane, later while a
trigger is near; drift or too many corrected symbols ask the head to retrain; its end restores UP with the new values,
or takes the link down (R106, R107, R108). Completes (exec answers a next state): RETRAIN_REQ, UP_RETRAIN_START,
EQ_DRIFT_CHECK, RETRAIN_COMPLETE. -/
def Obligations.Retrains : Prop :=
  (∀ (s : State) (l : Fin 32) (num : BitVec 8) (t : Nat), s.dev.linkUp (s.dev.linkBase l) = true →
    (s.dev.lane (s.dev.linkBase l)).upPower = 0 → (s.dev.head (s.dev.linkBase l)).upRetrain = none →
    Gives (.retrainReq l (some num) t) s (fun u =>
      u = (s.dev.at' t).setHead (s.dev.linkBase l)
        { s.dev.head (s.dev.linkBase l) with upRetrain := some (Nat.max s.dev.now t) }))
  ∧ (∀ (s : State) (h : Fin 32) (t t0 : Nat), (s.dev.head h).upRetrain = some t0 → s.dev.linkUp h = true →
    (s.dev.lane h).upPower = 0 → t0 + s.dev.laneTime h (ms 1) ≤ Nat.max s.dev.now t →
    Gives (.upRetrainStart h t) s (fun u => (u.head h).upRetrain = none
      ∧ ∀ k ∈ s.dev.linkLanes h, ∃ f b, Output.burst k 8 f ∈ u.out ∧ Output.block k b ∈ u.out))
  ∧ (∀ (s : State) (l : Fin 32) (boost : Nat) (dfe : List Nat) (t : Nat), (s.dev.lane l).phase = 6 →
    (s.dev.lane l).downPower = 0 → s.dev.pv P.laneState l ≠ E.laneState.RETRAIN →
    (s.dev.lane l).driftAt + s.dev.laneTime (s.dev.linkBase l) (ms 10) ≤ Nat.max s.dev.now t →
    (codeDrift (s.dev.lane l).saved (boost :: dfe) ≤ s.dev.pv P.laneEqDriftGuard l →
      recentCorr (s.dev.at' t) l ≤ s.dev.pv P.laneFecRetrainThresh l →
      Gives (.eqDriftCheck l boost dfe t) s (fun u =>
        u.pv P.laneEqCtleBoost l = boost % 16
        ∧ u.lane l = { s.dev.lane l with driftAt := Nat.max s.dev.now t }
        ∧ (∀ k, k ≠ l.val → u.lane k = s.dev.lane k)
        ∧ u = { s.dev.at' t with frc := u.frc, lanes := u.lanes }))
    ∧ ((s.dev.pv P.laneEqDriftGuard l < codeDrift (s.dev.lane l).saved (boost :: dfe)
        ∨ s.dev.pv P.laneFecRetrainThresh l < recentCorr (s.dev.at' t) l) →
      Gives (.eqDriftCheck l boost dfe t) s (fun u => ∀ k ∈ linkOf s.dev l,
        u.pv P.laneState k = E.laneState.RETRAIN ∧ ∃ b, Output.block k b ∈ u.out)))
  ∧ (∀ (s : State) (l : Fin 32) (values : List Nat) (t : Nat), s.dev.pv P.laneState l = E.laneState.RETRAIN →
    Gives (.retrainComplete l true values t) s (fun u =>
      u.lane l = { s.dev.lane l with saved := values } ∧ u.pv P.laneEqCtleBoost l = values.headD 0 % 16
      ∧ u.pv P.laneState l =
          (if s.dev.loopOf (s.dev.linkBase l) = E.laneLoop.NONE then E.laneState.UP else E.laneState.LOOP)
      ∧ u = { s.dev.at' t with lanes := u.lanes, frc := u.frc })
    ∧ Gives (.retrainComplete l false values t) s (fun u =>
      u = ((s.dev.at' t).bump P.laneRetrainFailCount l 1).linkFail (s.dev.linkBase l)))

/-- LINK_DOWN: an UP link whose signal is lost, that has had 64 uncorrectable codewords in a row, or whose lock is
three periods old, goes down and trains again at attempt 1 with no backoff; its head is gone (R104, R105, R121).
Completes (exec answers a next state): LINK_DOWN. -/
def Obligations.LinkDowns : Prop :=
  ∀ (s : State) (l : Fin 32) (why : DownCause) (t : Nat), s.dev.linkUp (s.dev.linkBase l) = true →
    (why = .signal → (s.dev.lane l).downPower = 0) → (why = .uncorrectable → 64 ≤ (s.dev.lane l).bad) →
    (why = .alignLoss → (s.dev.lane l).downPower = 0
      ∧ (s.dev.lane l).alignAt + 3 * s.dev.laneTime (s.dev.linkBase l) 20480000 ≤ Nat.max s.dev.now t) →
    Gives (.linkDown l why t) s (fun u => u = (s.dev.at' t).linkFail (s.dev.linkBase l)
      ∧ ∀ k ∈ ((s.dev.at' t).linkLost (s.dev.linkBase l)).linkLanes (s.dev.linkBase l),
        u.pv P.laneAttempt k = 1 ∧ u.pv P.laneLastFail k = E.laneLastFail.LOCK_LOSS)

/-- Low power and the one-way delay: an idle link's up direction sends 4 SLEEP blocks and goes EI; DELAY_PROBE carries
the next number; an echo of another number is ignored, one in UP moves `head.delay_ps` by a sixteenth (R109, R112).
Completes (exec answers a next state): EI_ENTRY, DELAY_PROBE_TIMER, DELAY_ECHO. -/
def Obligations.IdleAndDelay : Prop :=
  (∀ (s : State) (l : Fin 32) (t : Nat), s.dev.pv P.laneState (s.dev.linkBase l) = E.laneState.UP →
    s.dev.linkUp (s.dev.linkBase l) = true → s.dev.pv P.laneIdleEiUs (s.dev.linkBase l) ≠ 0 →
    (∀ st ∈ s.dev.streamsOf (s.dev.linkBase l), 
      trigExpects (s.dev.pv P.trigMode st) = false ∧ s.dev.pv P.trigMode st ≠ E.trigMode.TIME) →
    (s.dev.head (s.dev.linkBase l)).waiting = [] → (s.dev.head (s.dev.linkBase l)).upRetrain = none →
    (s.dev.head (s.dev.linkBase l)).lastUp + us (s.dev.pv P.laneIdleEiUs (s.dev.linkBase l)) ≤ Nat.max s.dev.now t →
    Gives (.eiEntry l t) s (fun u => ∀ k ∈ linkOf s.dev l,
      u.pv P.laneState k = E.laneState.EI ∧ (u.lane k).upPower = 1 ∧ Output.elecIdle k ∈ u.out
      ∧ Output.block k ([0x2D, 0] ++ List.replicate 30 0) ∈ u.out))
  ∧ (∀ (s : State) (h : Fin 32) (t : Nat), s.dev.linkUp h = true → (s.dev.lane h).upPower = 0 →
    s.dev.loopOf h = E.laneLoop.NONE → (s.dev.head h).probeAt + s.dev.laneTime h (ms 1) ≤ Nat.max s.dev.now t →
    Gives (.delayProbeTimer h t) s (fun u =>
      (u.head h).probe = some ((s.dev.head h).probeNum, Nat.max s.dev.now t)
      ∧ (u.head h).probeNum = ((s.dev.head h).probeNum + 1) % 65536 ∧ (u.head h).probeAt = Nat.max s.dev.now t
      ∧ u.out = .block h ([0x55] ++ le 2 (s.dev.head h).probeNum ++ List.replicate 29 0) :: s.dev.out
      ∧ u = { s.dev.at' t with heads := u.heads, out := u.out }))
  ∧ (∀ (s : State) (h : Fin 32) (num turn t n t0 : Nat), (s.dev.head h).probe = some (n, t0) → num < 65536 → turn < 2 ^ 32 →
    (n ≠ num → Gives (.delayEcho h (some num) turn t) s (fun u => u = s.dev.at' t))
    ∧ (n = num → (s.dev.lane h).phase = 6 → Gives (.delayEcho h (some num) turn t) s (fun u =>
      (u.head h).probe = none
      ∧ u.pv P.headDelayPs h = (((s.dev.pv P.headDelayPs h : Int) + roundTo Config.delayUp
          ((((Nat.max s.dev.now t : Nat) : Int) - t0 - turn) - 2 * (s.dev.pv P.headDelayPs h : Int)) 32).toNat) % 2 ^ 32
      ∧ u = { s.dev.at' t with heads := u.heads, frc := u.frc })))

/-- PLL_LOCK releases a held tile and starts its links, or the PCI Express link; PLL_LOCK_LOSS holds the tile in
WAIT_LOCK and takes its links down (R369, R370). Completes (exec answers a next state): PLL_LOCK, PLL_LOCK_LOSS. -/
def Obligations.PllLocks : Prop :=
  (∀ (s : State) (tile : Fin 5) (t : Nat), s.dev.rst.unlocked.get false tile = true →
    Gives (.pllLock tile t) s (fun u =>
      u.rst.unlocked.get false tile = false ∧ u.rst.waitLock.get false tile = false
      ∧ (tile.val = 4 → s.dev.rst.perstLow = false → u.out = .linkTrain :: s.dev.out)
      ∧ (tile.val = 4 → s.dev.rst.perstLow = true → u.out = s.dev.out)))
  ∧ (∀ (s : State) (tile : Fin 4) (t : Nat), s.dev.rst.unlocked.get false tile = false →
    Gives (.pllLockLoss tile t) s (fun u =>
      u = ({ s.dev.at' t with rst := { s.dev.rst with
          unlocked := s.dev.rst.unlocked.set false tile true, waitLock := s.dev.rst.waitLock.set false tile true } } : Dev).forEach
        (s.dev.linksOf tile) (fun d b => (if d.linkUp b then d.linkFail b else d.attempt b 1).idleLanes b)
      ∧ (s.dev.linksOf tile = [] → u.rst.unlocked.get false tile = true ∧ u.rst.waitLock.get false tile = true)))

/-- A packet of type `ty` that head `h` may send now: its link is up and in no loop, header and body check, and it takes the
next SEQ of its channel (R114, R115, R119, R123). -/
structure Sys2Proof.GoodPkt (d : Dev) (h ty : Nat) (pkt : Bytes) : Prop where
  heard : d.linkUp h = true
  open' : d.loopOf h = E.laneLoop.NONE
  hdr : (parsePkt pkt).hdrOk = true
  crc : (parsePkt pkt).crcOk = true
  ty : (parsePkt pkt).ty = ty
  seq : (d.head h).seqs.get none (parsePkt pkt).chan = none
    ∨ (d.head h).seqs.get none (parsePkt pkt).chan = some (parsePkt pkt).seq

/-- The head after a good packet: the SEQ that its channel expects next. -/
def Sys2Proof.seqTaken (d : Dev) (h : Nat) (pkt : Bytes) : Head :=
  { d.head h with seqs := (d.head h).seqs.set none (parsePkt pkt).chan (some (((parsePkt pkt).seq + 1) % 256)) }

/-- A packet has come on a link: SLEEP blocks before it are no longer the last (R109). -/
def Sys2Proof.awake (d : Dev) (h : Nat) : Dev := d.modLanes h (fun x => { x with sleepSeen := 0 })

/-- The device once a good packet of head `h` has been counted in. -/
def Sys2Proof.heard (d : Dev) (h : Nat) (pkt : Bytes) : Dev := (awake d h).setHead h (seqTaken d h pkt)

/-- Packets from a head: a bad header check discards, a bad CRC-32C counts; in a near-end loop the balls are ignored;
HEAD_STATUS gives temperature and faults, HEAD_INFO the eight words of `head.info`; an unknown type is counted (R114,
R115, R117, R118, R119, R123, R222). Completes (exec answers a next state): PIXEL, FRAME_START, FRAME_END, ACK,
HEAD_INFO, HEAD_STATUS, UNKNOWN_TYPE_PACKET. -/
def Obligations.HeadPackets : Prop :=
  (∀ (s : State) (h : Fin 32) (pkt : Bytes) (t : Nat), s.dev.linkUp h = true → s.dev.loopOf h = E.laneLoop.NONE →
    (parsePkt pkt).hdrOk = false →
    Gives (.headStatus h (some pkt) t) s (fun u => u = awake (s.dev.at' t) h)
    ∧ Gives (.headInfo h (some pkt) t) s (fun u => u = awake (s.dev.at' t) h)
    ∧ Gives (.ack h (some pkt) t) s (fun u => u = awake (s.dev.at' t) h)
    ∧ Gives (.pixel h (some pkt) [] t) s (fun u => u = awake (s.dev.at' t) h)
    ∧ Gives (.frameStart h (some pkt) t) s (fun u => u = awake (s.dev.at' t) h)
    ∧ Gives (.frameEnd h (some pkt) t) s (fun u => u = awake (s.dev.at' t) h))
  ∧ (∀ (s : State) (h : Fin 32) (pkt : Bytes) (t : Nat), s.dev.linkUp h = true → s.dev.loopOf h = E.laneLoop.NONE →
    (parsePkt pkt).hdrOk = true → (parsePkt pkt).crcOk = false →
    Gives (.headStatus h (some pkt) t) s (fun u => u = (awake (s.dev.at' t) h).bump P.headCrcErrCount h 1)
    ∧ Gives (.pixel h (some pkt) [] t) s (fun u => u = (awake (s.dev.at' t) h).bump P.headCrcErrCount h 1))
  ∧ (∀ (s : State) (h : Fin 32) (pkt : Bytes) (t : Nat), s.dev.linkUp h = true →
    (s.dev.loopOf h = E.laneLoop.NES ∨ s.dev.loopOf h = E.laneLoop.NEP) → (parsePkt pkt).ty ≠ 0x01 →
    Gives (.headStatus h (some pkt) t) s (fun u => u = s.dev.at' t)
    ∧ Gives (.ack h (some pkt) t) s (fun u => u = s.dev.at' t)
    ∧ Gives (.frameStart h (some pkt) t) s (fun u => u = s.dev.at' t)
    ∧ Gives (.frameEnd h (some pkt) t) s (fun u => u = s.dev.at' t))
  ∧ (∀ (s : State) (h : Fin 32) (pkt : Bytes) (t : Nat), GoodPkt s.dev h 0x42 pkt →
    Gives (.headStatus h (some pkt) t) s (fun u =>
      u.pv P.headTemp h = fld (parsePkt pkt).f 0 2 ∧ u.pv P.headFault h = fld (parsePkt pkt).f 2 2
      ∧ u.head h = { seqTaken s.dev h pkt with temp := some (ofTwos 16 (fld (parsePkt pkt).f 0 2)) }
      ∧ u = { s.dev.at' t with heads := u.heads, lanes := u.lanes, frc := u.frc }))
  ∧ (∀ (s : State) (h : Fin 32) (pkt : Bytes) (t : Nat), GoodPkt s.dev h 0x41 pkt →
    Gives (.headInfo h (some pkt) t) s (fun u =>
      (∀ i, i < 8 → u.pk (pkey P.headInfo h i) = fld (parsePkt pkt).pay (8 * i) 8) ∧ u.head h = seqTaken s.dev h pkt
      ∧ u = { s.dev.at' t with heads := u.heads, lanes := u.lanes, frc := u.frc }))
  ∧ (∀ (s : State) (h : Fin 32) (pkt : Bytes), (parsePkt pkt).ty ∉ [0x01, 0x02, 0x03, 0x40, 0x41, 0x42] →
    GoodPkt s.dev h (parsePkt pkt).ty pkt →
    Gives (.unknownTypePacket h (some pkt)) s (fun u => u = (heard s.dev h pkt).bump P.headUnknownCount h 1))

/-- ACK: the answer to an awaited message ends its command with OK and the head's value, or with LATE, BAD_VALUE or
UNSUPPORTED; a second answer to one TAG is counted; a message without an answer is sent again three times, and then
the head is faulty and the command ends with HEAD_FAULT (R121, R326). Completes (exec answers a next state): ACK,
ACK_TIMEOUT. -/
def Obligations.AwaitedMessages : Prop :=
  (∀ (s : State) (h : Fin 32) (pkt : Bytes) (t : Nat) (m : Msg), GoodPkt s.dev h 0x40 pkt →
    (s.dev.head h).waiting.find? (fun x => x.tag == fld (parsePkt pkt).f 2 2) = some m → fld (parsePkt pkt).f 1 1 ≤ 3 →
    (s.dev.mb m.mb).wait = .ack h m.tag → (s.dev.mb m.mb).st = .running → (∀ j, (s.dev.mb j).wait ≠ .slotFree h) →
    Gives (.ack h (some pkt) t) s (fun u =>
      Ended u m.mb ((s.dev.mb m.mb).request m.mb)
        (if fld (parsePkt pkt).f 1 1 = 0 then C.ok else if fld (parsePkt pkt).f 1 1 = 1 then C.late
         else if fld (parsePkt pkt).f 1 1 = 2 then C.badValue else C.unsupported)
        (decide (fld (parsePkt pkt).f 1 1 = 0) && (s.dev.mb m.mb).effect) [] 0
        (if fld (parsePkt pkt).f 1 1 = 0 then fld (parsePkt pkt).f 4 4 else 0)
      ∧ (u.head h).waiting = (s.dev.head h).waiting.filter (fun x => x.tag != m.tag)))
  ∧ (∀ (s : State) (h : Fin 32) (pkt : Bytes) (t : Nat), GoodPkt s.dev h 0x40 pkt →
    (s.dev.head h).waiting.find? (fun x => x.tag == fld (parsePkt pkt).f 2 2) = none →
    (s.dev.head h).done.contains (fld (parsePkt pkt).f 2 2) = true →
    Gives (.ack h (some pkt) t) s (fun u => u = (heard (s.dev.at' t) h pkt).bump P.headDupAckCount h 1))
  ∧ (∀ (s : State) (h : Fin 32) (tag t : Nat) (m : Msg), (s.dev.head h).waiting.find? (fun x => x.tag == tag) = some m →
    m.sentAt + us (s.dev.pv P.headAckTimeoutUs h) ≤ Nat.max s.dev.now t →
    (m.resends < 3 → Gives (.ackTimeout h tag t) s (fun u =>
      u = ((s.dev.at' t).setHead h { s.dev.head h with
          waiting := (s.dev.head h).waiting.map (fun y =>
            if y.tag = tag then { y with resends := y.resends + 1, sentAt := Nat.max s.dev.now t } else y) }).sendUp
        h m.ty 0 (m.pkt.take 15) m.tag (m.pkt.drop 15)))
    ∧ (3 ≤ m.resends → (s.dev.mb m.mb).wait = .ack h m.tag → (s.dev.mb m.mb).st = .running →
      (∀ j, (s.dev.mb j).wait ≠ .slotFree h) →
      Gives (.ackTimeout h tag t) s (fun u =>
        Ended u m.mb ((s.dev.mb m.mb).request m.mb) C.headFault true [] 0 0
        ∧ u.pv P.headState h = E.headState.HEAD_FAULT)))

/-- Channel `c` moves data: it is in RUN or STOPPING, and Bus Master Enable is set (R274, R280). -/
def Sys2Proof.Moves (d : Dev) (c v : Nat) : Prop := d.quill.bme0 = true ∧ (d.chan c).state = v ∧ (v = chRun ∨ v = chStopping)

/-- DMA_START, DMA_STOP and the doorbell of a channel: a start hands it its first descriptor, in RUN or, without Bus
Master Enable, HELD; a stop ends at the channel's next boundary; a ring wakes a parked channel, and is kept for a
running one (R279, R287, R290). Descriptors and LINK words: a read that fails stops the channel in FETCH_ERROR; a good
descriptor is filled, a bad one completes with its code; a LINK word leads to the next descriptor, or with END parks
the channel unless it was rung (R283, R285, R286, R287). Completes (exec answers a next state): QCN_DOORBELL,
DMA_START, DMA_STOP, DESCRIPTOR_FETCH, LINK_READ. -/
def Obligations.Channels : Prop :=
  (∀ (s : State) (m : Fin 21) (t : Nat) (r : Req), MayRun s.dev m 0x0050 r →
    ((63 < fld r.pay 0 1 ∨ fld r.pay 8 8 % 64 ≠ 0) →
      Refuses (.dmaStart m t) s (s.dev.at' t) m r C.badValue)
    ∧ (fld r.pay 0 1 ≤ 63 → fld r.pay 8 8 % 64 = 0 →
      ((s.dev.chan (fld r.pay 0 1)).state ∉ [chIdle, chStopped, chFetchErr] →
        Refuses (.dmaStart m t) s (s.dev.at' t) m r C.busy)
      ∧ ((s.dev.chan (fld r.pay 0 1)).state ∈ [chIdle, chStopped, chFetchErr] →
        s.dev.imageBad (fld r.pay 0 1) = false →
        Gives (.dmaStart m t) s (fun u =>
          Ended u m r C.ok true [] 0 0
          ∧ u.chan (fld r.pay 0 1) = { s.dev.chan (fld r.pay 0 1) with
              state := if s.dev.quill.bme0 then chRun else chHeld, heldFrom := chRun
              phase := .fetch (fld r.pay 8 8), desc := none, pendFlag := false
              credit := 0, creditAt := (s.dev.at' t).rt
              rate := s.dev.pv P.quillRate (fld r.pay 0 1), feed := [] }
          ∧ u.pv P.quillState (fld r.pay 0 1) = (if s.dev.quill.bme0 then chRun else chHeld)
          ∧ OnlyAnswers { s.dev.at' t with chans := u.chans, frc := u.frc } u m))))
  ∧ (∀ (s : State) (m : Fin 21) (r : Req), MayRun s.dev m 0x0051 r →
    (63 < fld r.pay 0 1 → Refuses (.dmaStop m) s s.dev m r C.badValue)
    ∧ (fld r.pay 0 1 ≤ 63 →
      ((s.dev.chan (fld r.pay 0 1)).state ∈ [chIdle, chStopped, chFetchErr] →
        Answers (.dmaStop m) s s.dev m r C.ok false [] 0)
      ∧ ((s.dev.chan (fld r.pay 0 1)).state = chHeld → Gives (.dmaStop m) s (fun u =>
        (((s.dev.chan (fld r.pay 0 1)).desc.isSome = true ∨ s.dev.chanBusy (fld r.pay 0 1) = true) →
          u = (s.dev.await m (.chan (fld r.pay 0 1)) true).modChan (fld r.pay 0 1) (fun x => { x with heldFrom := chStopping }))
        ∧ ((s.dev.chan (fld r.pay 0 1)).desc = none → s.dev.chanBusy (fld r.pay 0 1) = false →
          (u.chan (fld r.pay 0 1)).state = chStopped ∧ (u.mb m).st = .complete ∧ (u.mb m).code = C.ok
          ∧ (u.mb m).effect = true)))
      ∧ ((s.dev.chan (fld r.pay 0 1)).state = chRun → s.dev.chanBusy (fld r.pay 0 1) = true →
        Gives (.dmaStop m) s (fun u =>
          u = (s.dev.await m (.chan (fld r.pay 0 1)) true).chanState (fld r.pay 0 1) chStopping
          ∧ (u.mb m).st = .running ∧ (u.chan (fld r.pay 0 1)).state = chStopping))
      ∧ ((s.dev.chan (fld r.pay 0 1)).state = chTail ∨
          ((s.dev.chan (fld r.pay 0 1)).state = chRun ∧ s.dev.chanBusy (fld r.pay 0 1) = false) →
        Gives (.dmaStop m) s (fun u =>
          (u.chan (fld r.pay 0 1)).state = chStopped ∧ (u.mb m).st = .complete ∧ (u.mb m).code = C.ok
          ∧ (u.mb m).effect = true
          ∧ ∀ d, (s.dev.chan (fld r.pay 0 1)).desc = some d →
              Output.hostWrite (d.addr + 56) (le 5 d.moved ++ le 1 5 ++ [0, 0x80]) false ∈ u.out))))
  ∧ (∀ (s : State) (c : Fin 64), s.dev.pcieOff = false → s.dev.inP E.pwrState.P3 = false →
    Gives (.qcnDoorbell c) s (fun u =>
      ((s.dev.chan c).state = chTail → s.dev.quill.bme0 = true →
        u = (s.dev.modChan c (fun x => { x with pendFlag := false })).chanState c chRun)
      ∧ ((s.dev.chan c).state ∈ [chRun, chStopping, chHeld] → u = s.dev.modChan c (fun x => { x with pendFlag := true }))
      ∧ ((s.dev.chan c).state ∈ [chIdle, chStopped, chFetchErr] → u = s.dev)))
  ∧ (∀ (s : State) (c : Fin 64) (a v : Nat), Moves s.dev c v → (s.dev.chan c).phase = .fetch a →
    Gives (.descriptorFetch c none) s (fun u =>
      (u.chan c).state = chFetchErr ∧ (u.chan c).phase = .none ∧ bit (u.chan c).events 1 = true)
    ∧ ∀ b : Bytes,
      ((⟨a, slice b 0 64, 0⟩ : Desc).badCode (decide (c.val < 48) && s.dev.pv P.quillForm c == E.quillForm.PACK) = none →
        Gives (.descriptorFetch c (some b)) s (fun u =>
          u.chan c = { s.dev.chan c with desc := some ⟨a, slice b 0 64, 0⟩, phase := .fill }
          ∧ u.pv P.quillCurDesc c = a ∧ u = { s.dev with chans := u.chans, frc := u.frc }
          ∧ ∀ j, j ≠ c.val → u.chan j = s.dev.chan j))
      ∧ ∀ code, (⟨a, slice b 0 64, 0⟩ : Desc).badCode
          (decide (c.val < 48) && s.dev.pv P.quillForm c == E.quillForm.PACK) = some code →
        Gives (.descriptorFetch c (some b)) s (fun u =>
          Output.hostWrite (a + 56) (le 5 0 ++ le 1 code ++ [0, 0x80]) false ∈ u.out
          ∧ (u.chan c).phase = .link a ∧ (u.chan c).desc = none ∧ (u.chan c).lastCode = code
          ∧ (u.chan c).doneCount = ((s.dev.chan c).doneCount + 1) % 2 ^ 32
          ∧ bit (u.chan c).events 0 = true
          ∧ u.pv P.quillBadCount c = countTo P.quillBadCount (s.dev.pv P.quillBadCount c + 1)
          ∧ ∀ j, j ≠ c.val → u.chan j = s.dev.chan j))
  ∧ (∀ (s : State) (c : Fin 64) (a v : Nat), Moves s.dev c v → (s.dev.chan c).phase = .link a →
    Gives (.linkRead c none) s (fun u =>
      (u.chan c).state = chFetchErr ∧ (u.chan c).phase = .none ∧ bit (u.chan c).events 1 = true)
    ∧ (∀ w : BitVec 64, w.getLsbD 0 = false → Gives (.linkRead c (some w)) s (fun u =>
        u = s.dev.modChan c (fun x => { x with phase := .fetch (w.toNat / 64 * 64) })))
    ∧ (∀ w : BitVec 64, w.getLsbD 0 = true →
        (v = chRun → (s.dev.chan c).pendFlag = false → Gives (.linkRead c (some w)) s (fun u => u = s.dev.chanState c chTail))
        ∧ (v = chRun → (s.dev.chan c).pendFlag = true → Gives (.linkRead c (some w)) s (fun u =>
            u = s.dev.modChan c (fun x => { x with pendFlag := false })))
        ∧ (v = chStopping → Gives (.linkRead c (some w)) s (fun u =>
            u = s.dev.chanStopped c ∧ (u.chan c).state = chStopped))))

/-- Data: what is left of a record goes into the descriptor's footprint request by request, all of it that fits where
no rate holds it; an IMAGE frame's end completes its descriptor; host data becomes one item of Q(104 + i); every byte
counts in `quill.bytes`, and a transfer the bus rejects completes with CODE 3 (R279, R282, R285, R286, R291, R295,
R297, R298). Completes (exec answers a next state): RECORD_DELIVER, IMAGE_FRAME_DELIVER, HOST_READ_DATA. -/
def Obligations.ChannelData : Prop :=
  (∀ (s : State) (c : Fin 64) (errs : List (Nat × Bytes)) (t : Nat) (d : Desc), c.val < 48 →
    s.dev.pv P.quillForm c = E.quillForm.PACK → ((s.dev.at' t).accrue c).mayMove c = true →
    (s.dev.chan c).desc = some d → (s.dev.chan c).rest ≠ [] →
    Gives (.recordDeliver c errs t) s (fun u =>
      u = ((s.dev.at' t).accrue c).pour c
      ∧ (s.dev.pv P.quillRate c = 0 → s.dev.mode M.survey = false → 0 < s.dev.pv P.quillMps 0 →
        u.pv P.quillBytes c = countTo P.quillBytes
          (s.dev.pv P.quillBytes c + Nat.min (s.dev.chan c).rest.length (d.total - d.moved)))
      ∧ ((s.dev.chan c).rest.length
            ≤ Nat.min (s.dev.pv P.quillMps 0) (Nat.min (d.elem - d.moved % d.elem) (d.total - d.moved)) →
        ∀ o ∈ d.writes (s.dev.pv P.quillNosnoop c == 1) (s.dev.chan c).rest, o ∈ u.out)))
  ∧ (∀ (s : State) (c : Fin 64) (errs : List (Nat × Bytes)) (t : Nat), c.val < 48 →
    s.dev.pv P.quillForm c = E.quillForm.PACK → ((s.dev.at' t).accrue c).mayMove c = true → (s.dev.chan c).rest = [] →
    (s.dev.queue (s.dev.pv P.quillSrc c - 0x100)).cutOff = false →
    Gives (.recordDeliver c errs t) s (fun u =>
      u = (if ((((s.dev.at' t).accrue c).loadRecord c errs).chan c).rest.isEmpty
        then ((s.dev.at' t).accrue c).loadRecord c errs
        else (((s.dev.at' t).accrue c).loadRecord c errs).pour c)))
  ∧ (∀ (s : State) (c : Fin 64) (errs : List (Nat × Nat × Bytes)) (t : Nat), c.val < 48 →
    s.dev.pv P.quillForm c = E.quillForm.IMAGE → s.dev.pv P.quillSrc c < 68 → ((s.dev.at' t).accrue c).mayMove c = true →
    Gives (.imageFrameDeliver c errs t) s (fun u =>
      u = ((s.dev.at' t).accrue c).imageRun c (s.dev.pv P.quillSrc c) errs (s.dev.ringOf (s.dev.pv P.quillSrc c)).length 0
      ∧ ∀ frame rec d, s.dev.ringNext (s.dev.pv P.quillSrc c) = some (.fin frame rec) → (s.dev.chan c).desc = some d →
        (s.dev.chan c).truncated = false → (s.dev.chan c).state = chRun →
        Output.hostWrite (d.addr + 56) (le 5 d.moved ++ le 1 0 ++ [0, 0x80]) false ∈ u.out ∧ (u.chan c).image = none))
  ∧ (∀ (s : State) (c : Fin 64) (t : Nat) (d : Desc), 48 ≤ c.val →
    ((s.dev.at' t).accrue c).mayMove c = true → (s.dev.chan c).desc = some d → (s.dev.chan c).state = chRun →
    (s.dev.chan c).feed = [] → d.moved < d.total →
    Gives (.hostReadData c [] true t) s (fun u =>
      Output.hostWrite (d.addr + 56) (le 5 d.moved ++ le 1 3 ++ [0, 0x80]) false ∈ u.out
      ∧ (u.chan c).desc = none ∧ (u.chan c).phase = .link d.addr
      ∧ u.pv P.quillBusErrCount c = countTo P.quillBusErrCount (s.dev.pv P.quillBusErrCount c + 1)
      ∧ ((s.dev.queue (104 + (c.val - 48))).openLen = 0 → (s.dev.queue (104 + (c.val - 48))).discard = false →
          u.queues = s.dev.queues))
    ∧ ∀ data : Bytes, d.moved = 0 → data.length = d.total → d.total ≤ 32 →
      d.total ≤ Nat.min s.dev.quill.mrrs d.elem →
      (s.dev.queue (104 + (c.val - 48))).owed = 0 → (s.dev.queue (104 + (c.val - 48))).discard = false →
      (s.dev.queue (104 + (c.val - 48))).openLen = 0 → 0 < s.dev.qLimit (104 + (c.val - 48)) →
      0 < s.dev.qFree (104 + (c.val - 48)) →
      Gives (.hostReadData c data false t) s (fun u =>
        Output.hostWrite (d.addr + 56) (le 5 d.total ++ le 1 0 ++ [0, 0x80]) false ∈ u.out
        ∧ (u.chan c).desc = none ∧ (u.chan c).phase = .link d.addr
        ∧ (∃ a, (u.queue (104 + (c.val - 48))).words = (s.dev.queue (104 + (c.val - 48))).words
            ++ [⟨slice (swapBytes d.swap data) 0 32, true, false, false, a⟩])
        ∧ u.pv P.quillBytes c = countTo P.quillBytes (s.dev.pv P.quillBytes c + d.total)))

/-- MSI-X and Bus Master Enable: an unmasked vector sends what is pending; with Bus Master Enable clear the channels
that run are HELD, and go on where they stopped once it is set; pending messages go out then (R272, R276, R280).
Completes (exec answers a next state): MSIX_UNMASK, BME_CLEAR, BME_SET. -/
def Obligations.MasteringAndVectors : Prop :=
  (∀ (s : State) (v : Fin 256), Gives (.msixUnmask .pf0 v) s (fun u =>
    (∀ j, u.quill.masked0.get true j = if j = v.val then false else s.dev.quill.masked0.get true j)
    ∧ u = { s.dev with quill := { s.dev.quill with masked0 := u.quill.masked0, pend0 := u.quill.pend0 }, out := u.out }
    ∧ (s.dev.quill.bme0 = true → s.dev.quill.pend0.get false v = true →
        s.dev.quill.msg .pf0 v ∈ u.out ∧ u.quill.pend0.get false v = false)
    ∧ (s.dev.quill.bme0 = false → u.quill.pend0 = s.dev.quill.pend0 ∧ u.out = s.dev.out)))
  ∧ (∀ (s : State) (v : Fin 256), v.val ≤ 15 → Gives (.msixUnmask .pf1 v) s (fun u =>
    (∀ j, u.quill.masked1.get true j = if j = v.val then false else s.dev.quill.masked1.get true j)
    ∧ (s.dev.quill.bme1 = true → s.dev.quill.pend1.get false v = true →
        s.dev.quill.msg .pf1 v ∈ u.out ∧ u.quill.pend1.get false v = false)))
  ∧ (∀ (s : State), Gives (.bmeClear .pf0) s (fun u =>
    u.quill.bme0 = false
    ∧ ∀ c, c < 64 →
      ((s.dev.chan c).state = chRun ∨ (s.dev.chan c).state = chStopping →
        u.chan c = { s.dev.chan c with heldFrom := (s.dev.chan c).state, state := chHeld } ∧ u.pv P.quillState c = chHeld)
      ∧ ((s.dev.chan c).state ≠ chRun → (s.dev.chan c).state ≠ chStopping → u.chan c = s.dev.chan c)))
  ∧ (∀ (s : State), Gives (.bmeClear .pf1) s (fun u => u = { s.dev with quill := { s.dev.quill with bme1 := false } }))
  ∧ (∀ (s : State), Gives (.bmeSet .pf0) s (fun u =>
    u.quill.bme0 = true
    ∧ (∀ c, c < 64 → (s.dev.chan c).state = chHeld → (s.dev.chan c).heldFrom ≠ chStopping →
        u.chan c = { s.dev.chan c with state := (s.dev.chan c).heldFrom })
    ∧ ∀ v, v < 256 → s.dev.quill.pend0.get false v = true → s.dev.quill.masked0.get true v = false →
        s.dev.quill.msg .pf0 v ∈ u.out))
  ∧ (∀ (s : State), Gives (.bmeSet .pf1) s (fun u =>
    u.quill.bme1 = true
    ∧ ∀ v, v < 16 → s.dev.quill.pend1.get false v = true → s.dev.quill.masked1.get true v = false →
        s.dev.quill.msg .pf1 v ∈ u.out))

/-- Queues: a word that fits is appended and the write pointer advances; an item too long for the form is discarded
and counted OVERSIZE, one a DROP queue has no room for is counted as dropped, a WAIT or RESERVE queue stalls its
producer; a read takes the oldest word, corrected or poisoned as its check bytes say, or the TORN marker that is due;
QUEUE_FLUSH empties the queue (R251, R252, R257, R258, R260, R262, R263, R265, R266). Completes (exec answers a next
state): QUEUE_FLUSH, QUEUE_WRITE, QUEUE_READ. -/
def Obligations.QueueWords : Prop :=
  (∀ (s : State) (q : Fin 128) (data : Bytes) (last : Bool) (n t : Nat),
    (s.dev.queue q).owed = 0 → (s.dev.queue q).discard = false →
    (((s.dev.queue q).openLen < s.dev.qLimit q →
      (qPolicy q = .drop → (s.dev.queue q).openLen = 0 → n ≤ s.dev.qLimit q ∧ n ≤ s.dev.qFree q) →
      (qPolicy q ≠ .drop → s.dev.qFree q ≠ 0) →
      Gives (.queueWrite q data last n t) s (fun u =>
        (u.queue q).words = (s.dev.queue q).words ++ [⟨slice data 0 32, last, false, false,
            (s.dev.queue q).nextAt (s.dev.qPing q) (s.dev.pv P.qSizeLog2 q)⟩]
        ∧ (u.queue q).wp = ((s.dev.queue q).wp + 1) % 2 ^ (s.dev.pv P.qSizeLog2 q + 1)
        ∧ (u.queue q).openLen = (if last then 0 else (s.dev.queue q).openLen + 1)
        ∧ u.pv P.qLevel q = (s.dev.queue q).words.length + 1
        ∧ (∀ j, j ≠ q.val → u.queue j = s.dev.queue j)
        ∧ u = { s.dev.at' t with
            queues := u.queues, frc := u.frc, int0 := u.int0, out := u.out, poison := u.poison, dirty := u.dirty
            quill := { s.dev.quill with pend0 := u.quill.pend0 } })))
    ∧ (qPolicy q = .drop → (s.dev.queue q).openLen = 0 → s.dev.qLimit q < n →
      Gives (.queueWrite q data last n t) s (fun u =>
        (u.queue q).words = (s.dev.queue q).words ∧ (u.queue q).discard = !last
        ∧ u.pv P.qOversizeCount q = countTo P.qOversizeCount (s.dev.pv P.qOversizeCount q + 1)
        ∧ bit (u.pv P.qEvents q) 2 = true))
    ∧ (qPolicy q = .drop → (s.dev.queue q).openLen = 0 → n ≤ s.dev.qLimit q → s.dev.qFree q < n →
      Gives (.queueWrite q data last n t) s (fun u =>
        (u.queue q).words = (s.dev.queue q).words ∧ (u.queue q).discard = !last
        ∧ u.pv P.qDropCount q = countTo P.qDropCount (s.dev.pv P.qDropCount q + 1)
        ∧ bit (u.pv P.qEvents q) 4 = true))
    ∧ (qPolicy q ≠ .drop → (s.dev.queue q).openLen < s.dev.qLimit q → s.dev.qFree q = 0 →
      Gives (.queueWrite q data last n t) s (fun u => u = s.dev.at' t)))
  ∧ (∀ (s : State) (q : Fin 128) (data : Bytes) (last : Bool) (n t : Nat),
    (s.dev.queue q).owed = 0 → (s.dev.queue q).discard = true →
    Gives (.queueWrite q data last n t) s (fun u => u.queue q = { s.dev.queue q with discard := !last }))
  ∧ (∀ (s : State) (q : Fin 128) (err : Bytes) (t : Nat),
    ((s.dev.queue q).tornDue = true → Gives (.queueRead q err t) s (fun u =>
      Output.readData (2 ^ 256 * 4) ∈ u.out
      ∧ u.queue q = { s.dev.queue q with tornDue := false, partRead := false }))
    ∧ (s.dev.qReadable q = false → Gives (.queueRead q err t) s (fun u => u = s.dev.at' t))
    ∧ (∀ w r w' how, (s.dev.queue q).tornDue = false → s.dev.qReadable q = true → (s.dev.queue q).words = w :: r →
      w.poison = false → s.dev.poison.get false (bankKey (s.dev.wordOf (.queue q) w.at').1 (s.dev.wordOf (.queue q) w.at').2) = false →
      readWord w err = (w', how) → Gives (.queueRead q err t) s (fun u =>
        Output.readData (ofLE w'.data + 2 ^ 256 * (b2n w'.last + 2 * b2n w'.poison + 4 * b2n w'.torn)) ∈ u.out
        ∧ (u.queue q).words = r ∧ (u.queue q).rp = ((s.dev.queue q).rp + 1) % 2 ^ (s.dev.pv P.qSizeLog2 q + 1)
        ∧ (u.queue q).partRead = !w.last
        ∧ u.pv P.qLevel q = r.length
        ∧ (how = .uncorrectable → u.pv P.qUncorrCount q = countTo P.qUncorrCount (s.dev.pv P.qUncorrCount q + 1)
            ∧ w'.poison = true ∧ w'.data = List.replicate 32 0
            ∧ u.poison.get false (bankKey (s.dev.wordOf (.queue q) w.at').1 (s.dev.wordOf (.queue q) w.at').2) = true)
        ∧ ∀ j, j ≠ q.val → u.queue j = s.dev.queue j)))
  ∧ (∀ (s : State) (m : Fin 21) (r : Req), MayRun s.dev m 0x0052 r →
    (119 < fld r.pay 0 1 → Refuses (.queueFlush m) s s.dev m r C.badValue)
    ∧ (fld r.pay 0 1 ≤ 119 → Gives (.queueFlush m) s (fun u =>
      Ended u m r C.ok true [] 0 0 ∧ OnlyAnswers (s.dev.qFlush (fld r.pay 0 1)) u m
      ∧ (u.queue (fld r.pay 0 1)).words = [] ∧ (u.queue (fld r.pay 0 1)).rp = (s.dev.queue (fld r.pay 0 1)).wp
      ∧ u.pv P.qFlushCount (fld r.pay 0 1) = countTo P.qFlushCount (s.dev.pv P.qFlushCount (fld r.pay 0 1) + 1))))

/-- The word the scrubber meets at key `k` of the SRAM: what is stored, with the error pattern upon it. -/
def Sys2Proof.scrubbedWord (s : State) (k : Nat) (err : Bytes) : Bytes := (s.storedWord k).zipWith (· ^^^ ·) (slice err 0 35)

/-- SCRUB_READ of a bank word: a good word stays, a single bad byte is corrected in place and counted, an
uncorrectable word is poisoned, counted once and named; a poisoned word is passed over; a period of 0 stops the
scrubber; the private region and the nibs' stores likewise (R250, R251, R252, R254, R255, R256). Completes (exec
answers a next state): SCRUB_READ. -/
def Obligations.ScrubReads : Prop :=
  (∀ (s : State) (loc : MemLoc) (err : Bytes) (t : Nat), s.dev.pv P.memScrubPeriodS 0 = 0 →
    Gives (.scrubRead loc err t) s (fun u => u = s.dev.at' t))
  ∧ (∀ (s : State) (b : Fin 16) (w : Fin 262144) (err : Bytes) (t : Nat), s.dev.pv P.memScrubPeriodS 0 ≠ 0 →
    (s.dev.poison.get false (bankKey b w) = true →
      exec (.scrubRead (.bank b w) err t) s = .next { s with dev := (s.dev.at' t).scrubStep })
    ∧ (s.dev.poison.get false (bankKey b w) = false →
      (rsRead (scrubbedWord s (bankKey b w) err) = .good → exec (.scrubRead (.bank b w) err t) s = .next
        { s with sram := s.sram.set zeroWord (bankKey b w) (scrubbedWord s (bankKey b w) err), dev := (s.dev.at' t).scrubStep })
      ∧ (∀ i v, rsRead (scrubbedWord s (bankKey b w) err) = .corrected i v →
        exec (.scrubRead (.bank b w) err t) s = .next
          { s with
            sram := s.sram.set zeroWord (bankKey b w) (rsFix (scrubbedWord s (bankKey b w) err))
            dev := ((s.dev.at' t).bump P.memBankCorrCount b 1).scrubStep })
      ∧ (rsRead (scrubbedWord s (bankKey b w) err) = .uncorrectable →
        ∃ u, exec (.scrubRead (.bank b w) err t) s = .next
          { s with sram := s.sram.set zeroWord (bankKey b w) (scrubbedWord s (bankKey b w) err), dev := u }
          ∧ u.poison.get false (bankKey b w) = true
          ∧ (∀ k, k ≠ bankKey b w → u.poison.get false k = s.dev.poison.get false k)
          ∧ u.pv P.memBankUncorrCount b = countTo P.memBankUncorrCount (s.dev.pv P.memBankUncorrCount b + 1)
          ∧ u.pv P.memBankLastUncorr b = w ∧ u.pv P.memBankPoisoned b = s.dev.pv P.memBankPoisoned b + 1)))
  ∧ (∀ (s : State) (w : Nat) (err : Bytes) (t : Nat), s.dev.pv P.memScrubPeriodS 0 ≠ 0 → w < 524288 →
    s.dev.poison.get false (privKey w) = false → ∀ i v, rsRead (scrubbedWord s (privKey w) err) = .corrected i v →
      exec (.scrubRead (.priv w) err t) s = .next
        { s with
          sram := s.sram.set zeroWord (privKey w) (rsFix (scrubbedWord s (privKey w) err))
          dev := ((s.dev.at' t).bump P.memPrivCorrCount 0 1).scrubStep })

/-- The streams that a stream mask names, as the first 8 payload bytes spell it (R325). -/
def Sys2Proof.streamsIn (r : Req) : List Nat := bitsOf 64 (fld r.pay 0 8)

/-- The webs that a web mask names (R325). -/
def Sys2Proof.websIn (r : Req) : List Nat := bitsOf 4 (fld r.pay 0 1)

/-- A message with a command of its own is on its way to head `h`: it is the last of those that await their ACK, and the
command in mailbox `m` waits for it (R121). -/
def Sys2Proof.MessageOut (d u : Dev) (m h ty : Nat) (f pay : Bytes) (effect : Bool) : Prop :=
  (u.mb m).st = .running ∧ (u.mb m).wait = .ack h (d.head h).nextTag ∧ (u.mb m).effect = effect
  ∧ (u.head h).nextTag = ((d.head h).nextTag + 1) % 65536
  ∧ (∃ x : Msg, (u.head h).waiting = (d.head h).waiting ++ [x] ∧ x.tag = (d.head h).nextTag ∧ x.ty = ty ∧ x.mb = m
      ∧ x.resends = 0 ∧ x.sentAt = d.now)
  ∧ (d.loopOf h = E.laneLoop.NONE →
      Output.up h (mkPkt ty 0 f ((d.head h).upSeq.get 0 0) (d.head h).nextTag pay) ∈ u.out)

/-- Head of the first stream that EXPOSE_SET names. -/
def Sys2Proof.headIn (d : Dev) (r : Req) : Nat := d.headOf ((streamsIn r).headD 0)

/-- EXPOSE_SET's payload is in range: streams of one head, a SET_ID, NEXT or FROM, 0 or 32 head-specific bytes; FROM names
no stream but an AREA one in FREE mode (R153, R325). -/
structure Sys2Proof.ExposeArgs (d : Dev) (r : Req) : Prop where
  some : streamsIn r ≠ []
  oneHead : ∀ i ∈ streamsIn r, d.headOf i = headIn d r
  setId : fld r.pay 8 2 ≠ 0
  apply : fld r.pay 10 1 ≤ 1
  hsLen : fld r.pay 11 1 = 0 ∨ fld r.pay 11 1 = 32
  freeRuns : fld r.pay 10 1 = 1 → ∀ i ∈ streamsIn r,
    d.pv P.plateFrameMode i = E.plateFrameMode.AREA ∨ d.pv P.trigMode i ≠ E.trigMode.FREE

/-- EXPOSE_SET must wait: four sets of its head await their ACK, or it is FROM a frame F of a LINES or POSITION stream
whose frame F - 1 has not begun (R153, R155). -/
def Sys2Proof.ExposeWaits (d : Dev) (r : Req) : Prop :=
  4 ≤ (d.head (headIn d r)).exposures
  ∨ (fld r.pay 10 1 = 1 ∧ d.pv P.plateFrameMode ((streamsIn r).headD 0) ≠ E.plateFrameMode.AREA
    ∧ (d.stream ((streamsIn r).headD 0)).frameNo < fld r.pay 12 4)

/-- APPLY_AT of the message of an EXPOSE_SET (R122, R153). -/
def Sys2Proof.applyAt (d : Dev) (r : Req) : Nat :=
  if fld r.pay 10 1 = 0 then 0
  else if d.pv P.plateFrameMode ((streamsIn r).headD 0) = E.plateFrameMode.AREA then fld r.pay 12 4
  else d.trigIdOf ((streamsIn r).headD 0)

/-- EXPOSE_SET and the head register commands: a message to the head, which the command waits for; a fifth exposure
set, and one FROM a later frame, waits for its place; a head that is not UP is HEAD_ABSENT, a frame that has begun
LATE (R121, R122, R152, R153, R154, R155). PLATE_TABLE_LOAD: an argument out of range is BAD_VALUE, too many entries
or a table that does not fit its stream BAD_TABLE, a failed read BUS_ERROR; a table for a stopped stream waits for its
start, one for a running stream for its next boundary, if plate memory holds it (R139, R140, R147, R325). Completes
(exec answers a next state): EXPOSE_SET, HEAD_REG_READ, HEAD_REG_WRITE, PLATE_TABLE_LOAD,
EXPOSE_SET_DEFERRED_SEND. -/
def Obligations.HeadAndTableCommands : Prop :=
  (∀ (s : State) (m : Fin 21) (t : Nat) (r : Req), MayRun s.dev m 0x0034 r →
    (¬ ExposeArgs s.dev r → Refuses (.exposeSet m t) s (s.dev.at' t) m r C.badValue)
    ∧ (ExposeArgs s.dev r →
      (s.dev.headUp (headIn s.dev r) = false → Refuses (.exposeSet m t) s (s.dev.at' t) m r C.headAbsent)
      ∧ (s.dev.headUp (headIn s.dev r) = true →
        (fld r.pay 10 1 = 1 → (∃ i ∈ streamsIn r, s.dev.begun (fld r.pay 12 4) i = true) →
          Refuses (.exposeSet m t) s (s.dev.at' t) m r C.late)
        ∧ ((fld r.pay 10 1 = 0 ∨ ∀ i ∈ streamsIn r, s.dev.begun (fld r.pay 12 4) i = false) →
          (ExposeWaits s.dev r → Gives (.exposeSet m t) s (fun u =>
            u = (s.dev.at' t).await m (.slotFree (headIn s.dev r)) false))
          ∧ (¬ ExposeWaits s.dev r → Gives (.exposeSet m t) s (fun u =>
            (∀ i ∈ streamsIn r, u.pv P.plateExpsetPending i = fld r.pay 8 2
              ∧ (u.stream i).sets = (s.dev.stream i).sets ++ [fld r.pay 8 2])
            ∧ MessageOut (s.dev.at' t) u m (headIn s.dev r) 0x81
                (slice (le 2 (fld r.pay 8 2) ++ le 1 (fld r.pay 10 1)
                  ++ le 1 ((streamsIn r).foldl (fun c i => c ||| 2 ^ s.dev.chanOf i) 0) ++ le 4 (applyAt s.dev r)
                  ++ le 4 (fld r.pay 16 4) ++ le 2 (fld r.pay 20 2)) 0 15)
                (if fld r.pay 11 1 = 32 then slice r.pay 24 32 else []) true))))))
  ∧ (∀ (s : State) (m : Fin 21) (t h : Nat), (s.dev.mb m).wait = .slotFree h → (s.dev.mb m).st = .running →
    (s.dev.headUp h = true → Gives (.exposeSetDeferredSend m t) s (fun u =>
      u = (s.dev.at' t).tryExpose m ((s.dev.mb m).request m)))
    ∧ (s.dev.headUp h = false →
      Refuses (.exposeSetDeferredSend m t) s (s.dev.at' t) m ((s.dev.mb m).request m) C.headAbsent))
  ∧ (∀ (s : State) (m : Fin 21) (t h : Nat) (r : Req), (s.dev.mb m).wait = .slotFree h → (s.dev.mb m).st = .running →
    (s.dev.mb m).request m = r → s.dev.headUp h = true → headIn s.dev r = h → ExposeArgs s.dev r → ¬ ExposeWaits s.dev r →
    (fld r.pay 10 1 = 0 ∨ ∀ i ∈ streamsIn r, s.dev.begun (fld r.pay 12 4) i = false) →
    Gives (.exposeSetDeferredSend m t) s (fun u =>
      (u.mb m).st = .running ∧ (u.mb m).wait = .ack h (s.dev.head h).nextTag ∧ (u.mb m).effect = true
      ∧ ∀ i ∈ streamsIn r, u.pv P.plateExpsetPending i = fld r.pay 8 2))
  ∧ (∀ (s : State) (m : Fin 21) (t : Nat) (r : Req), MayRun s.dev m 0x0035 r →
    (31 < fld r.pay 0 1 → Refuses (.headRegRead m t) s (s.dev.at' t) m r C.badValue)
    ∧ (fld r.pay 0 1 ≤ 31 →
      (s.dev.headUp (fld r.pay 0 1) = false → Refuses (.headRegRead m t) s (s.dev.at' t) m r C.headAbsent)
      ∧ (s.dev.headUp (fld r.pay 0 1) = true → Gives (.headRegRead m t) s (fun u =>
          MessageOut (s.dev.at' t) u m (fld r.pay 0 1) 0x83 (slice (le 4 (fld r.pay 4 4) ++ le 4 0) 0 15) [] false))))
  ∧ (∀ (s : State) (m : Fin 21) (t : Nat) (r : Req), MayRun s.dev m 0x0036 r →
    (31 < fld r.pay 0 1 → Refuses (.headRegWrite m t) s (s.dev.at' t) m r C.badValue)
    ∧ (fld r.pay 0 1 ≤ 31 →
      (s.dev.headUp (fld r.pay 0 1) = false → Refuses (.headRegWrite m t) s (s.dev.at' t) m r C.headAbsent)
      ∧ (s.dev.headUp (fld r.pay 0 1) = true → Gives (.headRegWrite m t) s (fun u =>
          MessageOut (s.dev.at' t) u m (fld r.pay 0 1) 0x82
            (slice (le 4 (fld r.pay 4 4) ++ le 4 (fld r.pay 8 4)) 0 15) [] true))))
  ∧ ∀ (s : State) (m : Fin 21) (host : Option Bytes) (errs : List (Nat × Bytes)) (r : Req), MayRun s.dev m 0x0040 r →
    ((63 < fld r.pay 0 1 ∨ 1 < fld r.pay 1 1 ∨ 1 < fld r.pay 2 1 ∨ (fld r.pay 2 1 = 1 ∧ 15 < fld r.pay 3 1)) →
      Refuses (.plateTableLoad m (host, errs)) s s.dev m r C.badValue)
    ∧ (fld r.pay 0 1 ≤ 63 → fld r.pay 1 1 ≤ 1 → fld r.pay 2 1 ≤ 1 → (fld r.pay 2 1 = 1 → fld r.pay 3 1 ≤ 15) →
      (4194304 < fld r.pay 4 4 → Refuses (.plateTableLoad m (host, errs)) s s.dev m r C.badTable)
      ∧ (fld r.pay 4 4 ≤ 4194304 → ∀ d : Dev,
        (s.dev.source (fld r.pay 2 1) (fld r.pay 3 1) (4 * fld r.pay 4 4) host errs = (d, .wait) →
          Gives (.plateTableLoad m (host, errs)) s (fun u => u = d))
        ∧ (∀ c, s.dev.source (fld r.pay 2 1) (fld r.pay 3 1) (4 * fld r.pay 4 4) host errs = (d, .code c) →
          Gives (.plateTableLoad m (host, errs)) s (fun u => u = d.fail m c))
        ∧ (fld r.pay 2 1 = 0 → host = none → Refuses (.plateTableLoad m (host, errs)) s s.dev m r C.busError)
        ∧ ∀ b tab, s.dev.source (fld r.pay 2 1) (fld r.pay 3 1) (4 * fld r.pay 4 4) host errs = (d, .bytes b) →
          tab = entriesOf (fld r.pay 4 4) b →
          ((d.cfgOf (fld r.pay 0 1)).tableOk (fld r.pay 1 1 == 1) tab = false →
            Gives (.plateTableLoad m (host, errs)) s (fun u => u = d.fail m C.badTable))
          ∧ ((d.cfgOf (fld r.pay 0 1)).tableOk (fld r.pay 1 1 == 1) tab = true →
            ∀ v : Dev, v = d.modStream (fld r.pay 0 1) (fun x =>
                if fld r.pay 1 1 = 1 then { x with pendFlat := some tab } else { x with pendDefect := some tab }) →
            ((d.stream (fld r.pay 0 1)).running = false →
              Gives (.plateTableLoad m (host, errs)) s (fun u => u = v.done m))
            ∧ ((d.stream (fld r.pay 0 1)).running = true →
              (d.memFree + ((d.stream (fld r.pay 0 1)).mem : Nat) < (v.plateNeed (fld r.pay 0 1) : Nat) →
                Gives (.plateTableLoad m (host, errs)) s (fun u => u = d.fail m C.noMemory))
              ∧ ((v.plateNeed (fld r.pay 0 1) : Nat) ≤ d.memFree + ((d.stream (fld r.pay 0 1)).mem : Nat) →
                Gives (.plateTableLoad m (host, errs)) s (fun u =>
                  u = (v.allocStream (fld r.pay 0 1) (v.plateNeed (fld r.pay 0 1))).done m))))))
    ∧ (∀ b tab, fld r.pay 0 1 ≤ 63 → fld r.pay 1 1 ≤ 1 → fld r.pay 2 1 = 0 → fld r.pay 4 4 ≤ 4194304 → host = some b →
      tab = entriesOf (fld r.pay 4 4) (slice b 0 (4 * fld r.pay 4 4)) →
      (s.dev.cfgOf (fld r.pay 0 1)).tableOk (fld r.pay 1 1 == 1) tab = true →
      (s.dev.stream (fld r.pay 0 1)).running = false →
      Gives (.plateTableLoad m (host, errs)) s (fun u =>
        Ended u m r C.ok true [] 0 0
        ∧ u.stream (fld r.pay 0 1) = (if fld r.pay 1 1 = 1
            then { s.dev.stream (fld r.pay 0 1) with pendFlat := some tab }
            else { s.dev.stream (fld r.pay 0 1) with pendDefect := some tab })
        ∧ OnlyAnswers { s.dev with streams := u.streams } u m
        ∧ ∀ j, j ≠ fld r.pay 0 1 → u.stream j = s.dev.stream j))

/-- A packet of type `ty` arrives for stream `st`, which runs: it checks, its channel is bound (R17, R18, R114). -/
structure Sys2Proof.ForStream (d : Dev) (h ty : Nat) (pkt : Bytes) (st : Nat) : Prop where
  good : GoodPkt d h ty pkt
  bound : d.streamOn h (parsePkt pkt).chan = some st
  runs : (d.stream st).running = true

/-- A PIXEL packet has the form of its stream: line-scan data for all but an AREA stream, the sample bits of the stream and
a packing that exists (R116, R130). -/
def Sys2Proof.FormOk (p : Pkt) (area : Bool) (inBits : Nat) : Prop :=
  p.lineScan = !area ∧ p.format % 32 = inBits ∧ p.format / 32 ≤ 1

/-- PIXEL: a packet of an unbound channel is counted, and so is one that has not the form of its stream, or of the
frame its line falls into; the packets of one line gather and its last one ends it; a packet of an AREA frame outside
that frame, or of a line already passed, is left aside (R18, R113, R116, R128, R129, R130). FRAME_START and FRAME_END:
an AREA frame opens with FRAME_START, once, and an AREA frame still open closes before it; FRAME_END closes the frame
of its number with LINE_COUNT (R113, R129, R134). A line whose trigger's time is up is formed MISSING; the frame of a
HOLD or a stop ends when no line is due; a held tap is decided when nothing that could arm it is under way (R131,
R134, R312). Completes (exec answers a next state): PIXEL, FRAME_START, FRAME_END, LINE_TIMEOUT, HELD_FRAME_END,
TAP_HOLD_RELEASE. -/
def Obligations.LinesReceived : Prop :=
  (∀ (s : State) (h : Fin 32) (pkt : Bytes) (errs : List (Nat × Bytes)) (t : Nat), GoodPkt s.dev h 0x01 pkt →
    s.dev.streamOn h (parsePkt pkt).chan = none →
    Gives (.pixel h (some pkt) errs t) s (fun u => u = (heard (s.dev.at' t) h pkt).bump P.headUnboundCount h 1))
  ∧ (∀ (s : State) (h : Fin 32) (pkt : Bytes) (errs : List (Nat × Bytes)) (t st : Nat) (f : Frame) (p : Pkt) (area : Bool)
      (d : Dev), ForStream s.dev h 0x01 pkt st → (s.dev.stream st).openFrame = some f → p = parsePkt pkt →
    area = (s.dev.pv P.plateFrameMode st == E.plateFrameMode.AREA) → d = heard (s.dev.at' t) h pkt →
    (∀ a, (s.dev.stream st).asm = some a → a.takes p = true →
      (¬ FormOk p area (s.dev.pv P.plateInBits st) → Gives (.pixel h (some pkt) errs t) s (fun u =>
        u = d.bump P.plateFormatErrCount st 1))
      ∧ (FormOk p area (s.dev.pv P.plateInBits st) → Gives (.pixel h (some pkt) errs t) s (fun u =>
        u = d.putBytes st h p errs))
      ∧ (FormOk p area (s.dev.pv P.plateInBits st) → p.headLate = false → ∀ v : Dev,
        v = d.modStream st (fun x => { x with
          asm := some { a with pieces := a.pieces ++ [(p.offset, p.pay)], errs := a.errs ++ errs } }) →
        (p.last = false → Gives (.pixel h (some pkt) errs t) s (fun u => u = v))
        ∧ (p.last = true → Gives (.pixel h (some pkt) errs t) s (fun u => u = v.finishLine st))))
    ∧ ((∀ a, (s.dev.stream st).asm = some a → a.takes p = false) →
      (area = false → p.lineScan = false → Gives (.pixel h (some pkt) errs t) s (fun u =>
        u = d.bump P.plateFormatErrCount st 1))
      ∧ (area = false → p.lineScan = true → ∀ v g, v = d.beginLine st p false → (v.stream st).asm.isSome = true →
        (v.stream st).openFrame = some g →
        (¬ FormOk p (g.cfg.mode == E.plateFrameMode.AREA) g.cfg.inBits → Gives (.pixel h (some pkt) errs t) s (fun u =>
          u = d.bump P.plateFormatErrCount st 1))
        ∧ (FormOk p (g.cfg.mode == E.plateFrameMode.AREA) g.cfg.inBits → Gives (.pixel h (some pkt) errs t) s (fun u =>
          u = v.putBytes st h p errs)))
      ∧ (area = false → p.lineScan = true → ∀ v, v = d.beginLine st p false → (v.stream st).asm = none →
        (¬ FormOk p false (s.dev.pv P.plateInBits st) → Gives (.pixel h (some pkt) errs t) s (fun u =>
          u = d.bump P.plateFormatErrCount st 1))
        ∧ (FormOk p false (s.dev.pv P.plateInBits st) → Gives (.pixel h (some pkt) errs t) s (fun u => u = v)))
      ∧ (area = true → ¬ FormOk p true (s.dev.pv P.plateInBits st) → Gives (.pixel h (some pkt) errs t) s (fun u =>
        u = d.bump P.plateFormatErrCount st 1))
      ∧ (area = true → FormOk p true (s.dev.pv P.plateInBits st) →
        ((f.no ≠ p.frame ∨ (p.line < f.lines ∧ p.line < f.cfg.height)) →
          Gives (.pixel h (some pkt) errs t) s (fun u => u = d))
        ∧ (f.no = p.frame → f.cfg.height ≤ p.line → (s.dev.stream st).lastLine = some p.line →
          Gives (.pixel h (some pkt) errs t) s (fun u => u = d))
        ∧ (f.no = p.frame → f.cfg.height ≤ p.line → (s.dev.stream st).lastLine ≠ some p.line →
          Gives (.pixel h (some pkt) errs t) s (fun u =>
            u = (((d.finishLine st).bump P.plateLongCount st 1).modFrame st f.no
              (fun f => { f with flags := setBit f.flags 1 })).modStream st (fun x => { x with lastLine := some p.line })))
        ∧ (f.no = p.frame → f.lines ≤ p.line → p.line < f.cfg.height → Gives (.pixel h (some pkt) errs t) s (fun u =>
          u = (d.beginLine st p true).putBytes st h p errs)))))
  ∧ (∀ (s : State) (h : Fin 32) (pkt : Bytes) (t st : Nat) (d : Dev), ForStream s.dev h 0x02 pkt st →
    d = heard (s.dev.at' t) h pkt →
    (∀ f, (s.dev.stream st).openFrame = some f → f.no = (parsePkt pkt).frame → f.cfg.mode = E.plateFrameMode.AREA →
      Gives (.frameStart h (some pkt) t) s (fun u => u = d))
    ∧ (∀ f, (s.dev.stream st).openFrame = some f → f.no ≠ (parsePkt pkt).frame → f.cfg.mode = E.plateFrameMode.AREA →
      ∀ v : Dev, v = (d.completeArea st none (s.dev.stream st).endFlag).modStream st
          (fun x => { x with areaExp := none, lastLine := none }) →
        (v.stream st).openFrame = none → (v.stream st).held = false → (v.stream st).ending = 0 →
        (v.stream st).holdAt = none → v.dueValue st P.plateFrameMode = E.plateFrameMode.AREA →
        Gives (.frameStart h (some pkt) t) s (fun u =>
          u = v.openFrame st (parsePkt pkt).frame (parsePkt pkt).expset (v.stream st).lastStamp))
    ∧ (∀ f, (s.dev.stream st).openFrame = some f → f.cfg.mode ≠ E.plateFrameMode.AREA →
      Gives (.frameStart h (some pkt) t) s (fun u =>
        u = d.modStream st (fun x => { x with areaExp := none, lastLine := none })))
    ∧ ((s.dev.stream st).openFrame = none →
      (((s.dev.stream st).held = true ∨ (s.dev.stream st).ending ≠ 0
          ∨ (∃ f, (s.dev.stream st).holdAt = some f ∧ f ≤ (parsePkt pkt).frame)
          ∨ s.dev.dueValue st P.plateFrameMode ≠ E.plateFrameMode.AREA) →
        Gives (.frameStart h (some pkt) t) s (fun u =>
          u = d.modStream st (fun x => { x with areaExp := none, lastLine := none })))
      ∧ ((s.dev.stream st).held = false → (s.dev.stream st).ending = 0 →
        (∀ f, (s.dev.stream st).holdAt = some f → (parsePkt pkt).frame < f) →
        s.dev.dueValue st P.plateFrameMode = E.plateFrameMode.AREA →
        Gives (.frameStart h (some pkt) t) s (fun u =>
          u = (d.modStream st (fun x => { x with areaExp := none, lastLine := none })).openFrame st
            (parsePkt pkt).frame (parsePkt pkt).expset (s.dev.stream st).lastStamp))))
  ∧ (∀ (s : State) (h : Fin 32) (pkt : Bytes) (t st : Nat), ForStream s.dev h 0x03 pkt st →
    (∀ f, (s.dev.stream st).openFrame = some f → f.no = (parsePkt pkt).frame → f.cfg.mode = E.plateFrameMode.AREA →
      Gives (.frameEnd h (some pkt) t) s (fun u =>
        u = (heard (s.dev.at' t) h pkt).completeArea st (some (parsePkt pkt).line) (s.dev.stream st).endFlag))
    ∧ ((∀ f, (s.dev.stream st).openFrame = some f → f.no ≠ (parsePkt pkt).frame ∨ f.cfg.mode ≠ E.plateFrameMode.AREA) →
      Gives (.frameEnd h (some pkt) t) s (fun u => u = heard (s.dev.at' t) h pkt)))
  ∧ (∀ (s : State) (st : Fin 64) (t : Nat) (e : Expect) (rest : List Expect), (s.dev.stream st).expect = e :: rest →
    (s.dev.stream st).running = true → trigExpects (s.dev.pv P.trigMode st) = true →
    s.dev.pv P.plateFrameMode st ≠ E.plateFrameMode.AREA →
    (e.target + us (s.dev.pv P.plateLineTimeoutUs st) ≤ Nat.max s.dev.now t → Gives (.lineTimeout st t) s (fun u =>
      u = (((s.dev.at' t).finishLine st).modStream st (fun x => { x with expect := rest })).missed st e))
    ∧ (Nat.max s.dev.now t < e.target + us (s.dev.pv P.plateLineTimeoutUs st) →
      Gives (.lineTimeout st t) s (fun u => u = s.dev.at' t)))
  ∧ (∀ (s : State) (st : Fin 64) (t : Nat),
    ((s.dev.stream st).expect = [] ∨ (s.dev.stream st).running = false ∨ trigExpects (s.dev.pv P.trigMode st) = false
      ∨ s.dev.pv P.plateFrameMode st = E.plateFrameMode.AREA) →
    Gives (.lineTimeout st t) s (fun u => u = s.dev.at' t))
  ∧ (∀ (s : State) (st : Fin 64) (t : Nat),
    ((s.dev.stream st).running = true → (s.dev.stream st).ending ≠ 0 → (s.dev.at' t).linesDue st = false →
      Gives (.heldFrameEnd st t) s (fun u => u = (s.dev.at' t).endNow st))
    ∧ (((s.dev.stream st).running = false ∨ (s.dev.stream st).ending = 0 ∨ (s.dev.at' t).linesDue st = true) →
      Gives (.heldFrameEnd st t) s (fun u => u = s.dev.at' t)))
  ∧ (∀ (s : State) (k : Fin 16) (t : Nat) (f : Frame),
    (s.dev.stream (s.dev.pv P.plateTapStream k)).frames = [f] →
    (0 < f.lines → (∃ x ∈ f.taps, x.tap = k.val ∧ x.st = 0) → s.dev.flight = [] →
      Gives (.tapHoldRelease k t) s (fun u => u = (s.dev.at' t).tapDecide (s.dev.pv P.plateTapStream k) f.no k))
    ∧ ((∀ x ∈ f.taps, x.tap = k.val → x.st ≠ 0) → Gives (.tapHoldRelease k t) s (fun u => u = s.dev.at' t)))

/-- STREAM_START and WEB_START run all that they name or none: running already is BUSY, a parameter out of place
BAD_VALUE, too little plate memory NO_MEMORY; STREAM_STOP and WEB_STOP begin the stop of each, and answer OK at once
if none of them runs any more (R127, R218, R219, R332). WEB_LINE_FORM of a web whose next point's lines are not all
decided, or that has no point, forms nothing; else it forms the point's line, and a web that HOLD or a stop ends
closes with its last point (R227, R228). Completes (exec answers a next state): STREAM_START, STREAM_STOP, WEB_START,
WEB_STOP, WEB_LINE_FORM. -/
def Obligations.StreamsAndWebs : Prop :=
  (∀ (s : State) (m : Fin 21) (t : Nat) (r : Req), MayRun s.dev m 0x0030 r →
    ((∃ i ∈ streamsIn r, (s.dev.stream i).running = true) →
      Refuses (.streamStart m t) s (s.dev.at' t) m r C.busy)
    ∧ ((∀ i ∈ streamsIn r, (s.dev.stream i).running = false) →
      ((∃ i ∈ streamsIn r, s.dev.startOk i = false) →
        Refuses (.streamStart m t) s (s.dev.at' t) m r C.badValue)
      ∧ ((∀ i ∈ streamsIn r, s.dev.startOk i = true) →
        (s.dev.memFree + (((streamsIn r).map (fun i => (s.dev.stream i).mem)).foldl (· + ·) 0 : Nat)
            < (((streamsIn r).map s.dev.plateNeed).foldl (· + ·) 0 : Nat) →
          Refuses (.streamStart m t) s (s.dev.at' t) m r C.noMemory)
        ∧ ((((streamsIn r).map s.dev.plateNeed).foldl (· + ·) 0 : Nat)
            ≤ s.dev.memFree + (((streamsIn r).map (fun i => (s.dev.stream i).mem)).foldl (· + ·) 0 : Nat) →
          Gives (.streamStart m t) s (fun u =>
            u = (((s.dev.at' t).forEach (streamsIn r) Dev.startStream).modePending).done m
            ∧ ∀ i, streamsIn r = [i] → (u.stream i).running = true ∧ (u.stream i).frameNo = 0
              ∧ (u.stream i).frames = [] ∧ (u.stream i).ring = [])))))
  ∧ (∀ (s : State) (m : Fin 21) (t : Nat) (r : Req), MayRun s.dev m 0x0031 r →
    ((∀ i ∈ streamsIn r, (s.dev.stream i).running = false) →
      Answers (.streamStop m t) s (s.dev.at' t) m r C.ok false [] 0)
    ∧ ((∃ i ∈ streamsIn r, (s.dev.stream i).running = true) → ∀ v : Dev,
      v = ((s.dev.at' t).await m (.streams (fld r.pay 0 8)) true).forEach (streamsIn r) Dev.stopStream →
      ((∃ i ∈ streamsIn r, (v.stream i).running = true) → Gives (.streamStop m t) s (fun u => u = v))
      ∧ ((∀ i ∈ streamsIn r, (v.stream i).running = false) → Gives (.streamStop m t) s (fun u => u = v.done m)))
    ∧ (∀ i, streamsIn r = [i] → (s.dev.stream i).running = true → trigExpects (s.dev.pv P.trigMode i) = true →
      (s.dev.stream i).held = false → (s.dev.at' t).linesDue i = true →
      Gives (.streamStop m t) s (fun u =>
        u.stream i = { s.dev.stream i with ending := 2 } ∧ (u.mb m).st = .running
        ∧ (u.mb m).wait = .streams (fld r.pay 0 8) ∧ (u.mb m).effect = true)))
  ∧ (∀ (s : State) (m : Fin 21) (t : Nat) (r : Req), MayRun s.dev m 0x0032 r →
    (15 < fld r.pay 0 1 → Refuses (.webStart m t) s (s.dev.at' t) m r C.badValue)
    ∧ (fld r.pay 0 1 ≤ 15 →
      ((∃ w ∈ websIn r, (s.dev.web w).running = true) →
        Refuses (.webStart m t) s (s.dev.at' t) m r C.busy)
      ∧ ((∀ w ∈ websIn r, (s.dev.web w).running = false) →
        ((∃ w ∈ websIn r, s.dev.webOk w = false) → Refuses (.webStart m t) s (s.dev.at' t) m r C.badValue)
        ∧ ((∀ w ∈ websIn r, s.dev.webOk w = true) →
          (s.dev.memFree + (((websIn r).map (fun w => (s.dev.web w).mem)).foldl (· + ·) 0 : Nat)
              < (((websIn r).map s.dev.webNeed).foldl (· + ·) 0 : Nat) →
            Refuses (.webStart m t) s (s.dev.at' t) m r C.noMemory)
          ∧ ((((websIn r).map s.dev.webNeed).foldl (· + ·) 0 : Nat)
              ≤ s.dev.memFree + (((websIn r).map (fun w => (s.dev.web w).mem)).foldl (· + ·) 0 : Nat) →
            Gives (.webStart m t) s (fun u =>
              u = (((s.dev.at' t).forEach (websIn r) Dev.startWeb).modePending).done m
              ∧ ∀ w, websIn r = [w] → (u.web w).running = true ∧ (u.web w).frameNo = 0
                ∧ (u.web w).points = [] ∧ (u.web w).ring = []))))))
  ∧ (∀ (s : State) (m : Fin 21) (t : Nat) (r : Req), MayRun s.dev m 0x0033 r →
    (15 < fld r.pay 0 1 → Refuses (.webStop m t) s (s.dev.at' t) m r C.badValue)
    ∧ (fld r.pay 0 1 ≤ 15 →
      ((∀ w ∈ websIn r, (s.dev.web w).running = false) →
        Answers (.webStop m t) s (s.dev.at' t) m r C.ok false [] 0)
      ∧ ((∃ w ∈ websIn r, (s.dev.web w).running = true) → ∀ v : Dev,
        v = ((s.dev.at' t).await m (.webs (fld r.pay 0 1)) true).forEach (websIn r) Dev.stopWeb →
        ((∃ w ∈ websIn r, (v.web w).running = true) → Gives (.webStop m t) s (fun u => u = v))
        ∧ ((∀ w ∈ websIn r, (v.web w).running = false) → Gives (.webStop m t) s (fun u => u = v.done m)))))
  ∧ ∀ (s : State) (w : Fin 4) (excess : Bool) (errs : List (Nat × Nat × Nat × Bytes)) (t : Nat),
    ((s.dev.web w).running = true → Gives (.webLineForm ⟨w, excess, errs⟩ t) s (fun u =>
      u = ((s.dev.at' t).webForm w excess errs).1.webEndNow w))
    ∧ ((s.dev.web w).running = true → (s.dev.web w).points = [] → (s.dev.web w).ending = 0 →
      Gives (.webLineForm ⟨w, excess, errs⟩ t) s (fun u => u = s.dev.at' t))
    ∧ ((s.dev.web w).running = false → Gives (.webLineForm ⟨w, excess, errs⟩ t) s (fun u => u = s.dev.at' t))

/-- The Collimator ring as a leader and a follower see its frames: a leader sends its frame on both outputs each µs,
behind the service slot of the period before, and knows the ring closed when it returns; a frame with a bad check is
counted, and a follower passes it on spoilt; a follower passes a good frame on with its hop counted and its delay
added, and takes it; a leader steps down for a better one (R232, R233, R239, R240, R241). Which copy of a frame a
follower uses: the primary one when it comes and is new; the redundant one at once when no primary copy has come for 1
µs or the last was bad, and else it waits (R240). What a passed-on frame holds: its hop and the delay so far, under a
new check; at hop 31 it goes no further (R232, R233). Service slots, loss and the reference: PROBE is answered with
ECHO, and an echo gives a sample; a silence of `span.loss_us` makes a FOLLOWER LOST and any other device the leader;
the loss of port A's signal moves the reference with REF_SEL 11 (R232, R234, R239, R241, R243). Completes (exec
answers a next state): SYNC_FRAME_SEND, SYNC_FRAME_RECEIVE, SERVICE_SLOT, HOP_PROBE, SPAN_LOSS_TIMEOUT,
REF_SIGNAL_LOSS. -/
def Obligations.SpanRing : Prop :=
  (∀ (s : State) (t : Nat), s.dev.mode M.span = true → s.dev.spanLeading = true →
    (∀ t0, s.dev.span.sentAt = some t0 → t0 + us 1 ≤ Nat.max s.dev.now t) → s.dev.span.returned = true →
    Gives (.syncFrameSend t) s (fun u =>
      Output.sync 0 ((s.dev.at' t).syncFrame true) ∈ u.out ∧ Output.sync 1 ((s.dev.at' t).syncFrame false) ∈ u.out
      ∧ (∀ port, port < 2 → s.dev.span.frameOpen.get none port = some true →
        Output.slot port (slotBytes 0 (s.dev.pv P.spanMemberId 0) 0 0) ∈ u.out)
      ∧ (∀ port, port < 2 → (s.dev.span.frameOpen.get none port).isSome = true → Output.idle port (idleSymbols 11) ∈ u.out)
      ∧ u.span.missed = 0 ∧ u.span.returned = false ∧ u.span.frameNo = (s.dev.span.frameNo + 1) % 2 ^ 32
      ∧ u.span.sentAt = some (Nat.max s.dev.now t) ∧ u.span.last = some (syncInfo ((s.dev.at' t).syncFrame false))
      ∧ u = { s.dev.at' t with span := u.span, out := u.out }))
  ∧ (∀ (s : State) (t t0 : Nat), s.dev.span.sentAt = some t0 → Nat.max s.dev.now t < t0 + us 1 →
    Gives (.syncFrameSend t) s (fun u => u = s.dev.at' t))
  ∧ (∀ (s : State) (t : Nat), (s.dev.mode M.span = false ∨ s.dev.spanLeading = false) →
    Gives (.syncFrameSend t) s (fun u => u = s.dev.at' t))
  ∧ (∀ (s : State) (port : Fin 2) (frame : Bytes) (lat t : Nat) (f : Bytes), s.dev.mode M.span = true → f = slice frame 0 96 →
    (fld f 92 4 ≠ crc32c (f.take 92) →
      (s.dev.spanLeading = true → Gives (.syncFrameReceive port frame lat t) s (fun u =>
        u = (s.dev.at' t).bump P.spanCrcErrCount port 1))
      ∧ (s.dev.spanLeading = false → (port.val = 1 ∨ s.dev.span.spare = none) →
        Gives (.syncFrameReceive port frame lat t) s (fun u =>
          u.pv P.spanCrcErrCount port = countTo P.spanCrcErrCount (s.dev.pv P.spanCrcErrCount port + 1)
          ∧ (fld f 1 1 ≠ 31 →
            Output.sync (1 - port) (f.take 92 ++ (f.drop 92).map (fun b => b ^^^ 0xFF)) ∈ u.out)
          ∧ (port.val = 0 → u.span.primaryBad = true)
          ∧ u = { s.dev.at' t with frc := u.frc, out := u.out, span := u.span })))
    ∧ (fld f 92 4 = crc32c (f.take 92) → fld f 0 1 ≠ 0xA5 →
      Gives (.syncFrameReceive port frame lat t) s (fun u => u = s.dev.at' t))
    ∧ (fld f 92 4 = crc32c (f.take 92) → fld f 0 1 = 0xA5 → ∀ d : Dev,
      d = { s.dev.at' t with span := { s.dev.span with seenEpoch := some (fld f 4 2) } } →
      (s.dev.spanLeading = true → fld f 2 1 = s.dev.pv P.spanMemberId 0 → port.val = 0 →
        Gives (.syncFrameReceive port frame lat t) s (fun u =>
          u.pv P.spanRing 0 = E.spanRing.CLOSED ∧ u.span = { d.span with returned := true, missed := 0 }
          ∧ u = { d with span := u.span, frc := u.frc }))
      ∧ (s.dev.spanLeading = true → fld f 2 1 = s.dev.pv P.spanMemberId 0 → port.val = 1 →
        Gives (.syncFrameReceive port frame lat t) s (fun u => u = d))
      ∧ (s.dev.spanLeading = true → fld f 2 1 ≠ s.dev.pv P.spanMemberId 0 → s.dev.betterLeader f = false →
        Gives (.syncFrameReceive port frame lat t) s (fun u => u = d))
      ∧ ((s.dev.spanLeading = false ∨ s.dev.betterLeader f = true) → fld f 2 1 ≠ s.dev.pv P.spanMemberId 0 → ∀ v : Dev,
        v = (if s.dev.spanLeading then d.spanState E.spanState.SEARCH else d).relay port f lat →
        Gives (.syncFrameReceive port frame lat t) s (fun u =>
          u = ({ v with span := { v.span with lastValid := Nat.max s.dev.now t } } : Dev).takeFrame port f))
      ∧ (s.dev.spanLeading = false → fld f 2 1 = s.dev.pv P.spanMemberId 0 →
        Gives (.syncFrameReceive port frame lat t) s (fun u =>
          u.pv P.spanConflict 0 = 1 ∧ u.span.lastValid = Nat.max s.dev.now t))))
  ∧ (∀ (s : State) (port : Fin 2) (frame : Bytes) (lat t : Nat), s.dev.mode M.span = false →
    Gives (.syncFrameReceive port frame lat t) s (fun u => u = s.dev.at' t))
  ∧ (∀ (d : Dev) (f : Bytes), d.span.spare = none → 
    (d.newFrame f = true → d.takeFrame 0 f
      = ({ d with span := { d.span with primaryAt := some d.now, primaryBad := false } } : Dev).follow 0 f d.now)
    ∧ (d.newFrame f = false → d.takeFrame 0 f
      = { d with span := { d.span with primaryAt := some d.now, primaryBad := false } }
      ∧ d.takeFrame 1 f = d)
    ∧ (d.newFrame f = true → (∀ a, d.span.primaryAt = some a → a + us 1 < d.now) → d.takeFrame 1 f
      = ({ d with span := { d.span with primaryBad := false } } : Dev).follow 1 f d.now)
    ∧ (∀ a, d.newFrame f = true → d.span.primaryAt = some a → d.now ≤ a + us 1 → d.span.primaryBad = false →
      d.takeFrame 1 f = { d with span := { d.span with spare := some (f, d.now) } }))
  ∧ (∀ (d : Dev) (port lat : Nat) (f : Bytes), f.length = 96 →
    (fld f 1 1 = 31 → d.relay port f lat = d)
    ∧ (fld f 1 1 < 31 → fld f 92 4 = crc32c (f.take 92) → ∃ b : Bytes,
      Output.sync (1 - port) (b ++ le 4 (crc32c b)) ∈ (d.relay port f lat).out ∧ b.length = 92
      ∧ fld b 1 1 = fld f 1 1 + 1 ∧ fld b 20 4 = (fld f 20 4 + d.pv P.spanHopDelayPs port + lat) % 2 ^ 32
      ∧ ∀ i, i < 92 → i ≠ 1 → (i < 20 ∨ 24 ≤ i) → b[i]? = f[i]?))
  ∧ (∀ (s : State) (port : Fin 2) (slot : Bytes) (t : Nat), s.dev.mode M.span = true →
    fld (slice slot 0 16) 14 2 = crc16 ((slice slot 0 16).take 14) →
    (fld (slice slot 0 16) 0 1 = 0x11 → Gives (.serviceSlot port slot t) s (fun u =>
      u = (s.dev.at' t).askSlot port 0x12 (fld (slice slot 0 16) 2 2)
      ∧ (s.dev.span.slots.get [] port = [] → (s.dev.at' t).slotTurn port = true →
        Output.slot port (slotBytes 0x12 (s.dev.pv P.spanMemberId 0) (fld (slice slot 0 16) 2 2)
          ((Config.slotTurnaround (Nat.max s.dev.now t)).toNat % 2 ^ 32)) ∈ u.out)))
    ∧ (∀ n t0, fld (slice slot 0 16) 0 1 = 0x12 → s.dev.span.probes.get none port = some (n, t0) →
      fld (slice slot 0 16) 2 2 = n → (s.dev.span.hops.get (0, 0) port).1 < 15 →
      Gives (.serviceSlot port slot t) s (fun u =>
        u.span.probes.get none port = none
        ∧ u.span.hops.get (0, 0) port = ((s.dev.span.hops.get (0, 0) port).1 + 1, (s.dev.span.hops.get (0, 0) port).2
            + (((Nat.max s.dev.now t : Nat) : Int) - t0 - fld (slice slot 0 16) 4 4)))))
  ∧ (∀ (s : State) (port : Fin 2) (t : Nat), s.dev.mode M.span = true →
    (∀ t0, s.dev.span.probeAt.get none port = some t0 →
      t0 + (if s.dev.pv P.spanState 0 = E.spanState.LOCKING then us 1 else ms 1) ≤ Nat.max s.dev.now t) →
    Gives (.hopProbe port t) s (fun u =>
      u.span.probeNum = (s.dev.span.probeNum + 1) % 65536 ∧ u.span.probeAt.get none port = some (Nat.max s.dev.now t)
      ∧ (s.dev.span.slots.get [] port = [] → (s.dev.at' t).slotTurn port = true →
        Output.slot port (slotBytes 0x11 (s.dev.pv P.spanMemberId 0) s.dev.span.probeNum 0) ∈ u.out
        ∧ u.span.probes.get none port = some (s.dev.span.probeNum, Nat.max s.dev.now t))
      ∧ u = { s.dev.at' t with out := u.out, span := u.span }))
  ∧ (∀ (s : State) (t : Nat), s.dev.mode M.span = true → s.dev.spanLeading = false →
    s.dev.span.lastValid + us (s.dev.pv P.spanLossUs 0) ≤ Nat.max s.dev.now t →
    (s.dev.pv P.spanRole 0 ≠ E.spanRole.FOLLOWER → s.dev.pv P.spanConflict 0 = 0 →
      Gives (.spanLossTimeout t) s (fun u => u = (s.dev.at' t).spanLead))
    ∧ ((s.dev.pv P.spanRole 0 = E.spanRole.FOLLOWER ∨ s.dev.pv P.spanConflict 0 ≠ 0) →
      s.dev.pv P.spanState 0 ≠ E.spanState.LOST →
      Gives (.spanLossTimeout t) s (fun u => u = ((s.dev.at' t).spanKill.spanState E.spanState.LOST).fireAsync evSpanLost
        ∧ u.pv P.spanState 0 = E.spanState.LOST)))
  ∧ (∀ (s : State) (t : Nat), Nat.max s.dev.now t < s.dev.span.lastValid + us (s.dev.pv P.spanLossUs 0) →
    Gives (.spanLossTimeout t) s (fun u => u = s.dev.at' t))
  ∧ (∀ (s : State) (portB : Bool),
    (s.dev.pv P.rstRefSel 0 = 3 → s.dev.pv P.spanRefSrc 0 ≠ E.spanRefSrc.MEMS → Gives (.refSignalLoss portB) s (fun u =>
      u = s.dev.setP P.spanRefSrc 0 (if portB then E.spanRefSrc.PORT_B else E.spanRefSrc.MEMS)))
    ∧ ((s.dev.pv P.rstRefSel 0 ≠ 3 ∨ s.dev.pv P.spanRefSrc 0 = E.spanRefSrc.MEMS) →
      Gives (.refSignalLoss portB) s (fun u => u = s.dev)))

/-- The levels at the decoder's A and B inputs, each with the instant since which it holds, for levels `a` and `b` at the
balls: inverted, then swapped (R30). -/
def Sys2Proof.decoderIn (d : Dev) (e : Nat) (a b : Bool) (ta tb : Nat) : (Bool × Nat) × (Bool × Nat) :=
  if d.pv P.posEncSwapAb e = 1 then
    ((b != bit (d.pv P.posEncInvert e) 1, tb), (a != bit (d.pv P.posEncInvert e) 0, ta))
  else ((a != bit (d.pv P.posEncInvert e) 0, ta), (b != bit (d.pv P.posEncInvert e) 1, tb))

/-- Encoders: a change that has held for the filter time counts by one in the quadrature sequence; both inputs
changing within one filter interval is an error that counts nothing; a rising Z edge compares the count since the last
one with the period; open wires set LOS, except on TTL; the flags clear 1 ms after their condition ends (R30, R31,
R32, R33, R34). Completes (exec answers a next state): ENCODER_EDGE, Z_EDGE, LOS, ENC_FLAG_CLEAR. -/
def Obligations.Encoders : Prop :=
  (∀ a b : Bool, quadStep a b (!b) a = 1 ∧ quadStep a b b (!a) = -1 ∧ quadStep a b (!a) (!b) = 0 ∧ quadStep a b a b = 0)
  ∧ (∀ (x : Enc) (a b fast : Bool) (d : Int) (t : Nat), (x.step a b d t fast).count = x.count + d
      ∧ (x.step a b d t fast).t1 = t ∧ (x.step a b d t fast).t0 = x.t1 ∧ (x.step a b d t fast).d1 = d
      ∧ (x.step a b d t fast).d0 = x.d1 ∧ (x.step a b d t fast).a = a ∧ (x.step a b d t fast).b = b)
  ∧ (∀ (d : Dev) (e T : Nat) (a b : Bool) (k : Int), quadStep (d.enc e).a (d.enc e).b a b = k →
    (k = 0 → d.encEdge e a b T = d)
    ∧ (k ≠ 0 → ((d.enc e).d1 = 0 ∨ 20000 ≤ Nat.max T (d.enc e).t1 - (d.enc e).t1) → d.encEdge e a b T
      = ((d.setEnc e ((d.enc e).step a b k (Nat.max T (d.enc e).t1) false)).forEach (d.axesOf e) (fun v x =>
          v.edgeOnAxis e (Nat.max T (d.enc e).t1)
            (((d.enc e).count * 65536 * (d.pv P.posEncRatioNum e : Int)).fdiv (d.pv P.posEncRatioDen e)) x)).merTouch))
  ∧ (∀ (s : State) (e : Fin 8) (a b : Bool) (ta tb t : Nat) (A B : Bool × Nat) (w : Nat),
    s.dev.pv P.posEncStandard e ≠ E.posEncStandard.OFF → decoderIn s.dev e a b ta tb = (A, B) →
    w = 1000 * s.dev.pv P.posEncFilterNs e →
    ((s.dev.enc e).a = A.1 → (s.dev.enc e).b = B.1 →
      Gives (.encoderEdge e (a, ta) (b, tb) t) s (fun u => u = s.dev.at' t))
    ∧ ((s.dev.enc e).a ≠ A.1 → (s.dev.enc e).b = B.1 →
      (A.2 + w ≤ Nat.max s.dev.now t → Gives (.encoderEdge e (a, ta) (b, tb) t) s (fun u =>
        u = (s.dev.at' t).encEdge e A.1 (s.dev.enc e).b (tdc A.2)))
      ∧ (Nat.max s.dev.now t < A.2 + w → Gives (.encoderEdge e (a, ta) (b, tb) t) s (fun u => u = s.dev.at' t)))
    ∧ ((s.dev.enc e).a = A.1 → (s.dev.enc e).b ≠ B.1 →
      (B.2 + w ≤ Nat.max s.dev.now t → Gives (.encoderEdge e (a, ta) (b, tb) t) s (fun u =>
        u = (s.dev.at' t).encEdge e (s.dev.enc e).a B.1 (tdc B.2)))
      ∧ (Nat.max s.dev.now t < B.2 + w → Gives (.encoderEdge e (a, ta) (b, tb) t) s (fun u => u = s.dev.at' t)))
    ∧ ((s.dev.enc e).a ≠ A.1 → (s.dev.enc e).b ≠ B.1 → Nat.max A.2 B.2 < Nat.min A.2 B.2 + Nat.max 1 w →
      (Nat.max A.2 B.2 + w ≤ Nat.max s.dev.now t → Gives (.encoderEdge e (a, ta) (b, tb) t) s (fun u =>
        u.enc e = { s.dev.enc e with a := A.1, b := B.1, qAt := Nat.max s.dev.now t }
        ∧ (∀ j, j ≠ e.val → u.enc j = s.dev.enc j)
        ∧ u.pv P.posEncQerrCount e = countTo P.posEncQerrCount (s.dev.pv P.posEncQerrCount e + 1)
        ∧ bit (u.pv P.posEncStatus e) 0 = true
        ∧ u = { s.dev.at' t with encs := u.encs, frc := u.frc, mer := u.mer, streams := u.streams }))
      ∧ (Nat.max s.dev.now t < Nat.max A.2 B.2 + w →
        Gives (.encoderEdge e (a, ta) (b, tb) t) s (fun u => u = s.dev.at' t)))
    ∧ ((s.dev.enc e).a ≠ A.1 → (s.dev.enc e).b ≠ B.1 → A.2 + Nat.max 1 w ≤ B.2 → B.2 + w ≤ Nat.max s.dev.now t → ∀ v : Dev,
      v = (s.dev.at' t).encEdge e A.1 (s.dev.enc e).b (tdc A.2) → Gives (.encoderEdge e (a, ta) (b, tb) t) s (fun u =>
        u = v.encEdge e (v.enc e).a B.1 (tdc B.2))))
  ∧ (∀ (s : State) (e : Fin 8) (a b : Bool) (ta tb t : Nat), s.dev.pv P.posEncStandard e = E.posEncStandard.OFF →
    Gives (.encoderEdge e (a, ta) (b, tb) t) s (fun u => u = s.dev.at' t))
  ∧ (∀ (s : State) (e : Fin 8) (level : Bool) (tEdge t : Nat), s.dev.pv P.posEncStandard e ≠ E.posEncStandard.OFF →
    (Nat.max s.dev.now t < tEdge + 1000 * s.dev.pv P.posEncFilterNs e →
      Gives (.zEdge e (level, tEdge) t) s (fun u => u = s.dev.at' t))
    ∧ (tEdge + 1000 * s.dev.pv P.posEncFilterNs e ≤ Nat.max s.dev.now t →
      (level != bit (s.dev.pv P.posEncInvert e) 2) = true → (s.dev.enc e).z = false →
      Gives (.zEdge e (level, tEdge) t) s (fun u =>
        (u.enc e) = { s.dev.enc e with z := true, zAt := some (s.dev.enc e).count }
        ∧ (∀ c, (s.dev.enc e).zAt = some c → s.dev.pv P.posEncZPeriod e ≠ 0 →
          (bit (u.pv P.posEncStatus e) 3 = true ↔
            (s.dev.pv P.posEncZTol e : Int) < (((s.dev.enc e).count - c).natAbs - s.dev.pv P.posEncZPeriod e : Int).natAbs))
        ∧ u = { s.dev.at' t with encs := u.encs, frc := u.frc })))
  ∧ (∀ (s : State) (e : Fin 8) (t : Nat),
    (s.dev.pv P.posEncStandard e ∈ [E.posEncStandard.RS422, E.posEncStandard.HTL] → s.dev.encLos e = false →
      Gives (.los e t) s (fun u =>
        u = (((setEncBit (s.dev.at' t) e 1 true).setEnc e { s.dev.enc e with losEnd := none }).forEach (s.dev.axesOf e)
          (fun v x => v.losOn x e v.now)).merTouch))
    ∧ (s.dev.pv P.posEncStandard e = E.posEncStandard.TTL → Gives (.los e t) s (fun u => u = s.dev.at' t)))
  ∧ (∀ (s : State) (e : Fin 8) (openWire fast : Bool) (t : Nat), Gives (.encFlagClear e openWire fast t) s (fun u =>
    bit (u.pv P.posEncStatus e) 0
      = (bit (s.dev.pv P.posEncStatus e) 0 && !decide ((s.dev.enc e).qAt + ms 1 ≤ Nat.max s.dev.now t))
    ∧ (fast = true → bit (u.pv P.posEncStatus e) 2 = bit (s.dev.pv P.posEncStatus e) 2)
    ∧ (∀ i, fast = false → (s.dev.enc e).fastEnd = some i → bit (u.pv P.posEncStatus e) 2
      = (bit (s.dev.pv P.posEncStatus e) 2 && !decide (i + ms 1 ≤ Nat.max s.dev.now t)))
    ∧ (openWire = true → bit (u.pv P.posEncStatus e) 1 = bit (s.dev.pv P.posEncStatus e) 1)
    ∧ (∀ i, openWire = false → (s.dev.enc e).losEnd = some i → bit (u.pv P.posEncStatus e) 1
      = (bit (s.dev.pv P.posEncStatus e) 1 && !decide (i + ms 1 ≤ Nat.max s.dev.now t)))))

/-- Axes and triggers: a fused output resumes without a step once SLIP is cleared and the members agree; each µs an
axis takes its rates, a span axis those of the latest frame; a POSITION generator fires its next point no later than
its lead before the predicted instant, skips one too close to the last, and counts both; the firing error of a point
is checked at its target (R40, R44, R46, R48, R49, R50, R237). Completes (exec answers a next state): FUSION_RESUME,
AXIS_UPDATE, TRIGGER_SEND, FIRING_ERROR_CHECK. -/
def Obligations.AxesAndTriggers : Prop :=
  (∀ (s : State) (x : Fin 4) (t : Nat), s.dev.axisBit x slipBit = true →
    bit (s.dev.pv P.posAxisEvents x) slipBit = false → (s.dev.axis x).spanOk = true →
    (∀ e ∈ s.dev.members x, s.dev.encLos e = false) → s.dev.axisDead x = false → s.dev.follows x = false →
    Gives (.fusionResume x t) s (fun u =>
      u.axisBit x slipBit = false ∧ u.axisBit x lostBit = false
      ∧ (u.axis x).base = s.dev.localPos x (Nat.max s.dev.now t) ∧ (u.axis x).src = none
      ∧ (u.axis x).refs = s.dev.usOf (s.dev.members x) (Nat.max s.dev.now t)
      ∧ u = { s.dev.at' t with axes := u.axes, frc := u.frc }))
  ∧ (∀ (s : State) (x : Fin 4) (t : Nat), s.dev.axisBit x slipBit = false →
    Gives (.fusionResume x t) s (fun u => u = s.dev.at' t))
  ∧ (∀ (s : State) (x : Fin 4) (t : Nat) (v a : Int),
    (s.dev.follows x = false → (s.dev.at' t).rates x = (v, a) → Gives (.axisUpdate x t) s (fun u =>
      u.axis x = { s.dev.axis x with v := v, a := a } ∧ u.pv P.posAxisVelocity x = toTwos 32 v
      ∧ u = { s.dev.at' t with axes := u.axes, frc := u.frc, trigs := u.trigs }))
    ∧ (∀ f, s.dev.follows x = true → s.dev.span.last = some f → s.dev.spanLocked = true → (s.dev.axis x).spanDead = false →
      Gives (.axisUpdate x t) s (fun u =>
        u.axis x = { s.dev.axis x with v := f.vel.getD x 0, a := f.acc.getD x 0 }
        ∧ u.pv P.posAxisVelocity x = toTwos 32 (f.vel.getD x 0)
        ∧ u = { s.dev.at' t with axes := u.axes, frc := u.frc, trigs := u.trigs }))
    ∧ (s.dev.follows x = true → (s.dev.spanLocked = false ∨ (s.dev.axis x).spanDead = true) →
      Gives (.axisUpdate x t) s (fun u =>
        u.axis x = { s.dev.axis x with v := 0, a := 0 } ∧ u.pv P.posAxisVelocity x = 0
        ∧ u = { s.dev.at' t with axes := u.axes, frc := u.frc, trigs := u.trigs })))
  ∧ (∀ (s : State) (st : Fin 64) (t : Nat) (p : Int) (target : Nat), s.dev.trigLive st = true →
    s.dev.pv P.trigMode st = E.trigMode.POSITION → s.dev.axisStops ((s.dev.at' t).nextGrid st).1 = false →
    (s.dev.at' t).nextPoint st = some p →
    (s.dev.at' t).holdPlaced st p = false → (s.dev.at' t).pointAt st p = some target →
    (Nat.max s.dev.now t + 1000 * s.dev.pv P.trigLeadNs st < target → Gives (.triggerSend st t) s (fun u => u = s.dev.at' t))
    ∧ (target ≤ Nat.max s.dev.now t + 1000 * s.dev.pv P.trigLeadNs st →
      (s.dev.loopOf (s.dev.headOf st) ≠ E.laneLoop.FAR →
        (∀ t0, (s.dev.trig st).lastTarget = some t0 → t0 + 1000 * s.dev.pv P.trigMinIntervalNs st ≤ target) →
        Gives (.triggerSend st t) s (fun u =>
          u = ((s.dev.at' t).passPoint st p).fireTrig st ((s.dev.at' t).nextGrid st).1 target p
          ∧ u.pv P.trigFiredCount st = countTo P.trigFiredCount (s.dev.pv P.trigFiredCount st + 1)
          ∧ (u.stream st).expect = (s.dev.stream st).expect
              ++ [⟨countTo P.trigFiredCount (s.dev.pv P.trigFiredCount st + 1) % 2 ^ 32, p, target,
                  (s.dev.trig st).skipped, decide (target < Nat.max s.dev.now t + 800000)⟩]
          ∧ (u.trig st).lastTarget = some target ∧ (u.trig st).skipped = 0))
      ∧ ((s.dev.loopOf (s.dev.headOf st) = E.laneLoop.FAR
          ∨ ∃ t0, (s.dev.trig st).lastTarget = some t0 ∧ target < t0 + 1000 * s.dev.pv P.trigMinIntervalNs st) →
        Gives (.triggerSend st t) s (fun u =>
          u = ((s.dev.at' t).passPoint st p).skipPoint st
          ∧ u.pv P.trigOverrunCount st = countTo P.trigOverrunCount (s.dev.pv P.trigOverrunCount st + 1)
          ∧ (u.trig st).skipped = (s.dev.trig st).skipped + 1))))
  ∧ (∀ (s : State) (st : Fin 64) (t : Nat), s.dev.trigLive st = false →
    Gives (.triggerSend st t) s (fun u => u = s.dev.at' t))
  ∧ (∀ (s : State) (st : Fin 64) (t : Nat), s.dev.trigLive st = true →
    (s.dev.pv P.trigMode st = E.trigMode.TIME → Gives (.triggerSend st t) s (fun u => u = (s.dev.at' t).sendTime st))
    ∧ (s.dev.pv P.trigMode st ≠ E.trigMode.TIME → s.dev.pv P.trigMode st ≠ E.trigMode.POSITION →
      Gives (.triggerSend st t) s (fun u => u = s.dev.at' t)))
  ∧ (∀ (s : State) (st : Fin 64) (t target x mode : Nat) (p : Int), (s.dev.trig st).checks = [(target, p, x, mode)] →
    (Nat.max s.dev.now t < target → Gives (.firingErrorCheck st t) s (fun u =>
      u = (s.dev.at' t).setTrig st (s.dev.trig st)))
    ∧ (target ≤ Nat.max s.dev.now t → mode = E.trigMode.POSITION →
      Gives (.firingErrorCheck st t) s (fun u =>
        (u.trig st).checks = []
        ∧ u.pv P.trigErrMax st = (if s.dev.pv P.trigErrMax st < (posDiff (s.dev.axisPos x target) p).natAbs
            then countTo P.trigErrMax (posDiff (s.dev.axisPos x target) p).natAbs
            else s.dev.pv P.trigErrMax st)
        ∧ u = { s.dev.at' t with trigs := u.trigs, frc := u.frc }))
    ∧ (target ≤ Nat.max s.dev.now t → mode = E.trigMode.TIME →
      Gives (.firingErrorCheck st t) s (fun u =>
        (u.trig st).checks = []
        ∧ (u.stream st).expect = (s.dev.stream st).expect.map (fun e =>
            if e.target = target then { e with stamp := s.dev.axisPos x target } else e)
        ∧ u = { s.dev.at' t with trigs := u.trigs, streams := u.streams })))

/-- Field inputs and outputs: a level held for the debounce time is taken, and at a selected edge latches the axis and
fires its channel; a pulse starts at a marker point or an exposure, ends with its width, and none starts under HOLD;
the warm-hold count runs out to HELD_OFF; out of the VFIELD range every output is NO_SUPPLY, and back in it each
resumes what it was; a hot driver lets its ball go (R54, R56, R58, R59, R61, R344, R422, R423). Completes (exec
answers a next state): FIELD_INPUT_EDGE, MARKER_PULSE, STROBE_PULSE, PULSE_END, WARM_HOLD_EXPIRE, VFIELD_LOSS,
VFIELD_RESTORE, DRIVER_THERMAL_SHUTDOWN, DRIVER_COOLED. -/
def Obligations.FieldInputsAndOutputs : Prop :=
  (∀ (s : State) (i : Fin 16) (level : Bool) (tEdge t : Nat),
    (((s.dev.fin i).level = level ∨ Nat.max s.dev.now t < tEdge + us (s.dev.pv P.fiDebounceUs i)) →
      Gives (.fieldInputEdge i level tEdge t) s (fun u => u = s.dev.at' t))
    ∧ ((s.dev.fin i).level ≠ level → tEdge + us (s.dev.pv P.fiDebounceUs i) ≤ Nat.max s.dev.now t →
      (s.dev.pv P.fiEvent i = E.fiEvent.NONE → Gives (.fieldInputEdge i level tEdge t) s (fun u =>
        (u.fin i).level = level
        ∧ u.pv P.fiLevel i = b2n (level == (s.dev.pv P.fiPolarity i == E.fiPolarity.HIGH))
        ∧ u = { s.dev.at' t with ins := u.ins, frc := u.frc }))
      ∧ (s.dev.pv P.fiEvent i = E.fiEvent.BOTH → s.dev.inP E.pwrState.P4 = false →
        (∀ st, st < 64 → s.dev.pv P.trigMode st ≠ E.trigMode.INPUT) → Gives (.fieldInputEdge i level tEdge t) s (fun u =>
          (u.fin i).level = level
          ∧ u.pv P.fiLevel i = b2n (level == (s.dev.pv P.fiPolarity i == E.fiPolarity.HIGH))
          ∧ u.pv P.fiLatch i = toTwos 64 (s.dev.axisPos (s.dev.pv P.fiLatchAxis i) tEdge)
          ∧ (s.dev.listened (72 + i) = true →
            u.flight = s.dev.flight ++ [(72 + i.val, ⟨72 + i.val, (s.dev.duct (72 + i)).epoch, 0, false, 0,
              ((s.dev.at' t).tb : Int)⟩)])))))
  ∧ (∀ (s : State) (o : Fin 16) (t : Nat) (p : Int), s.dev.pv P.foFunction o = E.foFunction.MARKER →
    s.dev.axisStops (s.dev.pv P.foSource o) = false → (s.dev.at' t).markerPassed o = some p →
    (s.dev.foLive o = true → s.dev.foHeld = false → Gives (.markerPulse o t) s (fun u =>
      (u.fout o).high = some p
      ∧ (u.fout o).pulse = some (match (s.dev.fout o).pulse with
          | some q => Nat.max q (Nat.max s.dev.now t + 1000 * s.dev.pv P.foWidthNs o)
          | none => Nat.max s.dev.now t + 1000 * s.dev.pv P.foWidthNs o)))
    ∧ (s.dev.foHeld = true → Gives (.markerPulse o t) s (fun u =>
      u = (s.dev.at' t).setFout o { s.dev.fout o with high := some p })))
  ∧ (∀ (s : State) (o : Fin 16) (t start : Nat), s.dev.pv P.foFunction o = E.foFunction.STROBE →
    s.dev.pv P.trigMode (s.dev.pv P.foSource o) ≠ E.trigMode.FREE → (s.dev.fout o).due = [start] →
    start ≤ Nat.max s.dev.now t → s.dev.foLive o = true → (s.dev.fout o).pulse = none →
    Gives (.strobePulse o t) s (fun u =>
      (u.fout o).due = [] ∧ (u.fout o).pulse = some (start + 1000 * s.dev.pv P.foWidthNs o)))
  ∧ (∀ (s : State) (o : Fin 16) (t e : Nat), (s.dev.fout o).pulse = some e →
    (e ≤ Nat.max s.dev.now t → Gives (.pulseEnd o t) s (fun u => u.fout o = { s.dev.fout o with pulse := none }))
    ∧ (Nat.max s.dev.now t < e → Gives (.pulseEnd o t) s (fun u => u = s.dev.at' t)))
  ∧ (∀ (s : State) (o : Fin 16) (t : Nat), (s.dev.fout o).kept = .holding → (s.dev.fout o).holdEnd ≤ (s.dev.at' t).rt →
    Gives (.warmHoldExpire o t) s (fun u => u.fout o = { s.dev.fout o with
        kept := .heldOff, expired := some (s.dev.fout o).holdEnd }
      ∧ (s.dev.rst.vfieldOk = true → u.pv P.foState o = E.foState.HELD_OFF)
      ∧ (s.dev.rst.vfieldOk = true → 5000 ≤ s.dev.rst.vfieldMv → (s.dev.fout o).shut = false → s.dev.isComplement o = false →
        Output.drive o (2 + b2n (s.dev.offLevel o)) ∈ u.out)))
  ∧ (∀ (s : State) (mv t : Nat), (mv < 9000 ∨ 33000 < mv) → Gives (.vfieldLoss mv t) s (fun u =>
    u.rst = { s.dev.rst with vfieldOk := false, vfieldMv := mv } ∧ u.outs = s.dev.outs
    ∧ ∀ o, o < 16 → u.pv P.foState o = E.foState.NO_SUPPLY))
  ∧ (∀ (s : State) (mv t : Nat), 9000 ≤ mv → mv ≤ 33000 → s.dev.rst.vfieldOk = false →
    Gives (.vfieldRestore mv t) s (fun u =>
      u.rst = { s.dev.rst with vfieldOk := true, vfieldMv := mv }
      ∧ ∀ o, o < 16 →
        (u.fout o).kept = (if (s.dev.fout o).kept = .holding ∧ (s.dev.fout o).holdEnd ≤ (s.dev.at' t).rt then .heldOff
          else (s.dev.fout o).kept)
        ∧ u.pv P.foState o = (match (u.fout o).kept with
          | .heldOff => E.foState.HELD_OFF
          | .holding => E.foState.HOLDING
          | .released => E.foState.RELEASED)))
  ∧ (∀ (s : State) (o : Fin 16) (t : Nat), (s.dev.fout o).shut = false → Gives (.driverThermalShutdown o t) s (fun u =>
    u.fout o = { s.dev.fout o with shut := true }
    ∧ u = ((s.dev.at' t).withFo (fun d => d.setFout o { d.fout o with shut := true })).addLog 8 0 (16 + o) 0))
  ∧ (∀ (s : State) (o : Fin 16), Gives (.driverCooled o) s (fun u =>
    u.fout o = { s.dev.fout o with shut := false } ∧ u.rst = s.dev.rst
    ∧ ∀ p, p ≠ o.val → u.fout p = s.dev.fout p))

/-- The device once length channel `ch`'s level is taken. -/
def Sys2Proof.leveled (d : Dev) (ch : Nat) (level : Bool) : Dev :=
  { d with mer := { d.mer with lenLevel := d.mer.lenLevel.set false ch level, lenRaw := d.mer.lenRaw.set none ch none } }

/-- SEAL_ADJ_N has held its level since `tEdge` for the 10 ms it is debounced by, counted in rt (R67). -/
def Sys2Proof.sealHeld (d : Dev) (tEdge t : Nat) : Prop := tEdge / psPerRt + 1562500 ≤ (d.at' t).rt

/-- The seal: SEAL_ADJ_N, once it has held its level for 10 ms, opens it, once two audit entries are free, and closes
it again with the configuration's digest; each writes one audit entry. A length input that holds its level starts and
ends LENGTH records by its channel's mode. The quad is attested when all four digests agree; the debug line sets the
flag of records in progress (R66, R67, R69, R72, R74, R76, R80, R82, R89). Completes (exec answers a next state):
SEAL_CHANGE, LENGTH_INPUT_EDGE, QUAD_ATTEST, DEBUG_LEVEL_CHANGE. -/
def Obligations.MeridianSeal : Prop :=
  (∀ (s : State) (b : Bool) (tEdge t : Nat), (s.dev.mer.sealPin = b ∨ ¬ sealHeld s.dev tEdge t) →
    Gives (.sealChange (b, tEdge) t) s (fun u => u = s.dev.at' t))
  ∧ (∀ (s : State) (tEdge t : Nat), s.dev.mer.sealPin = false → sealHeld s.dev tEdge t →
    ((s.dev.seal = E.merSealState.UNSEALED ∨ (s.dev.sealClosed = true ∧ 2 ≤ s.dev.auditFree)) →
      Gives (.sealChange (true, tEdge) t) s (fun u =>
        u.seal = E.merSealState.ADJUSTING ∧ u.mer.sealPin = true
        ∧ u.mer.audit.length = s.dev.mer.audit.length + 1
        ∧ u.pv P.merEventCounter 0 = s.dev.pv P.merEventCounter 0 + 1
        ∧ u.pv P.merAuditUsed 0 = s.dev.mer.audit.length + 1
        ∧ u = { s.dev.at' t with mer := u.mer, frc := u.frc, streams := u.streams }))
    ∧ (s.dev.seal ≠ E.merSealState.UNSEALED → (s.dev.sealClosed = false ∨ s.dev.auditFree < 2) →
      Gives (.sealChange (true, tEdge) t) s (fun u =>
        u = { s.dev.at' t with mer := { s.dev.mer with sealPin := true } })))
  ∧ (∀ (s : State) (tEdge t : Nat), s.dev.mer.sealPin = true → sealHeld s.dev tEdge t →
    (s.dev.adjusting = true → Gives (.sealChange (false, tEdge) t) s (fun u =>
      u.seal = E.merSealState.SEALED ∧ u.mer.sealPin = false ∧ u.pv P.merCalDigest 0 = s.dev.calDigest
      ∧ u.mer.audit.length = s.dev.mer.audit.length + 1
      ∧ u.pv P.merEventCounter 0 = s.dev.pv P.merEventCounter 0 + 1
      ∧ u = { s.dev.at' t with mer := u.mer, frc := u.frc, streams := u.streams }))
    ∧ (s.dev.adjusting = false → Gives (.sealChange (false, tEdge) t) s (fun u =>
      u = { s.dev.at' t with mer := { s.dev.mer with sealPin := false } })))
  ∧ (∀ (s : State) (ch : Fin 4) (level : Bool) (tEdge t : Nat),
    (s.dev.mer.lenLevel.get false ch = level → Gives (.lengthInputEdge ch level tEdge t) s (fun u =>
      u = ({ s.dev.at' t with mer := { s.dev.mer with lenRaw := s.dev.mer.lenRaw.set none ch none } } : Dev).settleRecords))
    ∧ (s.dev.mer.lenLevel.get false ch ≠ level → Nat.max s.dev.now t < tEdge + us (s.dev.pv P.merLenDebounceUs ch) →
      Gives (.lengthInputEdge ch level tEdge t) s (fun u =>
        u = { s.dev.at' t with mer := { s.dev.mer with lenRaw := s.dev.mer.lenRaw.set none ch (some (level, tEdge)) } }))
    ∧ (s.dev.mer.lenLevel.get false ch ≠ level →
      tEdge + us (s.dev.pv P.merLenDebounceUs ch) ≤ Nat.max s.dev.now t →
      ((s.dev.pv P.merLenMode ch = E.merLenMode.OFF ∨ s.dev.pv P.merLenMode ch = E.merLenMode.INTERVAL) →
        Gives (.lengthInputEdge ch level tEdge t) s (fun u => u = (leveled (s.dev.at' t) ch level).settleRecords))
      ∧ (s.dev.pv P.merLenMode ch = E.merLenMode.SHEET →
        ((level == (s.dev.pv P.merLenPolarity ch == E.merLenPolarity.HIGH)) = true →
          Gives (.lengthInputEdge ch level tEdge t) s (fun u =>
            u = (((leveled (s.dev.at' t) ch level).lenEnd ch (s.dev.axisPos (s.dev.pv P.merLenAxis ch) tEdge) tEdge).lenStart
                ch (s.dev.axisPos (s.dev.pv P.merLenAxis ch) tEdge)).settleRecords))
        ∧ ((level == (s.dev.pv P.merLenPolarity ch == E.merLenPolarity.HIGH)) = false →
          Gives (.lengthInputEdge ch level tEdge t) s (fun u => u = (leveled (s.dev.at' t) ch level).settleRecords)))
      ∧ (s.dev.pv P.merLenMode ch = E.merLenMode.COIL →
        ((level == (s.dev.pv P.merLenPolarity ch == E.merLenPolarity.HIGH)) = true →
          ((s.dev.openLenOf ch).isSome = true →
            Gives (.lengthInputEdge ch level tEdge t) s (fun u => u = (leveled (s.dev.at' t) ch level).settleRecords))
          ∧ (s.dev.openLenOf ch = none → s.dev.mode M.legal = true → s.dev.follows (s.dev.pv P.merLenAxis ch) = false →
            s.dev.mer.starved.get false ch = false → s.dev.mer.due = [] → Gives (.lengthInputEdge ch level tEdge t) s (fun u =>
              u.openLenOf ch = some ⟨s.dev.axisPos (s.dev.pv P.merLenAxis ch) tEdge,
                s.dev.devFlags ||| s.dev.axisFlags (s.dev.pv P.merLenAxis ch)⟩
              ∧ u = { s.dev.at' t with mer := u.mer })))
        ∧ ((level == (s.dev.pv P.merLenPolarity ch == E.merLenPolarity.HIGH)) = false →
          ∀ o, s.dev.openLenOf ch = some o → s.dev.mer.due = [] →
            (s.dev.follows (s.dev.pv P.merLenAxis ch) = true → Gives (.lengthInputEdge ch level tEdge t) s (fun u =>
              u.openLenOf ch = none ∧ u.mer.records = s.dev.mer.records))
            ∧ (s.dev.follows (s.dev.pv P.merLenAxis ch) = false → s.dev.mer.erased = false →
              (∀ c, c ≠ ch.val → s.dev.mer.lenRaw.get none c = none) → s.dev.pv P.merRecordSeq 0 < 2 ^ 32 →
              (s.dev.mer.records.get [] ((s.dev.pv P.merRecordSeq 0 + 2 ^ 32 - 1) % 2 ^ 32 % 1280) = []
                ∨ fld (s.dev.mer.records.get [] ((s.dev.pv P.merRecordSeq 0 + 2 ^ 32 - 1) % 2 ^ 32 % 1280)) 40 8
                    ≠ tEdge / psPerRt) →
              (s.dev.slotFree = true → Gives (.lengthInputEdge ch level tEdge t) s (fun u =>
                u.openLenOf ch = none
                ∧ u.pv P.merRecordSeq 0 = (s.dev.pv P.merRecordSeq 0 + 1) % 2 ^ 32
                ∧ u.mer.records.get [] (s.dev.pv P.merRecordSeq 0 % 1280) = (s.dev.at' t).signed 1
                    (o.flags ||| s.dev.devFlags ||| s.dev.axisFlags (s.dev.pv P.merLenAxis ch))
                    (s.dev.pv P.merRecordSeq 0) ch (s.dev.pv P.merLenAxis ch) o.start
                    (s.dev.axisPos (s.dev.pv P.merLenAxis ch) tEdge)
                    (s.dev.lengthNm (s.dev.pv P.merLenAxis ch) o.start
                      (s.dev.axisPos (s.dev.pv P.merLenAxis ch) tEdge)) 0 0 tEdge
                ∧ u.int1.get false 12 = true))
              ∧ (s.dev.slotFree = false → Gives (.lengthInputEdge ch level tEdge t) s (fun u =>
                u.openLenOf ch = none ∧ u.mer.starved.get false ch = true ∧ u.mer.records = s.dev.mer.records
                ∧ u.pv P.merStoreLost 0 = countTo P.merStoreLost (s.dev.pv P.merStoreLost 0 + 1)
                ∧ u.int1.get false 13 = true)))))))
  ∧ (∀ (s : State) (t : Nat),
    ((s.dev.quadRegistered = false ∨ ∃ n ∈ quadNibs (s.dev.pv P.merQuadIndex 0), s.dev.nibSt n = E.nibState.LOADING) →
      Gives (.quadAttest t) s (fun u => u = s.dev.at' t))
    ∧ (s.dev.quadRegistered = true →
      (∀ n ∈ quadNibs (s.dev.pv P.merQuadIndex 0), s.dev.nibSt n ≠ E.nibState.LOADING) →
      s.dev.mer.attestAt + secs 1 ≤ Nat.max s.dev.now t →
      ((∀ i, i < 4 → s.dev.nibDigest (s.dev.pv P.merQuadIndex 0) i = s.dev.regDigest) →
        Gives (.quadAttest t) s (fun u =>
          u.pv P.merQuadState 0 = E.merQuadState.ATTESTED
          ∧ u = { s.dev.at' t with
              frc := u.frc, mer := { s.dev.mer with attestDue := false, attestAt := Nat.max s.dev.now t } }))
      ∧ ((∃ i, i < 4 ∧ s.dev.nibDigest (s.dev.pv P.merQuadIndex 0) i ≠ s.dev.regDigest) →
        Gives (.quadAttest t) s (fun u =>
          u.pv P.merQuadState 0 = E.merQuadState.QUAD_UNATTESTED
          ∧ (s.dev.pv P.merQuadState 0 ≠ E.merQuadState.QUAD_UNATTESTED → u.int1.get false 14 = true)))))
  ∧ (∀ (s : State) (t : Nat), Gives (.debugLevelChange t) s (fun u =>
    u = ({ s.dev.at' t with sec := { s.dev.sec with merLevel := s.dev.activeLevel } } : Dev).merTouch
    ∧ u.sec.merLevel = s.dev.activeLevel))

/-- Meridian's commands: identity, adjustment, quad registration, records, acknowledgement, the audit trail and
verification (R66, R69, R79, R80, R81, R87, R325, R440, R441). Completes (exec answers a next state): MER_IDENT,
MER_ADJUST, MER_QUAD_REGISTER, MER_RECORD_GET, MER_ACK, MER_AUDIT_READ, MER_VERIFY. -/
def Obligations.MeridianCommands : Prop :=
  (∀ (s : State) (m : Fin 21) (r : Req), MayRun s.dev m 0x0060 r →
    Answers (.merIdent m) s s.dev m r C.ok false
      ([0x4D, 0x52, 0x44, 0] ++ le 2 s.dev.merFw.1 ++ le 1 s.dev.seal ++ le 1 (s.dev.pv P.merQuadIndex 0)
        ++ slice s.dev.merFw.2 0 32 ++ le 4 (s.dev.pv P.merEventCounter 0) ++ le 8 (s.dev.pv P.merCalDigest 0)
        ++ le 8 Config.serial.toNat ++ s.dev.regDigest) 0)
  ∧ (∀ (s : State) (m : Fin 21) (t : Nat) (r : Req), MayRun s.dev m 0x0061 r →
    (paramRow (fld r.pay 0 2) = none → Refuses (.merAdjust m t) s (s.dev.at' t) m r C.badParam)
    ∧ ∀ row, paramRow (fld r.pay 0 2) = some row →
      (fld r.pay 0 2 ∉ adjustIds → Refuses (.merAdjust m t) s (s.dev.at' t) m r C.badValue)
      ∧ (fld r.pay 0 2 ∈ adjustIds →
        ((row.inst ≤ fld r.pay 2 2 ∨ row.words ≤ fld r.pay 4 1) →
          Refuses (.merAdjust m t) s (s.dev.at' t) m r C.badInstance)
        ∧ (fld r.pay 2 2 < row.inst → fld r.pay 4 1 < row.words →
          (row.accepts (fld r.pay 8 8) = false → Refuses (.merAdjust m t) s (s.dev.at' t) m r C.badValue)
          ∧ (row.accepts (fld r.pay 8 8) = true →
            (s.dev.sealCode 1 ≠ C.ok → Refuses (.merAdjust m t) s (s.dev.at' t) m r (s.dev.sealCode 1))
            ∧ (s.dev.sealCode 1 = C.ok →
              (252 < (s.dev.setP (fld r.pay 0 2) (fld r.pay 2 2) (fld r.pay 8 8)).calKeys.length →
                Refuses (.merAdjust m t) s (s.dev.at' t) m r C.noResource)
              ∧ ((s.dev.setP (fld r.pay 0 2) (fld r.pay 2 2) (fld r.pay 8 8)).calKeys.length ≤ 252 →
                Gives (.merAdjust m t) s (fun u =>
                  Ended u m r C.ok true [] 0 0
                  ∧ u.pv (fld r.pay 0 2) (fld r.pay 2 2) = fld r.pay 8 8
                  ∧ u.mer.audit.length = s.dev.mer.audit.length + (if s.dev.adjusting = true then 1 else 0)
                  ∧ (s.dev.pv (fld r.pay 0 2) (fld r.pay 2 2) ≠ fld r.pay 8 8 →
                    ∀ c ∈ s.dev.channelsOf (fld r.pay 0 2) (fld r.pay 2 2), u.openLenOf c = none)
                  ∧ (if fld s.dev.mer.calA 4 4 ≤ fld s.dev.mer.calB 4 4 then u.mer.calB = s.dev.mer.calB
                    else u.mer.calA = s.dev.mer.calA))))))))
  ∧ (∀ (s : State) (m : Fin 21) (t : Nat) (r : Req), MayRun s.dev m 0x0062 r →
    ((23 < fld r.pay 0 1 ∨ 3 < fld r.pay 1 1) →
      Refuses (.merQuadRegister m t) s (s.dev.at' t) m r C.badValue)
    ∧ (fld r.pay 0 1 ≤ 23 → fld r.pay 1 1 ≤ 3 →
      (s.dev.sealCode 1 ≠ C.ok → Refuses (.merQuadRegister m t) s (s.dev.at' t) m r (s.dev.sealCode 1))
      ∧ (s.dev.sealCode 1 = C.ok →
        (((s.dev.setP P.merQuadIndex 0 (fld r.pay 0 1)).setP P.merQuadWeb 0 (fld r.pay 1 1)).forEach (List.range 4)
            (fun d i => d.setP P.merQuadDigest i (fld r.pay (16 + 8 * i) 8))).calKeys.length ≤ 252 →
        Gives (.merQuadRegister m t) s (fun u =>
          Ended u m r C.ok true [] 0 0
          ∧ u.pv P.merQuadIndex 0 = fld r.pay 0 1 ∧ u.pv P.merQuadWeb 0 = fld r.pay 1 1
          ∧ (∀ i, i < 4 → u.pv P.merQuadDigest i = fld r.pay (16 + 8 * i) 8)
          ∧ u.pv P.merQuadState 0 = E.merQuadState.NONE ∧ u.mer.attestDue = true
          ∧ u.mer.audit.length = s.dev.mer.audit.length + (if s.dev.adjusting = true then 1 else 0)))))
  ∧ (∀ (s : State) (m : Fin 21) (r : Req), MayRun s.dev m 0x0064 r →
    (s.dev.recordAt (fld r.pay 0 4) = none → Answers (.merRecordGet m) s s.dev m r C.ok false [] 0)
    ∧ ∀ a, s.dev.recordAt (fld r.pay 0 4) = some a →
      (s.dev.recordAt ((fld r.pay 0 4 + 1) % 2 ^ 32) = none → Answers (.merRecordGet m) s s.dev m r C.ok false a 1)
      ∧ ∀ b, s.dev.recordAt ((fld r.pay 0 4 + 1) % 2 ^ 32) = some b →
        Answers (.merRecordGet m) s s.dev m r C.ok false (a ++ b) 2)
  ∧ (∀ (s : State) (m : Fin 21) (r : Req), MayRun s.dev m 0x0065 r →
    (ofTwos 32 (s.dev.pv P.merRecordSeq 0 + 2 ^ 32 - fld r.pay 0 4) ≤ 0 → Refuses (.merAck m) s s.dev m r C.badValue)
    ∧ (0 < ofTwos 32 (s.dev.pv P.merRecordSeq 0 + 2 ^ 32 - fld r.pay 0 4) →
      (ofTwos 32 (fld r.pay 0 4 + 2 ^ 32 - s.dev.mer.acked) < 0 → Answers (.merAck m) s s.dev m r C.ok false [] 0)
      ∧ (0 ≤ ofTwos 32 (fld r.pay 0 4 + 2 ^ 32 - s.dev.mer.acked) → Gives (.merAck m) s (fun u =>
        Ended u m r C.ok true [] 0 0
        ∧ u.mer = { s.dev.mer with acked := (fld r.pay 0 4 + 1) % 2 ^ 32, lenPrev := u.mer.lenPrev }
        ∧ (∀ c, c < 4 → u.mer.lenPrev.get none c = (if (s.dev.openLenOf c).isSome = true then s.dev.mer.lenPrev.get none c
            else some (s.dev.axisPos (s.dev.pv P.merLenAxis c) s.dev.now)))
        ∧ u.pv P.merStoreUnacked 0 = u.unacked
        ∧ OnlyAnswers { s.dev with mer := u.mer, frc := u.frc } u m))))
  ∧ (∀ (s : State) (m : Fin 21) (r : Req), MayRun s.dev m 0x0066 r →
    Answers (.merAuditRead m) s s.dev m r C.ok false
      (slice ((s.dev.mer.audit.drop (fld r.pay 0 4)).take 3).flatten 0 192 ++ le 1 (b2n (!s.dev.chainValid)))
      ((s.dev.mer.audit.drop (fld r.pay 0 4)).take 3).length)
  ∧ (∀ (s : State) (m : Fin 21) (r : Req), MayRun s.dev m 0x0067 r →
    Answers (.merVerify m) s s.dev m r C.ok false []
      (b2n (!(!s.dev.mer.erased && hmac (keyBytes Config.recordKey) (slice r.pay 0 64) == slice r.pay 64 32))))

/-- Nib `n` has been fenced: it is FENCED, holds no tile, and every grant it had is reclaimed and counted; the other nibs
are as they were (R188, R210, R211). -/
def Sys2Proof.FencedNow (d u : Dev) (n : Nat) : Prop :=
  u.nibSt n = E.nibState.FENCED
  ∧ (u.nib n).bufA = none ∧ (u.nib n).bufB = none ∧ (u.nib n).halted = false
  ∧ u.ledger = d.ledger.filter (fun g => g.nib != n)
  ∧ u.pv P.ephLedgerReclaimCount 0
      = countTo P.ephLedgerReclaimCount (d.pv P.ephLedgerReclaimCount 0 + (d.ledger.filter (fun g => g.nib == n)).length)
  ∧ ∀ m, m ≠ n → u.nib m = d.nib m

/-- The one tile that nib `n` held is placed for replay, or reported once its replays are used up; no quad is registered
and nothing of the tile had gone out (R206, R208). -/
def Sys2Proof.Replayed (d u : Dev) (n : Nat) : Prop :=
  ∀ no T, (d.nib n).held = [no] → d.tile no = some T → T.released = 0 → d.regQuad = none →
    (T.replays < d.pv P.ephReplayLimit 0 →
      u.tile no = some { T with st := .replay, result := none, failed := n :: T.failed, since := u.now } ∧ u.mode M.replay = true)
    ∧ (d.pv P.ephReplayLimit 0 ≤ T.replays →
      u.tile no = some { T with st := .gap 1, result := none, failed := n :: T.failed })

/-- A nib's life: it starts a dispatched tile with the registers of R158, loads its slot's program, parks under QUIET,
and is fenced when it hangs, misses its time or is reset; a march test lets it load again or keeps it fenced (R158,
R178, R180, R185, R186, R188, R205, R206, R211, R341). Completes (exec answers a next state): NIB_RESET, TILE_START,
TILE_TIMEOUT, NIB_HANG, NIB_RELOAD, RELOAD_COMPLETE, MARCH_TEST_DONE, NIB_PARK. -/
def Obligations.NibLifecycle : Prop :=
  (∀ (s : State) (n : Fin 96) (t : Nat) (p : Prog) (b : Bool),
    (s.dev.nibSt n = E.nibState.IDLE ∨ s.dev.nibSt n = E.nibState.PARKED) → (s.dev.nib n).running = false →
    (s.dev.nib n).reload = false → (s.dev.nib n).prog = some p → (s.dev.nib n).nextBuf = some b →
    Gives (.tileStart n t) s (fun u =>
      u.nibSt n = E.nibState.BUSY
      ∧ (u.nib n).running = true ∧ (u.nib n).curB = b ∧ (u.nib n).pc = p.entry
      ∧ (u.nib n).status = 0 ∧ (u.nib n).loops = [] ∧ (u.nib n).icount = 0 ∧ (u.nib n).recs = [] ∧ (u.nib n).wouts = []
      ∧ (u.nib n).s 1 = (if b then 0x13F00 else 0x13E00) ∧ (u.nib n).s 2 = (if b then 0x34000 else 0x14000)
      ∧ (u.nib n).s 3 = 0x54000 ∧ (u.nib n).s 4 = 0x74000
      ∧ (∀ r, r = 0 ∨ 4 < r → (u.nib n).s r = 0) ∧ (∀ r, (u.nib n).vr r = 0) ∧ (∀ r, (u.nib n).mr r = 0)
      ∧ (∀ k e, (u.nib n).ar k e = 0)
      ∧ u = { s.dev.at' t with nibs := u.nibs, frc := u.frc }
      ∧ ∀ m, m ≠ n.val → u.nib m = s.dev.nib m))
  ∧ (∀ (s : State) (n : Fin 96) (t : Nat),
    ((s.dev.nib n).nextBuf = none ∨ (s.dev.nib n).running = true ∨ (s.dev.nib n).prog = none
      ∨ (s.dev.nib n).reload = true) →
    Gives (.tileStart n t) s (fun u => u = s.dev.at' t))
  ∧ (∀ (s : State) (n : Fin 96),
    (s.dev.mayReload n = false → Gives (.nibReload n) s (fun u => u = s.dev))
    ∧ (s.dev.mayReload n = true →
      ((s.dev.quadReload n = false ∨ (s.dev.nib n).reload = true) → Gives (.nibReload n) s (fun u =>
        u = s.dev.startReload n ∧ u.nibSt n = E.nibState.LOADING
        ∧ u.pv P.nibSlot n = (if s.dev.sameReload n then s.dev.pv P.nibSlot n else s.dev.ak (pkey P.nibSlot n 0))))
      ∧ (s.dev.quadReload n = true → (s.dev.nib n).reload = false → Gives (.nibReload n) s (fun u =>
        ∀ m ∈ quadOf n, u.nibSt m = (if s.dev.mayReload m = true then E.nibState.LOADING else s.dev.nibSt m)))))
  ∧ (∀ (s : State) (n : Fin 96) (t : Nat),
    (s.dev.nibSt n ≠ E.nibState.LOADING → Gives (.reloadComplete n t) s (fun u => u = s.dev.at' t))
    ∧ (s.dev.nibSt n = E.nibState.LOADING → Gives (.reloadComplete n t) s (fun u =>
      u.nibSt n = E.nibState.IDLE
      ∧ (s.dev.sameReload n = false → s.dev.pv P.nibSlot n < 32 → u.nib n = { s.dev.nib n with
          prog := s.dev.progOfLoad (s.dev.pv P.nibSlot n) (s.dev.wantLoad n)
          const := (match s.dev.progOfLoad (s.dev.pv P.nibSlot n) (s.dev.wantLoad n) with
            | some p => p.constOf n
            | none => [])
          old := (s.dev.nib n).region0
          slot := s.dev.pv P.nibSlot n, loadNo := s.dev.wantLoad n, reload := false, marching := false
          poison := (s.dev.nib n).poison.keep (fun w => decide (0x13E00 / 32 ≤ w))
          idleSince := Nat.max s.dev.now t, pc := 0 })
      ∧ (s.dev.sameReload n = true → (s.dev.nib n).slot < 32 → u.nib n = { s.dev.nib n with
          const := (match (s.dev.nib n).prog with | some p => p.constOf n | none => [])
          old := (s.dev.nib n).region0, reload := false, marching := false
          poison := (s.dev.nib n).poison.keep (fun w => decide (0x13E00 / 32 ≤ w))
          idleSince := Nat.max s.dev.now t, pc := 0 })
      ∧ (∀ m, m < 21 → (s.dev.mb m).wait = .nib n → (s.dev.mb m).st = .running →
        (u.mb m).st = .complete ∧ (u.mb m).code = C.ok ∧ (u.mb m).effect = true))))
  ∧ (∀ (s : State) (n : Fin 96) (pass : Bool) (t : Nat),
    ((s.dev.nib n).marching = false → Gives (.marchTestDone n pass t) s (fun u => u = s.dev.at' t))
    ∧ ((s.dev.nib n).marching = true → s.dev.nibSt n = E.nibState.FENCED →
      Gives (.marchTestDone n true t) s (fun u =>
        u.nibSt n = E.nibState.LOADING
        ∧ u.nib n = { s.dev.nib n with
            marching := false, reload := true, poison := .empty, faults := [], running := false })
      ∧ Gives (.marchTestDone n false t) s (fun u =>
        u.nibSt n = E.nibState.FENCED ∧ u.pv P.nibLastFault n = E.nibLastFault.SELFTEST
        ∧ u.nib n = { s.dev.nib n with marching := false }
        ∧ (∀ m, m < 21 → (s.dev.mb m).wait = .nib n → (s.dev.mb m).st = .running →
          (u.mb m).st = .complete ∧ (u.mb m).code = C.selftest ∧ (u.mb m).effect = true))))
  ∧ (∀ (s : State) (n : Fin 96) (t : Nat),
    (s.dev.mode M.quiet = true → s.dev.nibSt n = E.nibState.IDLE → (s.dev.nib n).held = [] → (s.dev.nib n).halted = false →
      (∀ T ∈ s.dev.tiles, T.waits = true → s.dev.nibTakes n T.slot T.load = false) → s.dev.needsReload n = false →
      (s.dev.nib n).idleSince + us (s.dev.pv P.modeQuietParkUs 0) ≤ Nat.max s.dev.now t →
      (s.dev.mode M.legal = false ∨ s.dev.inRegQuad n = false) → Gives (.nibPark n t) s (fun u =>
        u = ((s.dev.at' t).setNibSt n E.nibState.PARKED).addTrace 2 n ∧ u.nibSt n = E.nibState.PARKED))
    ∧ (s.dev.mode M.quiet = false → Gives (.nibPark n t) s (fun u => u = s.dev.at' t)))
  ∧ (∀ (s : State) (n : Fin 96) (t no : Nat), s.dev.nibSt n = E.nibState.BUSY → (s.dev.nib n).running = true →
    (s.dev.nib n).halted = false → (s.dev.nib n).cur = some no →
    ((s.dev.nib n).lastInstr + us (s.dev.pv P.nibHangUs 0) ≤ Nat.max s.dev.now t → Gives (.nibHang n t) s (fun u =>
      u.pv P.nibLastFault n = E.nibLastFault.HANG
      ∧ u.pv P.nibFaultCount n = countTo P.nibFaultCount (s.dev.pv P.nibFaultCount n + 1)
      ∧ FencedNow s.dev u n ∧ Replayed s.dev u n))
    ∧ (Nat.max s.dev.now t < (s.dev.nib n).lastInstr + us (s.dev.pv P.nibHangUs 0) →
      Gives (.nibHang n t) s (fun u => u = s.dev.at' t)))
  ∧ (∀ (s : State) (n : Fin 96) (t : Nat), s.dev.nibSt n ≠ E.nibState.FENCED → (s.dev.nib n).halted = false →
    (((s.dev.nib n).bufA.isSome = true ∧ (s.dev.nib n).sentA + us (s.dev.pv P.ephTileTimeoutUs 0) ≤ Nat.max s.dev.now t)
      ∨ ((s.dev.nib n).bufB.isSome = true
        ∧ (s.dev.nib n).sentB + us (s.dev.pv P.ephTileTimeoutUs 0) ≤ Nat.max s.dev.now t) →
      Gives (.tileTimeout n t) s (fun u => FencedNow s.dev u n ∧ Replayed s.dev u n))
    ∧ ((s.dev.nib n).held = [] → Gives (.tileTimeout n t) s (fun u => u = s.dev.at' t)))
  ∧ (∀ (s : State) (m : Fin 21) (t : Nat) (r : Req), MayRun s.dev m 0x0042 r →
    (96 ≤ fld r.pay 0 1 → Refuses (.nibReset m t) s (s.dev.at' t) m r C.badValue)
    ∧ (fld r.pay 0 1 < 96 → s.dev.nibSt (fld r.pay 0 1) ≠ E.nibState.FENCED → Gives (.nibReset m t) s (fun u =>
      FencedNow s.dev u (fld r.pay 0 1) ∧ Replayed s.dev u (fld r.pay 0 1)
      ∧ (u.nib (fld r.pay 0 1)).marching = true
      ∧ (u.mb m).st = .running ∧ (u.mb m).wait = .nib (fld r.pay 0 1) ∧ (u.mb m).effect = true))
    ∧ (fld r.pay 0 1 < 96 → s.dev.nibSt (fld r.pay 0 1) = E.nibState.FENCED → Gives (.nibReset m t) s (fun u =>
      u = ((s.dev.at' t).setNib (fld r.pay 0 1) { s.dev.nib (fld r.pay 0 1) with marching := true }).await m
            (.nib (fld r.pay 0 1)) true)))

/-- Tiles and programs: a tile of whole lines is cut once its slot and footprint are free, goes to a nib with its four
grants, and commits in the order cut once its items fit; its first bytes may go before it under CUTTHRU. A millisecond
without progress starts a compute domain reset, which loses every tile in flight and reloads the nibs. PROGRAM_LOAD
checks its container and puts it into the slot (R24, R176, R178, R191, R193, R195, R196, R200, R209, R215, R216,
R382). Completes (exec answers a next state): PROGRAM_LOAD, FOLIO_RESIZE, TILE_CUT, TILE_DISPATCH, TILE_COMMIT,
CUTTHRU_COPY, NO_PROGRESS_TIMEOUT, DOMAIN_RESET. -/
def Obligations.TilesAndPrograms : Prop :=
  (∀ (s : State) (q : Fin 68) (errs : List (Nat × Nat × Bytes)) (t : Nat) (l0 : SLine) (cfg : TileCfg) (p : Prog),
    s.dev.pv P.ephState 0 = E.ephState.RUNNING → (s.dev.seqn q).gap = none →
    (s.dev.seqn q).lines[(s.dev.seqn q).pos]? = some l0 →
    (s.dev.seqn q).cfgs.find? (fun c => c.frame == l0.line.info.frame) = some cfg → cfg.prog = some p →
    p.marginY = 0 → coreH cfg.tileH p = 1 → (l0.frameLast = true ∨ (s.dev.seqn q).pos + 1 < (s.dev.seqn q).lines.length) →
    (1024 ≤ s.dev.tiles.length → (s.dev.seqn q).stalled = false → Gives (.tileCut q errs t) s (fun u =>
      u.tiles = s.dev.tiles ∧ (u.seqn q).stalled = true
      ∧ u.pv P.ephSlotStallCount 0 = countTo P.ephSlotStallCount (s.dev.pv P.ephSlotStallCount 0 + 1)))
    ∧ (s.dev.tiles.length < 1024 → (s.dev.seqn q).stalled = false →
      s.dev.folioFit (ceilDiv (256 + inputBytes
          (Nat.min (coreW cfg.tileW p (l0.line.planes.headD []).length)
            ((l0.line.planes.headD []).length - (s.dev.seqn q).col))
          1 p.marginX 0 (sampleBytes l0.bits) l0.line.planes.length) 4096) = none →
      Gives (.tileCut q errs t) s (fun u =>
        u.tiles = s.dev.tiles ∧ (u.seqn q).stalled = true
        ∧ u.pv P.ephFolioStallCount 0 = countTo P.ephFolioStallCount (s.dev.pv P.ephFolioStallCount 0 + 1)))
    ∧ (s.dev.tiles.length < 1024 → ∀ page0, s.dev.folioFit (ceilDiv (256 + inputBytes
          (Nat.min (coreW cfg.tileW p (l0.line.planes.headD []).length)
            ((l0.line.planes.headD []).length - (s.dev.seqn q).col))
          1 p.marginX 0 (sampleBytes l0.bits) l0.line.planes.length) 4096) = some page0 →
      Gives (.tileCut q errs t) s (fun u =>
        u.tileNo = s.dev.tileNo + 1 ∧ u.tiles.length = s.dev.tiles.length + 1
        ∧ u.pv P.ephNextSeq q = (s.dev.pv P.ephNextSeq q + 1) % 2 ^ 32
        ∧ u.pv P.ephSlotsUsed 0 = s.dev.tiles.length + 1
        ∧ ∃ T ∈ u.tiles, T.no = s.dev.tileNo ∧ T.q = q.val ∧ T.seq = s.dev.pv P.ephNextSeq q
          ∧ T.frame = l0.line.info.frame ∧ T.x0 = (s.dev.seqn q).col ∧ T.coreH = 1 ∧ T.slot = cfg.slot
          ∧ T.budget = cfg.budget ∧ T.page0 = page0 ∧ T.released = 0)))
  ∧ (∀ (s : State) (q : Fin 68) (errs : List (Nat × Nat × Bytes)) (t : Nat),
    (s.dev.pv P.ephState 0 ≠ E.ephState.RUNNING ∨ (s.dev.seqn q).gap.isSome = true ∨ (s.dev.seqn q).lines = []) →
    Gives (.tileCut q errs t) s (fun u => u = s.dev.at' t))
  ∧ (∀ (s : State) (k : Fin 32) (n : Fin 96) (errD errIn : List (Nat × Bytes)) (t : Nat) (T : Tile) (p : Prog),
    s.dev.tiles = [T] → T.slot = k.val → T.waits = true → (s.dev.nib n).prog = some p →
    (s.dev.pv P.ephState 0 = E.ephState.RUNNING → s.dev.goesTo n T = true →
      s.dev.reservedOn T.q + Nat.min (s.dev.resultWords T.q p) (s.dev.qLimit T.q) ≤ s.dev.qFree T.q →
      (∀ d desc input poison, (s.dev.at' t).readTile T errD errIn = (d, some (desc, input, poison)) →
        Gives (.tileDispatch k n errD errIn t) s (fun u =>
        u.tiles = [{ T with st := .inNib n, replays := if T.st = .replay then T.replays + 1 else T.replays
                            poison := T.poison || poison }]
        ∧ ((s.dev.nib n).bufA = none → u.nib n = { s.dev.nib n with
            bufA := some T.no, descA := desc, inA := input, sentA := Nat.max s.dev.now t })
        ∧ ((s.dev.nib n).bufA ≠ none → u.nib n = { s.dev.nib n with
            bufB := some T.no, descB := desc, inB := input, sentB := Nat.max s.dev.now t })
        ∧ u.ledger = s.dev.ledger ++ [⟨n, 0, 1, T.no⟩, ⟨n, 1, p.imageMax + 32 * p.recordMax, T.no⟩,
            ⟨n, 2, Nat.min (s.dev.resultWords T.q p) (s.dev.qLimit T.q), T.no⟩, ⟨n, 3, 2, T.no⟩]
        ∧ u.ephAt = Nat.max s.dev.now t))
      ∧ (∀ d, (s.dev.at' t).readTile T errD errIn = (d, none) →
        Gives (.tileDispatch k n errD errIn t) s (fun u => u = d.gapTile T.no 4)))
    ∧ ((s.dev.pv P.ephState 0 ≠ E.ephState.RUNNING ∨ s.dev.goesTo n T = false
        ∨ s.dev.qFree T.q < s.dev.reservedOn T.q + Nat.min (s.dev.resultWords T.q p) (s.dev.qLimit T.q)) →
      Gives (.tileDispatch k n errD errIn t) s (fun u => u = s.dev.at' t)))
  ∧ (∀ (s : State) (q : Fin 68) (errs : List (Nat × Fin 524288 × Bytes)) (t : Nat),
    ((((s.dev.at' t).flushLate q).seqn q).late ≠ [] →
      Gives (.tileCommit q errs t) s (fun u => u = (s.dev.at' t).flushLate q))
    ∧ ((s.dev.seqn q).late = [] → s.dev.pv P.ephState 0 ≠ E.ephState.RUNNING →
      Gives (.tileCommit q errs t) s (fun u => u = s.dev.at' t))
    ∧ ((s.dev.seqn q).late = [] → s.dev.pv P.ephState 0 = E.ephState.RUNNING →
      (∀ g, (s.dev.seqn q).gap = some g → Gives (.tileCommit q errs t) s (fun u => u = (s.dev.at' t).domainGap q g))
      ∧ ((s.dev.seqn q).gap = none →
        (s.dev.headTile q = none → Gives (.tileCommit q errs t) s (fun u => u = s.dev.at' t))
        ∧ ∀ T, s.dev.headTile q = some T →
          (s.dev.qTakes q T.words = false → Gives (.tileCommit q errs t) s (fun u => u = s.dev.at' t))
          ∧ (s.dev.qTakes q T.words = true →
            (∀ c, T.st = .gap c → Gives (.tileCommit q errs t) s (fun u =>
              u = ((s.dev.at' t).writeGap q T.seq 1 c T.frame T.frame).settled T
              ∧ u.pv P.ephCommitSeq q = (T.seq + 1) % 2 ^ 32 ∧ ∀ x ∈ u.tiles, x.no ≠ T.no))
            ∧ (∀ r d bad left, T.st = .done → T.result = some r → (s.dev.at' t).readStaging errs = (d, bad, left) →
              ((bad = false ∨ r.outcome ≠ outDone) → Gives (.tileCommit q errs t) s (fun u =>
                u = d.commitTile T { r with image := withErrors left 0 r.image }
                ∧ u.pv P.ephCommitSeq q = (T.seq + 1) % 2 ^ 32 ∧ ∀ x ∈ u.tiles, x.no ≠ T.no))
              ∧ (bad = true → r.outcome = outDone → Gives (.tileCommit q errs t) s (fun u =>
                u = (d.ungrant (fun g => g.tile == T.no)).placeReplay T.no 255)))
            ∧ (T.waits = true → Gives (.tileCommit q errs t) s (fun u => u = s.dev.at' t))))))
  ∧ (∀ (s : State) (q : Fin 68) (bytes : Nat) (errs : List (Nat × Fin 524288 × Bytes)) (t : Nat), (s.dev.seqn q).late = [] →
    (s.dev.headTile q = none → Gives (.cutthruCopy q bytes errs t) s (fun u => u = s.dev.at' t))
    ∧ ∀ T r, s.dev.headTile q = some T → s.dev.tile T.no = some T → T.st = .done → T.result = some r →
      ((r.outcome ≠ outDone ∨ s.dev.pv P.ephState 0 ≠ E.ephState.RUNNING ∨ (T.released = 0 ∧ s.dev.qCutNow q = 0)) →
        Gives (.cutthruCopy q bytes errs t) s (fun u => u = s.dev.at' t))
      ∧ (r.outcome = outDone → s.dev.pv P.ephState 0 = E.ephState.RUNNING → (T.released ≠ 0 ∨ s.dev.qCutNow q ≠ 0) →
        ∀ d bad left, (s.dev.at' t).readStaging errs = (d, bad, left) →
          (bad = true → Gives (.cutthruCopy q bytes errs t) s (fun u =>
            u = (d.ungrant (fun g => g.tile == T.no)).placeReplay T.no 255))
          ∧ (bad = false → T.released < bytes / 32 * 32 → bytes / 32 * 32 ≤ r.image.length →
            2 + bytes / 32 * 32 / 32 - T.sent ≤ d.qFree q → Gives (.cutthruCopy q bytes errs t) s (fun u =>
              u = (d.qWords q (T.record r) T.sent (2 + bytes / 32 * 32 / 32 - T.sent)).modTile T.no
                    (fun x => { x with released := bytes / 32 * 32 })
              ∧ u.tile T.no = some { T with released := bytes / 32 * 32 }))))
  ∧ (∀ (s : State) (t : Nat),
    (s.dev.pv P.ephState 0 = E.ephState.RUNNING → s.dev.ephAt + ms 1 ≤ Nat.max s.dev.now t → (s.dev.at' t).noProgress = true →
      Gives (.noProgressTimeout t) s (fun u =>
        u.pv P.ephState 0 = E.ephState.RESETTING ∧ u.int0.get false 305 = true ∧ u.tiles = s.dev.tiles))
    ∧ ((s.dev.pv P.ephState 0 ≠ E.ephState.RUNNING ∨ Nat.max s.dev.now t < s.dev.ephAt + ms 1 ∨ (s.dev.at' t).noProgress = false) →
      Gives (.noProgressTimeout t) s (fun u => u = s.dev.at' t)))
  ∧ (∀ (s : State) (t : Nat), Gives (.domainReset t) s (fun u =>
    u.tiles = [] ∧ u.ledger = [] ∧ u.pv P.ephState 0 = E.ephState.RUNNING
    ∧ u.pv P.ephDomainResetCount 0 = countTo P.ephDomainResetCount (s.dev.pv P.ephDomainResetCount 0 + 1)
    ∧ (s.dev.pv P.ephState 0 = E.ephState.RUNNING → u.int0.get false 305 = true)
    ∧ (∀ n, n < 96 → s.dev.nibSt n ≠ E.nibState.FENCED →
      u.nibSt n = E.nibState.LOADING ∧ (u.nib n).bufA = none ∧ (u.nib n).bufB = none ∧ (u.nib n).running = false)
    ∧ (∀ n, n < 96 → s.dev.nibSt n = E.nibState.FENCED → u.nibSt n = E.nibState.FENCED)
    ∧ (∀ m, m < 21 → (s.dev.mb m).st = .queued → ((s.dev.mb m).request m).op ∈ [0x0041, 0x0042] →
      (u.mb m).st = .complete ∧ (u.mb m).code = C.aborted)))
  ∧ (∀ (s : State),
    (s.dev.tiles = [] → Gives .folioResize s (fun u => u = { s.dev with folioMib := s.dev.pv P.ephFolioMib 0 }))
    ∧ (s.dev.tiles ≠ [] → Gives .folioResize s (fun u => u = s.dev)))
  ∧ (∀ (s : State) (m : Fin 21) (host : Option Bytes) (errs : List (Nat × Bytes)) (r : Req), MayRun s.dev m 0x0041 r →
    ((31 < fld r.pay 0 1 ∨ 2 < fld r.pay 1 1 ∨ 1 < fld r.pay 3 1 ∨ (fld r.pay 1 1 = 1 ∧ 15 < fld r.pay 2 1)
        ∨ (fld r.pay 1 1 = 2 ∧ 63 < fld r.pay 2 1)) → Refuses (.programLoad m (host, errs)) s s.dev m r C.badValue)
    ∧ (fld r.pay 0 1 ≤ 31 → fld r.pay 1 1 ≤ 2 → fld r.pay 3 1 ≤ 1 → (fld r.pay 1 1 = 1 → fld r.pay 2 1 ≤ 15) →
      (fld r.pay 1 1 = 2 → fld r.pay 2 1 ≤ 63) →
      (∀ d, s.dev.source (fld r.pay 1 1) (fld r.pay 2 1) (fld r.pay 16 4) host errs = (d, .wait) →
        Gives (.programLoad m (host, errs)) s (fun u => u = d))
      ∧ (∀ d c, s.dev.source (fld r.pay 1 1) (fld r.pay 2 1) (fld r.pay 16 4) host errs = (d, .code c) →
        Refuses (.programLoad m (host, errs)) s d m r c)
      ∧ (∀ d b, s.dev.source (fld r.pay 1 1) (fld r.pay 2 1) (fld r.pay 16 4) host errs = (d, .bytes b) →
        (parseProg b = none → Refuses (.programLoad m (host, errs)) s d m r C.badProgram)
        ∧ ∀ p, parseProg b = some p →
          (d.progSigOk p = false → Refuses (.programLoad m (host, errs)) s d m r C.badSignature)
          ∧ (d.progSigOk p = true →
            (d.sealClosed = true → d.quadRegistered = true → fld r.pay 0 1 ∈ d.regSlots → p.digest ≠ d.regDigest →
              Refuses (.programLoad m (host, errs)) s d m r C.isSealed)
            ∧ ((d.sealClosed = false ∨ d.quadRegistered = false ∨ fld r.pay 0 1 ∉ d.regSlots ∨ p.digest = d.regDigest) →
              ((∃ q, q < 68 ∧ d.seqSlot q = fld r.pay 0 1 ∧ (d.fitsWith q p = false ∨ d.asWritten.fitsWith q p = false)) →
                Refuses (.programLoad m (host, errs)) s d m r C.badValue)
              ∧ ((∀ q, q < 68 → d.seqSlot q = fld r.pay 0 1 → d.fitsWith q p = true ∧ d.asWritten.fitsWith q p = true) →
                (fld r.pay 3 1 = 1 → (∃ q, q < 68 ∧ d.seqSlot q = fld r.pay 0 1 ∧ d.seqRunning q = true
                    ∧ fld r.pay 4 4 < (if q < 64 then (d.stream q).frameNo else (d.web (q - 64)).frameNo)) →
                  Refuses (.programLoad m (host, errs)) s d m r C.late)
                ∧ (fld r.pay 3 1 = 1 → (∀ q, q < 68 → d.seqSlot q = fld r.pay 0 1 → d.seqRunning q = true →
                    (if q < 64 then (d.stream q).frameNo else (d.web (q - 64)).frameNo) ≤ fld r.pay 4 4) →
                  Gives (.programLoad m (host, errs)) s (fun u =>
                    u = (d.loadSlot (fld r.pay 0 1) p (some (fld r.pay 4 4))).done m ∧ Ended u m r C.ok true [] 0 0))
                ∧ (fld r.pay 3 1 = 0 → Gives (.programLoad m (host, errs)) s (fun u =>
                    u = (d.loadSlot (fld r.pay 0 1) p none).done m ∧ Ended u m r C.ok true [] 0 0
                    ∧ ((∀ q, q < 68 → d.seqSlot q ≠ fld r.pay 0 1) → d.tiles = [] → (∀ q, (d.seqn q).cfgs = []) →
                      (d.slot (fld r.pay 0 1)).mid = [] →
                      ((d.slot (fld r.pay 0 1)).pending = none ∨ (d.slot (fld r.pay 0 1)).passed = []) →
                      u.slot (fld r.pay 0 1) = ⟨some p, none, [], [], (d.slot (fld r.pay 0 1)).loadNo + 1⟩
                      ∧ u.pv P.nibSlotState (fld r.pay 0 1) = E.nibSlotState.LOADED)))))))))

/-- Ductus and pacing: a software fire counts in its channel's divider, which passes every n-th on to what listens; an
event on its way sets host event bits, arms taps and enters relays once, counted where it loops. A droop trip halves
the gates that follow the sensor, once; a gate then steps each microsecond; the rail moves by 5 mV under AUTO (R303,
R304, R305, R306, R308, R309, R310, R311, R312, R353, R355, R356, R357, R358). Completes (exec answers a next state):
DUX_FIRE, EVENT_DELIVER, SINK_BUSY_END, DROOP_TRIP, DROOP_CLEAR, PACE_LEVEL_STEP, RAIL_ADJUST. -/
def Obligations.EventsAndPacing : Prop :=
  (∀ (s : State) (path : Path) (c : Fin 256) (t : Nat),
    ((ownsDux path c = false ∨ (s.dev.duxIn c 0 ≠ 0x100 ∧ s.dev.duxIn c 1 ≠ 0x100)) →
      Gives (.duxFire path c t) s (fun u => u = s.dev.at' t))
    ∧ (ownsDux path c = true → (s.dev.duxIn c 0 = 0x100 ∨ s.dev.duxIn c 1 = 0x100) → Gives (.duxFire path c t) s (fun u =>
      u.duct c = ⟨((s.dev.duct c).epoch + 1) % 65536, ((s.dev.duct c).div + 1) % s.dev.pv P.duxDiv c⟩
      ∧ ((s.dev.duct c).div ≠ 0 → u.flight = s.dev.flight ∧ u.pv P.duxFiredCount c = s.dev.pv P.duxFiredCount c)
      ∧ ((s.dev.duct c).div = 0 →
        u.pv P.duxFiredCount c = countTo P.duxFiredCount (s.dev.pv P.duxFiredCount c + 1)
        ∧ u.flight = (if s.dev.listened c = true
            then s.dev.flight ++ [(c.val, ⟨c, (s.dev.duct c).epoch, 0, false, 0, ((s.dev.at' t).tb : Int)⟩)]
            else s.dev.flight))
      ∧ u = { s.dev.at' t with dux := u.dux, flight := u.flight, frc := u.frc })))
  ∧ (∀ (s : State) (ev : Event) (c : Fin 256) (t : Nat),
    ((c.val, ev) ∉ s.dev.flight → Gives (.eventDeliver ev c t) s (fun u => u = s.dev.at' t))
    ∧ ((c.val, ev) ∈ s.dev.flight → Gives (.eventDeliver ev c t) s (fun u =>
      (∀ h, h < 32 → s.dev.pv P.duxHevSrc h = c → u.int0.get false (272 + h) = true
        ∧ (s.dev.int0.get false (272 + h) = true →
          u.pv P.duxSinkIgnored (16 + h) = countTo P.duxSinkIgnored (s.dev.pv P.duxSinkIgnored (16 + h) + 1)))
      ∧ (∀ k, k < 16 → s.dev.pv P.duxTapArm k = c → ev.pos = false →
        (((s.dev.tap k).armed = false ∧ (s.dev.tap k).busy = false) → u.tap k = { s.dev.tap k with armed := true })
        ∧ (((s.dev.tap k).armed = true ∨ (s.dev.tap k).busy = true) → u.tap k = s.dev.tap k
          ∧ u.pv P.duxSinkIgnored (48 + k) = countTo P.duxSinkIgnored (s.dev.pv P.duxSinkIgnored (48 + k) + 1)))
      ∧ (∀ k, k < 16 → s.dev.pv P.duxTapArm k = c → ev.pos = true →
        s.dev.pv P.trigAxis (s.dev.pv P.plateTapStream k) = ev.axis →
          u.tap k = { s.dev.tap k with tags := (s.dev.tap k).tags ++ [(ev.axis, ev.tag)] })
      ∧ (∀ r, 128 ≤ r → r < 256 → s.dev.duxIn r 0 = c → s.dev.duxIn r 1 ≠ c →
        ((7 ≤ ev.hop ∨ ∃ f ∈ s.dev.flight, f.1 = r ∧ f.2.origin = ev.origin ∧ f.2.epoch = ev.epoch) →
          u.pv P.duxLoopCount r = countTo P.duxLoopCount (s.dev.pv P.duxLoopCount r + 1) ∧ u.duct r = s.dev.duct r)
        ∧ (ev.hop < 7 → (∀ f ∈ s.dev.flight, f.1 = r → f.2.origin = ev.origin → f.2.epoch ≠ ev.epoch) →
          u.duct r = { s.dev.duct r with div := ((s.dev.duct r).div + 1) % s.dev.pv P.duxDiv r }
          ∧ ((s.dev.duct r).div = 0 →
            u.pv P.duxFiredCount r = countTo P.duxFiredCount (s.dev.pv P.duxFiredCount r + 1)
            ∧ (s.dev.listened r = true → (r, { ev with hop := ev.hop + 1, pos := s.dev.isPos r }) ∈ u.flight))))
      ∧ (∀ o, o < 16 → s.dev.pv P.foFunction o = E.foFunction.EVENT → s.dev.pv P.foSource o = c →
        u.sinks.get false o = true
        ∧ (s.dev.sinks.get false o = true →
          u.pv P.duxSinkIgnored o = countTo P.duxSinkIgnored (s.dev.pv P.duxSinkIgnored o + 1))))))
  ∧ (∀ (s : State) (o : Fin 16), Gives (.sinkBusyEnd (.fo o)) s (fun u =>
      u = { s.dev with sinks := s.dev.sinks.set false o false } ∧ u.sinks.get false o = false))
  ∧ (∀ (s : State) (k : Sink), (∀ o, k ≠ .fo o) → Gives (.sinkBusyEnd k) s (fun u => u = s.dev))
  ∧ (∀ (s : State) (d : Fin 64) (mv t : Nat),
    (((s.dev.droop d).tripped = true ∨ s.dev.droopAt ≤ mv) → Gives (.droopTrip d mv t) s (fun u =>
      u = (s.dev.at' t).railSeen d mv
      ∧ u.pv P.paceMinMv d = (if s.dev.pv P.paceMinMv d = 0 ∨ mv < s.dev.pv P.paceMinMv d then mv
          else s.dev.pv P.paceMinMv d)))
    ∧ ((s.dev.droop d).tripped = false → mv < s.dev.droopAt →
      (∀ c, (s.dev.droop d).clearAt = some c → c + psPerRt < Nat.max s.dev.now t) → Gives (.droopTrip d mv t) s (fun u =>
        (u.droop d).tripped = true
        ∧ u.pv P.paceTripCount d = countTo P.paceTripCount (s.dev.pv P.paceTripCount d + 1)
        ∧ (∀ g, g < 106 → gateFollows g d = true → (s.dev.gate g).before = none →
          (∀ a, (s.dev.gate g).tripAt = some a → a + 5000 < Nat.max s.dev.now t) →
          u.pv P.paceLevel g = halved (s.dev.pv P.paceLevel g)
          ∧ u.gate g = ⟨Nat.max s.dev.now t, some (Nat.max s.dev.now t), none⟩)
        ∧ (∀ g, (106 ≤ g ∨ gateFollows g d = false) →
          u.gate g = s.dev.gate g ∧ (g < 1024 → u.pv P.paceLevel g = s.dev.pv P.paceLevel g))
        ∧ (∀ g a, g < 106 → (s.dev.gate g).tripAt = some a → Nat.max s.dev.now t ≤ a + 5000 →
          u.gate g = s.dev.gate g ∧ u.pv P.paceLevel g = s.dev.pv P.paceLevel g))))
  ∧ (∀ (s : State) (d : Fin 64) (mv t : Nat),
    ((s.dev.droop d).tripped = true → s.dev.droopAt + 10 ≤ mv → Gives (.droopClear d mv t) s (fun u =>
      u = (s.dev.at' t).setDroop d ⟨false, some (Nat.max s.dev.now t)⟩ ∧ (u.droop d).tripped = false))
    ∧ (((s.dev.droop d).tripped = false ∨ mv < s.dev.droopAt + 10) →
      Gives (.droopClear d mv t) s (fun u => u = s.dev.at' t)))
  ∧ (∀ (s : State) (g : Fin 106) (t : Nat),
    (Nat.max s.dev.now t < (s.dev.gate g).since + us 1 → Gives (.paceLevelStep g t) s (fun u => u = s.dev.at' t))
    ∧ ((s.dev.gate g).since + us 1 ≤ Nat.max s.dev.now t →
      ((∃ d, d < 64 ∧ gateFollows g d = true ∧ (s.dev.droop d).tripped = true) → s.dev.pv P.paceLevel g ≠ 1 →
        Gives (.paceLevelStep g t) s (fun u =>
          u.pv P.paceLevel g = halved (s.dev.pv P.paceLevel g)
          ∧ u = { s.dev.at' t with gates := u.gates, frc := u.frc }))
      ∧ ((∀ d, d < 64 → gateFollows g d = true → (s.dev.droop d).tripped = false
            ∧ ∀ c, (s.dev.droop d).clearAt = some c → c + us 1 ≤ Nat.max s.dev.now t) →
        (s.dev.pv P.paceLevel g < 8 → Gives (.paceLevelStep g t) s (fun u =>
          u.pv P.paceLevel g = s.dev.pv P.paceLevel g + 1
          ∧ u = { s.dev.at' t with gates := u.gates, frc := u.frc }))
        ∧ (8 ≤ s.dev.pv P.paceLevel g → Gives (.paceLevelStep g t) s (fun u => u = s.dev.at' t)))))
  ∧ (∀ (s : State) (i t : Nat), i < 65536 → Gives (.railAdjust i t) s (fun u =>
    u.pv P.pwrSpeedIndex 0 = i
    ∧ u.pv P.pwrRailMv 0 = (if s.dev.pv P.pwrRailPolicy 0 ≠ E.pwrRailPolicy.AUTO ∨ s.dev.inP E.pwrState.P4 = true
        then s.dev.pv P.pwrRailMv 0
        else if 870 ≤ i then Nat.max 650 (s.dev.pv P.pwrRailMv 0 - 5)
        else Nat.min 850 (s.dev.pv P.pwrRailMv 0 + 5))
    ∧ u = { s.dev.at' t with frc := u.frc }))

/-- MODE_SET: arguments the rules refuse give BAD_VALUE, a frame already begun LATE, and nothing changes; else the
word takes both masks at once, and each change is counted; a change of the bits ACQUIRE, SURVEY, TAP and CUTTHRU
leaves streams, webs, nibs, lanes and outputs as they are, but for the flags gathered into records in progress. TRACE
cleared below level D2 lets a halted Scribe and halted nibs run on (R333, R334, R335, R336, R342, R348, R393).
Completes (exec answers a next state): MODE_SET. -/
def Obligations.ModeSets : Prop :=
  ∀ (s : State) (m : Fin 21) (t : Nat) (r : Req), MayRun s.dev m 0x0020 r →
    (modeArgsBad (fld r.pay 0 4) (fld r.pay 4 4) (fld r.pay 8 1) = true →
      Refuses (.modeSet m t) s (s.dev.at' t) m r C.badValue)
    ∧ (modeArgsBad (fld r.pay 0 4) (fld r.pay 4 4) (fld r.pay 8 1) = false →
      (fld r.pay 8 1 = 1 → s.dev.modeLate (fld r.pay 0 4) (fld r.pay 4 4) (fld r.pay 12 4) = true →
        Refuses (.modeSet m t) s (s.dev.at' t) m r C.late)
      ∧ ((fld r.pay 8 1 = 0 ∨ s.dev.modeLate (fld r.pay 0 4) (fld r.pay 4 4) (fld r.pay 12 4) = false) →
        Gives (.modeSet m t) s (fun u =>
          u = ((s.dev.at' t).changeModes (fld r.pay 0 4) (fld r.pay 4 4)
              (if fld r.pay 8 1 = 1 then some (fld r.pay 12 4) else none)).done m
          ∧ ((fld r.pay 0 4 ||| fld r.pay 4 4) < 16 →
            Ended u m r C.ok true [] 0 0
            ∧ u.pv P.modeWord 0 = andNot (s.dev.pv P.modeWord 0 ||| fld r.pay 0 4) (fld r.pay 4 4)
            ∧ (u.pv P.modeWord 0 ≠ s.dev.pv P.modeWord 0 →
              u.pv P.modeChangeCount 0 = countTo P.modeChangeCount (s.dev.pv P.modeChangeCount 0 + 1))
            ∧ u.webs = s.dev.webs ∧ u.lanes = s.dev.lanes ∧ u.outs = s.dev.outs
            ∧ ((∀ n, n < 96 → s.dev.nibSt n ≠ E.nibState.PARKED) → u.nibs = s.dev.nibs)
            ∧ u.mer = { s.dev.mer with openLen := u.mer.openLen, webFrames := u.mer.webFrames }
            ∧ ((∀ c, c < 4 → s.dev.openLenOf c = none) → s.dev.mer.webFrames = [] → u.mer = s.dev.mer)
            ∧ (s.dev.streams.wf .reset = true →
              (∀ st, ∀ f ∈ (s.dev.stream st).frames, f.legal = false ∨ f.closed = true) → u.streams = s.dev.streams))
          ∧ (fld r.pay 0 4 = 0 → fld r.pay 4 4 = 256 →
            u.activeLevel = 0
            ∧ (2 ≤ s.dev.activeLevel → u.sec.scribeHalted = false ∧ u.sec.scribeBreaks = []
              ∧ ∀ n, (u.nib n).halted = false ∧ (u.nib n).breaks = [])))))

/-- What an entry of the program store holds once `data` is written at `off`. -/
def Sys2Proof.storeMap (old : FMap (Option Byte)) (off : Nat) (data : Bytes) : FMap (Option Byte) :=
  data.zipIdx.foldl (fun (m : FMap (Option Byte)) p => m.set none (off + p.2) (some p.1)) old

/-- The staging session is over: UPDATE is clear, and a main slot that was being staged is BAD (R403, R405). -/
def Sys2Proof.Discarded (u : Dev) (x : Session) : Prop :=
  u.alm.session = none ∧ u.mode M.update = false
  ∧ (x.target = 0 → x.slot < 2 → u.pv P.almFwSlotState x.slot = E.almFwSlotState.BAD)

/-- Almanac's information, calendar, log and ordered resets, and its staging commands: each either answers the status
of the first check that fails, or has its effect: a session with UPDATE set, bytes staged, an image activated on trial
or discarded, Meridian's image replaced in ADJUSTING (R86, R343, R403, R404, R405, R408, R409). Completes (exec
answers a next state): MER_FW_STAGE, ALM_INFO, ALM_TIME_SET, ALM_RESET, ALM_LOG_READ, ALM_FW_BEGIN, ALM_FW_WRITE,
ALM_FW_ACTIVATE, ALM_FW_ABORT, ALM_STORE_WRITE. -/
def Obligations.AlmanacCommands : Prop :=
  (∀ (s : State) (m : Fin 21) (r : Req), MayRun s.dev m 0x0100 r →
    Answers (.almInfo m) s s.dev m r C.ok false
      (le 4 (s.dev.fwSlot 0).version ++ le 4 (s.dev.fwSlot 1).version ++ le 1 (s.dev.pv P.almFwPreferred 0)
        ++ le 1 (s.dev.pv P.almFwTrial 0) ++ le 1 s.dev.rst.image ++ le 1 0 ++ le 4 s.dev.alm.bootCount) 0)
  ∧ (∀ (s : State) (m : Fin 21) (t : Nat) (r : Req), MayRun s.dev m 0x0101 r → Gives (.almTimeSet m t) s (fun u =>
    Ended u m r C.ok true [] 0 0 ∧ u.pv P.almTimeS 0 = fld r.pay 0 8
    ∧ u.alm = { s.dev.alm with calSet := true, calAt := Nat.max s.dev.now t }
    ∧ OnlyAnswers { s.dev.at' t with alm := u.alm, frc := u.frc } u m))
  ∧ (∀ (s : State) (m : Fin 21) (t : Nat) (r : Req), MayRun s.dev m 0x0102 r →
    (1 < fld r.pay 0 1 → Refuses (.almReset m t) s (s.dev.at' t) m r C.badValue)
    ∧ (fld r.pay 0 1 ≤ 1 → s.dev.rst.due = none → Gives (.almReset m t) s (fun u =>
      Ended u m r C.ok true [] 0 0
      ∧ u.rst = { s.dev.rst with due := some (Nat.max s.dev.now t + resetDelay, fld r.pay 0 1,
          if fld r.pay 0 1 = 1 then E.rstLastCause.ALMANAC_WARM else E.rstLastCause.ALMANAC_COLD) })))
  ∧ (∀ (s : State) (m : Fin 21) (r : Req), MayRun s.dev m 0x0110 r →
    Answers (.almLogRead m) s s.dev m r C.ok false
      (slice ((s.dev.alm.log.reverse.filter
        (fun b => decide ((fld b 0 4 + 2 ^ 32 - fld r.pay 0 4) % 2 ^ 32 < 2 ^ 31))).take 3).flatten 0 192)
      ((s.dev.alm.log.reverse.filter
        (fun b => decide ((fld b 0 4 + 2 ^ 32 - fld r.pay 0 4) % 2 ^ 32 < 2 ^ 31))).take 3).length)
  ∧ (∀ (s : State) (m : Fin 21) (t : Nat) (r : Req), MayRun s.dev m 0x0120 r →
    ((1 < fld r.pay 0 1
        ∨ (if fld r.pay 0 1 = 0 then 25165824 else 524288) < fld r.pay 4 4) →
      Refuses (.almFwBegin m t) s (s.dev.at' t) m r C.badValue)
    ∧ (fld r.pay 0 1 ≤ 1 →
      fld r.pay 4 4 ≤ (if fld r.pay 0 1 = 0 then 25165824 else 524288) →
      ((s.dev.mode M.update = true ∨ s.dev.pv P.secLcPending 0 ≠ s.dev.pv P.secLc 0) →
        Refuses (.almFwBegin m t) s (s.dev.at' t) m r C.busy)
      ∧ (s.dev.mode M.update = false → s.dev.pv P.secLcPending 0 = s.dev.pv P.secLc 0 →
        Gives (.almFwBegin m t) s (fun u =>
          Ended u m r C.ok true [] 0 0
          ∧ u.mode M.update = true
          ∧ u.alm.session = some ⟨fld r.pay 0 1, r.path,
              if s.dev.rst.image < 2 then 1 - s.dev.rst.image else 1 - s.dev.pv P.almFwPreferred 0,
              fld r.pay 4 4, .empty, .empty, false⟩
          ∧ u.pv P.almFwStageCounter 0 = (s.dev.pv P.almFwStageCounter 0 + 1) % 2 ^ 64
          ∧ (fld r.pay 0 1 = 0 → u.pv P.almFwSlotState
              (if s.dev.rst.image < 2 then 1 - s.dev.rst.image else 1 - s.dev.pv P.almFwPreferred 0)
                = E.almFwSlotState.STAGING)))))
  ∧ (∀ (s : State) (m : Fin 21) (t : Nat) (r : Req), MayRun s.dev m 0x0121 r →
    (s.dev.alm.session = none → Refuses (.almFwWrite m t) s (s.dev.at' t) m r C.busy)
    ∧ ∀ x, s.dev.alm.session = some x →
      (x.path ≠ r.path → Refuses (.almFwWrite m t) s (s.dev.at' t) m r C.denied)
      ∧ (x.path = r.path →
        (x.size < fld r.pay 0 4 + (slice r.pay 8 (r.len - 8)).length →
          Refuses (.almFwWrite m t) s (s.dev.at' t) m r C.badValue)
        ∧ (fld r.pay 0 4 + (slice r.pay 8 (r.len - 8)).length ≤ x.size →
          Gives (.almFwWrite m t) s (fun u =>
            Ended u m r C.ok true [] 0 0
            ∧ u.alm = { s.dev.alm with session := some { x with
                data := x.data.write (fld r.pay 0 4) (slice r.pay 8 (r.len - 8)), verified := false
                got := (List.range (slice r.pay 8 (r.len - 8)).length).foldl
                  (fun k i => k.set false (fld r.pay 0 4 + i) true) x.got } }
            ∧ OnlyAnswers { s.dev.at' t with alm := u.alm } u m))))
  ∧ (∀ (s : State) (m : Fin 21) (t : Nat) (r : Req), MayRun s.dev m 0x0122 r →
    (s.dev.alm.session = none → Refuses (.almFwActivate m t) s (s.dev.at' t) m r C.busy)
    ∧ ∀ x, s.dev.alm.session = some x →
      (1 < fld r.pay 0 1 → Refuses (.almFwActivate m t) s (s.dev.at' t) m r C.badValue)
      ∧ (fld r.pay 0 1 ≤ 1 →
        (x.target ≠ 0 → Refuses (.almFwActivate m t) s (s.dev.at' t) m r C.busy)
        ∧ (x.target = 0 → x.verified = false → s.dev.stagedCode x ≠ C.ok → Gives (.almFwActivate m t) s (fun u =>
          Ended u m r (s.dev.stagedCode x) false [] 0 0 ∧ Discarded u x))
        ∧ (x.target = 0 → x.verified = false → s.dev.stagedCode x = C.ok →
          (s.dev.mode M.replay = true ∨ s.dev.sec.scribeHalted = true) → Gives (.almFwActivate m t) s (fun u =>
            (u.mb m).st = .queued ∧ u.alm.session = some { x with verified := true } ∧ u.int1.get false 9 = true))
        ∧ (x.target = 0 → x.verified = true → (s.dev.mode M.replay = true ∨ s.dev.sec.scribeHalted = true) →
          Gives (.almFwActivate m t) s (fun u => u = s.dev.at' t))
        ∧ (x.target = 0 → x.verified = true → s.dev.mode M.replay = false → s.dev.sec.scribeHalted = false → x.slot < 2 →
          s.dev.rst.due = none → Gives (.almFwActivate m t) s (fun u =>
            Ended u m r C.ok true [] 0 0
            ∧ u.pv P.almFwPreferred 0 = x.slot ∧ u.pv P.almFwTrial 0 = 1
            ∧ u.pv P.almFwSlotState x.slot = E.almFwSlotState.VALID
            ∧ u.alm.session = none ∧ u.mode M.update = false
            ∧ u.rst.due = (if fld r.pay 0 1 = 0
                then some (Nat.max s.dev.now t + resetDelay, 1, E.rstLastCause.ALMANAC_WARM) else none)))))
  ∧ (∀ (s : State) (m : Fin 21) (t : Nat) (r : Req), MayRun s.dev m 0x0123 r →
    (s.dev.alm.session = none → Refuses (.almFwAbort m t) s (s.dev.at' t) m r C.busy)
    ∧ ∀ x, s.dev.alm.session = some x → Gives (.almFwAbort m t) s (fun u =>
      Ended u m r C.ok true [] 0 0 ∧ Discarded u x))
  ∧ (∀ (s : State) (m : Fin 21) (t : Nat) (r : Req), MayRun s.dev m 0x0063 r →
    (s.dev.alm.session = none → Refuses (.merFwStage m t) s (s.dev.at' t) m r C.busy)
    ∧ ∀ x h body sig, s.dev.alm.session = some x → imgParts (x.data.read 0 x.size) = (h, body, sig) →
      (x.target ≠ 1 → Refuses (.merFwStage m t) s (s.dev.at' t) m r C.busy)
      ∧ (x.target = 1 → s.dev.adjusting = false → Refuses (.merFwStage m t) s (s.dev.at' t) m r C.isSealed)
      ∧ (x.target = 1 → s.dev.adjusting = true →
        ((x.whole = false ∨ imgForm (x.data.read 0 x.size) 1 = false) →
          Refuses (.merFwStage m t) s (s.dev.at' t) m r C.badValue)
        ∧ (x.whole = true → imgForm (x.data.read 0 x.size) 1 = true →
          (sigOk (keyBytes Config.metrologyKeyHash) (sha256 (h ++ body)) sig = false →
            Refuses (.merFwStage m t) s (s.dev.at' t) m r C.badSignature)
          ∧ (sigOk (keyBytes Config.metrologyKeyHash) (sha256 (h ++ body)) sig = true →
            (s.dev.auditFree < 2 → Refuses (.merFwStage m t) s (s.dev.at' t) m r C.auditFull)
            ∧ (2 ≤ s.dev.auditFree → Gives (.merFwStage m t) s (fun u =>
              Ended u m r C.ok true [] 0 0
              ∧ u.mer.image = some (imgVersion h / 65536, sha256 (h ++ body))
              ∧ u.mer.audit.length = s.dev.mer.audit.length + 1
              ∧ u.alm.session = none ∧ u.mode M.update = false))))))
  ∧ (∀ (s : State) (m : Fin 21) (r : Req), MayRun s.dev m 0x0130 r →
    ((63 < fld r.pay 0 1 ∨ 3 < fld r.pay 1 1
        ∨ 131072 < fld r.pay 4 4 + (slice r.pay 8 (r.len - 8)).length) →
      Refuses (.almStoreWrite m) s s.dev m r C.badValue)
    ∧ (fld r.pay 0 1 ≤ 63 → fld r.pay 1 1 ≤ 3 →
      fld r.pay 4 4 + (slice r.pay 8 (r.len - 8)).length ≤ 131072 →
      (bit (fld r.pay 1 1) 0 = false → s.dev.pv P.almStoreState (fld r.pay 0 1) ≠ E.almStoreState.WRITING →
        Refuses (.almStoreWrite m) s s.dev m r C.busy)
      ∧ (fld r.pay 1 1 = 1 → Gives (.almStoreWrite m) s (fun u =>
        Ended u m r C.ok true [] 0 0
        ∧ u.pv P.almStoreState (fld r.pay 0 1) = E.almStoreState.WRITING
        ∧ u.alm.store.get .empty (fld r.pay 0 1) = storeMap .empty (fld r.pay 4 4) (slice r.pay 8 (r.len - 8))
        ∧ u.alm.storeLen.get 0 (fld r.pay 0 1) = fld r.pay 4 4 + (slice r.pay 8 (r.len - 8)).length))
      ∧ (fld r.pay 1 1 = 2 → s.dev.pv P.almStoreState (fld r.pay 0 1) = E.almStoreState.WRITING →
        ∀ (k : FMap (Option Byte)) (n : Nat) (b : Bytes),
          k = storeMap (s.dev.alm.store.get .empty (fld r.pay 0 1)) (fld r.pay 4 4) (slice r.pay 8 (r.len - 8)) →
          n = Nat.max (s.dev.alm.storeLen.get 0 (fld r.pay 0 1)) (fld r.pay 4 4 + (slice r.pay 8 (r.len - 8)).length) →
          b = (List.range n).filterMap (k.get none) →
          ((b.length ≠ n ∨ parseProg b = none) → Refuses (.almStoreWrite m) s s.dev m r C.badProgram)
          ∧ (∀ p, b.length = n → parseProg b = some p →
            (s.dev.progSigOk p = false → Refuses (.almStoreWrite m) s s.dev m r C.badSignature)
            ∧ (s.dev.progSigOk p = true → Gives (.almStoreWrite m) s (fun u =>
              Ended u m r C.ok true [] 0 0 ∧ u.pv P.almStoreState (fld r.pay 0 1) = E.almStoreState.VALID
              ∧ u.alm.store.get .empty (fld r.pay 0 1) = k))))))

/-- Almanac's own events: each sample reads into its parameters and fires the events whose condition is armed, and a
critical temperature begins P4; a scan of an UP lane is taken; Almanac's watchdog restarts it alone; a trial that
lasts is over; a grant ends with its lifetime (R362, R393, R399, R400, R406, R407). Completes (exec answers a next
state): ALMANAC_WATCHDOG, GRANT_EXPIRE, SENSOR_SAMPLE, EYE_SCAN, TRIAL_EXPIRE. -/
def Obligations.AlmanacEvents : Prop :=
  (∀ (s : State) (temps : List Int) (vin vf rail t : Nat), temps.length ≤ 11 →
    ((∀ v ∈ temps, v < (s.dev.pv P.almTempCrit 0 : Int)) → Gives (.sensorSample temps vin vf rail t) s (fun u =>
      (∀ i v, temps[i]? = some v → u.pv P.almTemp i = toTwos 16 v)
      ∧ u.pv P.almVinMv 0 = vin ∧ u.pv P.almVfieldMv 0 = vf ∧ u.pv P.almRailMeasMv 0 = rail
      ∧ u.pv P.almSupplyStatus 0 = b2n (decide (vin < 11400)) + 2 * b2n (decide (12600 < vin))
          + 4 * b2n (decide (vf < 9000)) + 8 * b2n (decide (31000 < vf))
      ∧ ((∃ v ∈ temps, (s.dev.pv P.almTempWarn 0 : Int) ≤ v) → s.dev.alm.disarmed.get false 0 = false →
        u.int1.get false 4 = true)
      ∧ (vin < 11400 → s.dev.alm.disarmed.get false 128 = false → u.int1.get false 6 = true)))
    ∧ ((∃ v ∈ temps, (s.dev.pv P.almTempCrit 0 : Int) ≤ v) → s.dev.alm.disarmed.get false 64 = false →
      s.dev.rst.coldPending = false → s.dev.inP E.pwrState.P4 = false →
      Gives (.sensorSample temps vin vf rail t) s (fun u =>
        u.rst.moving = some E.pwrState.P4 ∧ u.rst.nextTarget = none)))
  ∧ (∀ (s : State) (l : Fin 32) (h : Nat) (w : Fin 65) (t : Nat), h < 65536 →
    (s.dev.pv P.laneState l = E.laneState.UP → Gives (.eyeScan l h w t) s (fun u =>
      u.pv P.almLaneEyeHMv l = h ∧ u.pv P.almLaneEyeW l = w ∧ u = { s.dev.at' t with frc := u.frc, alm := u.alm }))
    ∧ (s.dev.pv P.laneState l ≠ E.laneState.UP → Gives (.eyeScan l h w t) s (fun u => u = s.dev.at' t)))
  ∧ (∀ (s : State) (poison : Bool) (t : Nat), (∀ x, s.dev.alm.session = some x → x.slot < 2) →
    Gives (.almanacWatchdog (poison, t)) s (fun u =>
    u.pv P.almWdCount 0 = (if poison = true then s.dev.pv P.almWdCount 0
      else countTo P.almWdCount (s.dev.pv P.almWdCount 0 + 1))
    ∧ (poison = false → u.int1.get false 11 = true)
    ∧ (poison = true → u.int1.get false 11 = s.dev.int1.get false 11) ∧ u.alm.session = none
    ∧ (∀ m, 16 ≤ m → m < 20 → u.mb m = .reset) ∧ (∀ m, m < 16 ∨ m = 20 → u.mb m = s.dev.mb m)
    ∧ u.rst = s.dev.rst))
  ∧ (∀ (s : State) (t a : Nat), s.dev.alm.trialAt = some a →
    (a + secs (s.dev.pv P.almFwTrialS 0) ≤ Nat.max s.dev.now t → s.dev.pv P.almFwTrial 0 = 1 → s.dev.rst.ready = true →
      Gives (.trialExpire t) s (fun u =>
        u.pv P.almFwTrial 0 = 0 ∧ u.alm.trialAt = none ∧ u = { s.dev.at' t with frc := u.frc, alm := u.alm }))
    ∧ (Nat.max s.dev.now t < a + secs (s.dev.pv P.almFwTrialS 0) → Gives (.trialExpire t) s (fun u => u = s.dev.at' t)))
  ∧ (∀ (s : State) (t : Nat), s.dev.alm.trialAt = none → Gives (.trialExpire t) s (fun u => u = s.dev.at' t))
  ∧ (∀ (s : State) (t e : Nat), s.dev.sec.grantEnd = some e →
    (e ≤ Nat.max s.dev.now t → Gives (.grantExpire t) s (fun u =>
      u = (s.dev.at' t).relock
      ∧ u.pv P.secDebugGrant 0 = (if s.dev.pv P.secLc 0 = E.secLc.FIELDED ∨ s.dev.pv P.secLc 0 = E.secLc.LOCKED then 1 else 3)
      ∧ u.pv P.secGrantSource 0 = E.secGrantSource.LIFECYCLE ∧ u.sec.grantEnd = none))
    ∧ (Nat.max s.dev.now t < e → Gives (.grantExpire t) s (fun u => u = s.dev.at' t)))

/-- The checks of LC_ADVANCE's payload on its form, its transition and its keys (R383, R385). -/
def Sys2Proof.LcArgsOk (d : Dev) (p : Bytes) : Prop :=
  fld p 0 1 ≤ 4 ∧ fld p 1 1 ≤ 7 ∧ lcMoves (d.pv P.secLcPending 0) (fld p 0 1) = true
  ∧ (fld p 1 1 &&& d.pv P.secOwnerKeys 0) = 0
  ∧ (fld p 1 1 ≠ 0 → d.pv P.secLcPending 0 = E.secLc.BLANK ∨ d.pv P.secLcPending 0 = E.secLc.OPEN)
  ∧ ∀ i, i < 3 → bit (fld p 1 1) i = false → rsvZero (slice p (8 + 32 * i) 32) 0 32 = true

/-- A failed unlock: answered `c`, counted, and the eighth in a row closes DEBUG_CHALLENGE for 60 s (R392). -/
def Sys2Proof.UnlockFails (i : Instr) (s : State) (d : Dev) (m : Nat) (r : Req) (c : Nat) : Prop :=
  Gives i s (fun u => Ended u m r c false [] 0 0
    ∧ u.pv P.secUnlockFailCount 0 = countTo P.secUnlockFailCount (d.pv P.secUnlockFailCount 0 + 1)
    ∧ u.sec.fails = (if d.sec.fails + 1 = 8 then 0 else d.sec.fails + 1)
    ∧ u.sec.lockUntil = (if d.sec.fails + 1 = 8 then d.now + secs 60 else d.sec.lockUntil)
    ∧ u.pv P.secDebugGrant 0 = d.pv P.secDebugGrant 0)

/-- Boot images, the lifecycle, debug tokens, the rollback counter, the trace and the TAP: an image that checks
starts; a permitted transition is pending until a cold reset; a fresh token that verifies grants its level; a debug
request needs the active level, and the power state's leave (R342, R372, R373, R382, R383, R384, R385, R388, R390,
R391, R392, R394). Completes (exec answers a next state): BOOT_LOAD, BOOT_RUN, DFU_DNLOAD, LC_ADVANCE,
DEBUG_CHALLENGE, DEBUG_UNLOCK, DEBUG_RELOCK, SVN_COMMIT, TRACE_READ, DEBUG_REQUEST. -/
def Obligations.SecurityCommands : Prop :=
  (∀ (s : State) (m : Fin 21) (host : Option Bytes) (r : Req), MayRun s.dev m 0x00F0 r →
    ((fld r.pay 8 4 = 0 ∨ 16777216 < fld r.pay 8 4 ∨ 25165824 < fld r.pay 12 4 + fld r.pay 8 4) →
      Refuses (.bootLoad m host) s s.dev m r C.badValue)
    ∧ (fld r.pay 8 4 ≠ 0 → fld r.pay 8 4 ≤ 16777216 → fld r.pay 12 4 + fld r.pay 8 4 ≤ 25165824 →
      Refuses (.bootLoad m none) s s.dev m r C.busError
      ∧ ∀ b, Gives (.bootLoad m (some b)) s (fun u =>
        Ended u m r C.ok true [] 0 0
        ∧ u.rst = { s.dev.rst with buffer := s.dev.rst.buffer.write (fld r.pay 12 4) (slice b 0 (fld r.pay 8 4)) })))
  ∧ (∀ (s : State) (m : Fin 21) (sets : Bool) (t : Nat) (r : Req), MayRun s.dev m 0x00F1 r → m.val < 16 →
    (s.dev.checkPlain (s.dev.rst.buffer.read 0 (fld r.pay 0 4)) = .sig →
      Refuses (.bootRun m sets t) s (s.dev.at' t) m r C.badSignature)
    ∧ ((s.dev.checkPlain (s.dev.rst.buffer.read 0 (fld r.pay 0 4)) = .form
        ∨ s.dev.checkPlain (s.dev.rst.buffer.read 0 (fld r.pay 0 4)) = .svn) →
      Refuses (.bootRun m sets t) s (s.dev.at' t) m r C.badProgram)
    ∧ (s.dev.checkPlain (s.dev.rst.buffer.read 0 (fld r.pay 0 4)) = .good → Gives (.bootRun m sets t) s (fun u =>
      Ended u m r C.ok true [] 0 0
      ∧ u.rst.ready = sets ∧ u.rst.image = 2 ∧ u.rst.loader = false ∧ u.rst.runLen = fld r.pay 0 4
      ∧ u.rst.fwVersion = imgVersion (s.dev.rst.buffer.read 0 128)
      ∧ u.rst.starting = (if sets then none else some (Nat.max s.dev.now t))
      ∧ u.pv P.secSvnRunning 0 = imgSvn (s.dev.rst.buffer.read 0 128))))
  ∧ (∀ (s : State) (image : Bytes) (sets : Bool) (t : Nat),
    ((s.dev.rst.dfu = false ∨ s.dev.rst.attached = false ∨ s.dev.rst.coldPending = true ∨ s.dev.rst.ready = true
        ∨ s.dev.rst.starting.isSome = true ∨ s.dev.checkPlain image ≠ .good) →
      Gives (.dfuDnload image sets t) s (fun u => u = s.dev.at' t))
    ∧ (s.dev.rst.dfu = true → s.dev.rst.attached = true → s.dev.rst.coldPending = false → s.dev.rst.ready = false →
      s.dev.rst.starting = none → s.dev.checkPlain image = .good → Gives (.dfuDnload image sets t) s (fun u =>
        u.rst.ready = sets ∧ u.rst.image = 3 ∧ u.rst.loader = false ∧ u.rst.buffer = Mem.ofBytes image
        ∧ u.rst.runLen = image.length)))
  ∧ (∀ (s : State) (m : Fin 21) (t : Nat) (r : Req), MayRun s.dev m 0x0201 r →
    (¬ LcArgsOk s.dev r.pay → Refuses (.lcAdvance m t) s (s.dev.at' t) m r C.badValue)
    ∧ (LcArgsOk s.dev r.pay →
      (s.dev.lcSigned (serialBytes ++ le 1 (fld r.pay 0 1)) (slice r.pay 104 128) = false →
        Refuses (.lcAdvance m t) s (s.dev.at' t) m r C.badSignature)
      ∧ (s.dev.lcSigned (serialBytes ++ le 1 (fld r.pay 0 1)) (slice r.pay 104 128) = true →
        (s.dev.mode M.update = true → Refuses (.lcAdvance m t) s (s.dev.at' t) m r C.busy)
        ∧ (s.dev.mode M.update = false → fld r.pay 0 1 = E.secLc.RETIRED → s.dev.sealCode 0 ≠ C.ok →
          Refuses (.lcAdvance m t) s (s.dev.at' t) m r (s.dev.sealCode 0))
        ∧ (s.dev.mode M.update = false → (fld r.pay 0 1 ≠ E.secLc.RETIRED ∨ s.dev.sealCode 0 = C.ok) →
          s.dev.rst.due = none → Gives (.lcAdvance m t) s (fun u =>
            Ended u m r C.ok true [] 0 0
            ∧ u.pv P.secLcPending 0 = fld r.pay 0 1 ∧ u.pv P.secLc 0 = s.dev.pv P.secLc 0
            ∧ u.pv P.secOwnerKeys 0 = s.dev.pv P.secOwnerKeys 0 ||| fld r.pay 1 1
            ∧ (∀ i, i < 3 → bit (fld r.pay 1 1) i = true → u.sec.keys.get [] i = slice r.pay (8 + 32 * i) 32)
            ∧ (fld r.pay 0 1 = E.secLc.RETIRED → u.mer.erased = true ∧ u.sec.flashKeyErased = true)
            ∧ (fld r.pay 0 1 ≠ E.secLc.RETIRED → u.mer = s.dev.mer)
            ∧ u.rst.due = some (Nat.max s.dev.now t + resetDelay, 0, E.rstLastCause.ALMANAC_COLD))))))
  ∧ (∀ (s : State) (m : Fin 21) (t : Nat) (r : Req), MayRun s.dev m 0x0202 r →
    (Nat.max s.dev.now t < s.dev.sec.lockUntil → Refuses (.debugChallenge m t) s (s.dev.at' t) m r C.denied)
    ∧ (s.dev.sec.lockUntil ≤ Nat.max s.dev.now t → Gives (.debugChallenge m t) s (fun u =>
      Ended u m r C.ok true ((List.range 32).map (Config.nonce (s.dev.sec.chalNo + 1)) ++ serialBytes
        ++ le 2 (s.dev.sec.chalNo + 1)) 0 0
      ∧ u.sec.chalNo = s.dev.sec.chalNo + 1 ∧ u.sec.chalAt = some (Nat.max s.dev.now t))))
  ∧ (∀ (s : State) (m : Fin 21) (t : Nat) (r : Req), MayRun s.dev m 0x0203 r →
    ((fld r.pay 0 1 = 0 ∨ 3 < fld r.pay 0 1 ∨ 1 < fld r.pay 1 1) →
      Refuses (.debugUnlock m t) s (s.dev.at' t) m r C.badValue)
    ∧ (1 ≤ fld r.pay 0 1 → fld r.pay 0 1 ≤ 3 → fld r.pay 1 1 ≤ 1 →
      ((s.dev.sec.chalAt = none ∨ fld r.pay 2 2 ≠ s.dev.sec.chalNo % 65536
          ∨ (∃ a, s.dev.sec.chalAt = some a ∧ a + secs 300 < Nat.max s.dev.now t)
          ∨ lcSigner (s.dev.pv P.secLc 0) (fld r.pay 1 1) = false) →
        UnlockFails (.debugUnlock m t) s (s.dev.at' t) m r C.denied)
      ∧ ∀ a key, s.dev.sec.chalAt = some a → fld r.pay 2 2 = s.dev.sec.chalNo % 65536 →
        Nat.max s.dev.now t ≤ a + secs 300 → lcSigner (s.dev.pv P.secLc 0) (fld r.pay 1 1) = true →
        key = (if fld r.pay 1 1 = 0 then s.dev.ownerKey 1 else some (keyBytes Config.vendorDebugKeyHash)) →
        ((∀ k, key = some k → sigOk k (sha256 ((List.range 32).map (Config.nonce s.dev.sec.chalNo) ++ serialBytes
            ++ le 1 (fld r.pay 0 1) ++ le 4 (fld r.pay 4 4))) (slice r.pay 8 128) = false) →
          UnlockFails (.debugUnlock m t) s (s.dev.at' t) m r C.badSignature)
        ∧ ∀ k, key = some k → sigOk k (sha256 ((List.range 32).map (Config.nonce s.dev.sec.chalNo) ++ serialBytes
            ++ le 1 (fld r.pay 0 1) ++ le 4 (fld r.pay 4 4))) (slice r.pay 8 128) = true →
          Gives (.debugUnlock m t) s (fun u =>
            Ended u m r C.ok true [] 0 (fld r.pay 0 1)
            ∧ u.pv P.secDebugGrant 0 = fld r.pay 0 1
            ∧ u.pv P.secGrantSource 0 = (if fld r.pay 1 1 = 0 then E.secGrantSource.OWNER else E.secGrantSource.VENDOR)
            ∧ u.sec.chalAt = none ∧ u.sec.fails = 0
            ∧ u.sec.grantEnd = (if fld r.pay 4 4 = 0 then none
                else some (Nat.max s.dev.now t + secs (fld r.pay 4 4))))))
  ∧ (∀ (s : State) (m : Fin 21) (t : Nat) (r : Req), MayRun s.dev m 0x0204 r → Gives (.debugRelock m t) s (fun u =>
    Ended u m r C.ok true [] 0 0
    ∧ u.pv P.secDebugGrant 0 = lcGrant (s.dev.pv P.secLc 0)
    ∧ u.pv P.secGrantSource 0 = E.secGrantSource.LIFECYCLE ∧ u.sec.grantEnd = none))
  ∧ (∀ (s : State) (m : Fin 21) (t : Nat) (r : Req), MayRun s.dev m 0x0205 r →
    ((fld r.pay 0 1 ≤ s.dev.pv P.secSvnFused 0 ∨ 64 < fld r.pay 0 1) →
      Refuses (.svnCommit m t) s (s.dev.at' t) m r C.badValue)
    ∧ (s.dev.pv P.secSvnFused 0 < fld r.pay 0 1 → fld r.pay 0 1 ≤ 64 →
      (s.dev.lcSigned (serialBytes ++ le 1 (fld r.pay 0 1)) (slice r.pay 8 128) = false →
        Refuses (.svnCommit m t) s (s.dev.at' t) m r C.badSignature)
      ∧ (s.dev.lcSigned (serialBytes ++ le 1 (fld r.pay 0 1)) (slice r.pay 8 128) = true →
        ((s.dev.mode M.update = true ∨ s.dev.svnHolds (fld r.pay 0 1) = true) →
          Refuses (.svnCommit m t) s (s.dev.at' t) m r C.busy)
        ∧ (s.dev.mode M.update = false → s.dev.svnHolds (fld r.pay 0 1) = false → Gives (.svnCommit m t) s (fun u =>
          Ended u m r C.ok true [] 0 0 ∧ u.pv P.secSvnFused 0 = fld r.pay 0 1
          ∧ OnlyAnswers { s.dev.at' t with frc := u.frc } u m)))))
  ∧ (∀ (s : State) (m : Fin 21) (r : Req), MayRun s.dev m 0x0206 r →
    ((s.dev.activeLevel = 0 ∨ s.dev.inP E.pwrState.P3 = true ∨ s.dev.inP E.pwrState.P4 = true) →
      Refuses (.traceRead m) s s.dev m r C.denied)
    ∧ (s.dev.activeLevel ≠ 0 → s.dev.inP E.pwrState.P3 = false → s.dev.inP E.pwrState.P4 = false →
      Answers (.traceRead m) s s.dev m r C.ok false ((s.dev.sec.trace.reverse.drop (fld r.pay 0 4)).take 14).flatten
        ((s.dev.sec.trace.reverse.drop (fld r.pay 0 4)).take 14).length))
  ∧ (∀ (s : State) (tgt : DebugTarget) (op : DebugOp) (t : Nat),
    ((s.dev.rst.coldPending = true ∨ s.dev.debugLeave op = .waits) →
      Gives (.debugRequest tgt op t) s (fun u => u = s.dev.at' t))
    ∧ (s.dev.rst.coldPending = false →
      (s.dev.debugLeave op = .denied → Gives (.debugRequest tgt op t) s (fun u => u = (s.dev.at' t).emit (.jtag [0x0A])))
      ∧ (s.dev.debugLeave op = .allowed →
        (∀ loc err, op = .readMem loc err →
          ∃ s', exec (.debugRequest tgt op t) s = .next s'
            ∧ s' = { (({ s with dev := s.dev.at' t } : State).debugRead loc err).1 with
                dev := (({ s with dev := s.dev.at' t } : State).debugRead loc err).1.dev.emit
                  (.jtag (({ s with dev := s.dev.at' t } : State).debugRead loc err).2) }
            ∧ (∀ n w, loc = .nib n w → err = [] → (s.dev.nib n).poison.get false w = false →
              s'.sram = s.sram ∧ s'.dev.nib n = s.dev.nib n ∧ s'.dev.out = .jtag ((s.dev.nib n).word32 w) :: s.dev.out)
            ∧ (∀ b w, loc = .bank b w → err = [] → s.dev.poison.get false (bankKey b w) = false →
              ((s.storedWord (bankKey b w)).length = 35 → rsRead (s.storedWord (bankKey b w)) = .good → s.storedWord (bankKey b w) ≠ zeroWord →
                s'.dev.out = .jtag (slice (s.storedWord (bankKey b w)) 0 32) :: s.dev.out)))
        ∧ (∀ b w d, op = .writeMem (.bank b w) d →
          ∃ s', exec (.debugRequest tgt op t) s = .next s' ∧ s'.pending = s.pending
            ∧ s'.storedWord (bankKey b w) = slice d 0 32 ++ rsCheck (slice d 0 32)
            ∧ (∀ k, k ≠ bankKey b w → s'.storedWord k = s.storedWord k)
            ∧ s'.dev.poison.get false (bankKey b w) = false)
        ∧ ((∀ loc err, op ≠ .readMem loc err) → (∀ loc d, op ≠ .writeMem loc d) → Gives (.debugRequest tgt op t) s (fun u =>
          u = (s.dev.at' t).debugAct tgt op
          ∧ (op = .halt → tgt = .scribe → u.sec.scribeHalted = true)
          ∧ (∀ n, op = .halt → tgt = .nib n → s.dev.nibSt n ≠ E.nibState.FENCED → (u.nib n).halted = true)
          ∧ (∀ n, op = .resume → tgt = .nib n → (u.nib n).halted = false))))))

/-- After a cold reset of the cause `c`: memory is zero and unpoisoned, the core's blocks are as at reset, every mode is
clear, no request waits, what was ordered is dropped, and the lifecycle state fused last is in effect (R248, R362, R363). -/
structure Sys2Proof.ColdNow (s : State) (v : State) (c : Nat) : Prop where
  commands : v.pending = s.pending
  memory : v.sram = .empty
  poison : v.dev.poison = .empty
  pending : v.dev.rst.coldPending = true
  due : v.dev.rst.due = none ∧ v.dev.rst.fatalAt = none ∧ v.dev.rst.moving = none
  ready : v.dev.rst.ready = false
  modes : v.dev.pv P.modeWord 0 = 0
  cause : v.dev.pv P.rstLastCause 0 = c
  lifecycle : v.dev.pv P.secLc 0 = v.dev.pv P.secLcPending 0
  mailboxes : ∀ m, m < 21 → v.dev.mb m = .reset
  blocks : v.dev.tiles = [] ∧ v.dev.queues = .empty ∧ v.dev.streams = .empty ∧ v.dev.webs = .empty ∧ v.dev.int0 = .empty

/-- Resets, boot and power: every cold source leaves the device as ColdNow says, and the release reads the straps and
boots; PERST, FLR and hot reset clear what they name; a watchdog or POISON raises FATAL, with a warm reset after 100
µs; a reset that falls due acts, a cold one first; power transitions end in the state asked for (R60, R248, R362,
R363, R364, R365, R367, R370, R371, R372, R379, R380). Completes (exec answers a next state): POWER_ON, SYS_RST,
BROWNOUT, VIN_LOW, COLD_RESET, REFERENCE_FALLBACK, WARM_RESET, PERST, PERST_DEASSERT, HOT_RESET, FLR_PF0, FLR_PF1,
SCRIBE_WATCHDOG, FATAL, DEFERRED_RESET, BOOT_READY_TIMEOUT, POWER_TRANSITION_DONE, P3_BAR_WAKE, PCIE_LINK_UP,
USB_VBUS_CHANGE. -/
def Obligations.ResetsAndPower : Prop :=
  (∀ (s : State) (i : Instr) (c t : Nat), (i, c) ∈ [(Instr.sysRst t, E.rstLastCause.SYS_RST),
      (.brownout t, E.rstLastCause.BROWNOUT), (.vinLow t, E.rstLastCause.VIN_LOW)] →
    ∃ v, exec i s = .next v ∧ ColdNow s v c ∧ v.dev.now = Nat.max s.dev.now t)
  ∧ (∀ (s : State) (t : Nat), ∃ v, exec (.powerOn t) s = .next v ∧ ColdNow s v E.rstLastCause.POWER_ON
    ∧ v.dev.now = t ∧ v.dev.tbOff = 0 ∧ v.dev.encs = .empty)
  ∧ (∀ (s : State) (bootSel refSel : Fin 4) (ext sets : Bool) (t : Nat),
    (s.dev.rst.coldPending = false → Gives (.coldReset bootSel refSel ext sets t) s (fun u => u = s.dev.at' t))
    ∧ (s.dev.rst.coldPending = true → (bootSel = 1 ∨ bootSel = 2) →
      Gives (.coldReset bootSel refSel ext sets t) s (fun u =>
        u.rst.coldPending = false ∧ u.rst.attached = s.dev.rst.vbus
        ∧ u.pv P.rstBootSel 0 = bootSel ∧ u.pv P.rstRefSel 0 = refSel
        ∧ u.rst.ready = (bootSel == 1) ∧ u.rst.loader = (bootSel == 1) ∧ u.rst.image = bootSel.val + 1
        ∧ u.alm.bootCount = (s.dev.alm.bootCount + 1) % 2 ^ 32))
    ∧ (s.dev.rst.coldPending = true → (bootSel = 0 ∨ bootSel = 3) →
      s.dev.pv P.almFwPreferred 0 < 2 → s.dev.checkSlot (s.dev.pv P.almFwPreferred 0) = .good →
      Gives (.coldReset bootSel refSel ext sets t) s (fun u =>
        u.rst.coldPending = false ∧ u.rst.image = s.dev.pv P.almFwPreferred 0 ∧ u.rst.ready = sets
        ∧ u.rst.loader = false)))
  ∧ (∀ (s : State),
    (s.dev.rst.coldPending = true → Gives .referenceFallback s (fun u =>
      u.pv P.rstRefFallback 0 = 1 ∧ u.pv P.spanRefSrc 0 = E.spanRefSrc.MEMS ∧ u = { s.dev with frc := u.frc }))
    ∧ (s.dev.rst.coldPending = false → Gives .referenceFallback s (fun u => u = s.dev)))
  ∧ (∀ (s : State) (sets : Bool) (t : Nat),
    ((s.dev.rst.warmPending = false ∨ s.dev.rst.coldPending = true) →
      Gives (.warmReset sets t) s (fun u => u = s.dev.at' t))
    ∧ (s.dev.rst.warmPending = true → s.dev.rst.coldPending = false → s.dev.pv P.rstBootSel 0 = 1 → s.dev.rst.kept = false →
      Gives (.warmReset sets t) s (fun u =>
        u.rst.warmPending = false ∧ u.rst.ready = true ∧ u.rst.loader = true ∧ u.rst.image = 2)))
  ∧ (∀ (s : State) (t : Nat),
    ((s.dev.rst.coldPending = true ∨ s.dev.inP E.pwrState.P4 = true) → Gives (.perst t) s (fun u =>
      u = { s.dev.at' t with rst := { s.dev.rst with perstLow := true } }))
    ∧ (s.dev.rst.coldPending = false → s.dev.inP E.pwrState.P4 = false → Gives (.perst t) s (fun u =>
      u.rst.warmPending = true ∧ u.rst.fatalAt = none ∧ u.pv P.rstLastCause 0 = E.rstLastCause.PERST
      ∧ u.quill.bme0 = false ∧ u.quill.bme1 = false ∧ u.rst.unlocked.get false 4 = true
      ∧ (∀ k, k ≠ M.update → u.mode k = false) ∧ u.tiles = [] ∧ u.queues = .empty)))
  ∧ (∀ (s : State) (t : Nat),
    (s.dev.rst.perstLow = false → Gives (.perstDeassert t) s (fun u => u = s.dev.at' t))
    ∧ (s.dev.rst.perstLow = true →
      (s.dev.inP E.pwrState.P4 = true → s.dev.rst.moving = none → Gives (.perstDeassert t) s (fun u =>
        u = { s.dev.at' t with rst := { s.dev.rst with perstLow := false, moving := some E.pwrState.P0 } }))
      ∧ (s.dev.inP E.pwrState.P4 = false → s.dev.rst.coldPending = false → s.dev.rst.unlocked.get false 4 = false →
        Gives (.perstDeassert t) s (fun u =>
          u = ({ s.dev.at' t with rst := { s.dev.rst with perstLow := false } } : Dev).emit .linkTrain))))
  ∧ (∀ (s : State) (t : Nat),
    (s.dev.pcieOff = true → Gives (.hotReset t) s (fun u => u = s.dev.at' t)
      ∧ Gives (.flrPf0 t) s (fun u => u = s.dev.at' t) ∧ Gives .flrPf1 s (fun u => u = s.dev))
    ∧ (s.dev.pcieOff = false →
      Gives (.hotReset t) s (fun u => u = (s.dev.at' t).flr0.flr1.emit .linkTrain ∧ u.quill.bme1 = false
        ∧ ∀ m, 16 ≤ m → m < 20 → u.mb m = .reset)
      ∧ (s.dev.rst.warmPending = false → Gives (.flrPf0 t) s (fun u =>
        u = (s.dev.at' t).flr0 ∧ u.int0 = .empty ∧ u.intMap = .empty ∧ u.chans = .empty ∧ u.quill.bme0 = false))
      ∧ Gives .flrPf1 s (fun u =>
        (∀ m, 16 ≤ m → m < 20 → u.mb m = .reset) ∧ (∀ m, m < 16 ∨ 20 ≤ m → u.mb m = s.dev.mb m)
        ∧ (∀ k, u.int1.get false k = (decide (k < 4) && s.dev.int1.get false k)) ∧ u.quill.bme1 = false
        ∧ u = { s.dev with mbs := u.mbs, int1 := u.int1, quill := u.quill })))
  ∧ (∀ (s : State) (t : Nat),
    (s.dev.watched = true → s.dev.alm.scribeAt + ms (s.dev.pv P.almWdScribeMs 0) ≤ Nat.max s.dev.now t →
      Gives (.scribeWatchdog t) s (fun u =>
        u.rst.fatalAt = some (Nat.max s.dev.now t + resetDelay, E.rstLastCause.WATCHDOG) ∧ u.int0.get false 304 = true
        ∧ u.int1.get false 11 = true
        ∧ (s.dev.pv P.almFwTrial 0 ≠ 1 →
          u.pv P.almWdCount 0 = countTo P.almWdCount (s.dev.pv P.almWdCount 0 + 1))))
    ∧ ((s.dev.watched = false ∨ Nat.max s.dev.now t < s.dev.alm.scribeAt + ms (s.dev.pv P.almWdScribeMs 0)) →
      Gives (.scribeWatchdog t) s (fun u => u = s.dev.at' t)))
  ∧ (∀ (s : State) (t : Nat),
    (s.dev.rst.ready = true → s.dev.rst.fatalAt = none → s.dev.inP E.pwrState.P4 = false → Gives (.fatal t) s (fun u =>
      u.rst = { s.dev.rst with fatalAt := some (Nat.max s.dev.now t + resetDelay, E.rstLastCause.POISON) }
      ∧ u.int0.get false 304 = true))
    ∧ ((s.dev.rst.ready = false ∨ s.dev.rst.fatalAt.isSome = true ∨ s.dev.inP E.pwrState.P4 = true) →
      Gives (.fatal t) s (fun u => u = s.dev.at' t)))
  ∧ (∀ (s : State) (t : Nat),
    (∀ a c, s.dev.rst.due = some (a, 0, c) → a ≤ Nat.max s.dev.now t →
      ∃ v, exec (.deferredReset t) s = .next v ∧ ColdNow s v c)
    ∧ (∀ a c, s.dev.rst.due = none → s.dev.rst.fatalAt = some (a, c) → a ≤ Nat.max s.dev.now t →
      Gives (.deferredReset t) s (fun u => u = (s.dev.at' t).beginWarm c
        ∧ (s.dev.rst.coldPending = false → s.dev.inP E.pwrState.P4 = false →
          u.rst.warmPending = true ∧ u.rst.fatalAt = none ∧ u.pv P.rstLastCause 0 = c)))
    ∧ (s.dev.rst.due = none → s.dev.rst.fatalAt = none → Gives (.deferredReset t) s (fun u => u = s.dev.at' t)))
  ∧ (∀ (s : State) (sets : Bool) (t : Nat),
    (s.dev.rst.starting = none → Gives (.bootReadyTimeout sets t) s (fun u => u = s.dev.at' t))
    ∧ (∀ a, s.dev.rst.starting = some a →
      (Nat.max s.dev.now t < a + secs 2 → Gives (.bootReadyTimeout sets t) s (fun u => u = s.dev.at' t))
      ∧ (a + secs 2 ≤ Nat.max s.dev.now t →
        (s.dev.rst.image = 3 → s.dev.rst.kept = false → Gives (.bootReadyTimeout sets t) s (fun u =>
          u = (s.dev.at' t).awaitDfu ∧ u.rst.starting = none))
        ∧ (s.dev.rst.image = 2 → Gives (.bootReadyTimeout sets t) s (fun u =>
          u = (s.dev.at' t).startLoader ∧ u.rst.ready = true))
        ∧ (s.dev.rst.image < 2 → bit s.dev.rst.tried (1 - s.dev.rst.image) = true →
          Gives (.bootReadyTimeout sets t) s (fun u => u.rst.ready = true ∧ u.rst.loader = true ∧ u.rst.image = 2)))))
  ∧ (∀ (s : State) (sets : Bool) (t : Nat),
    (s.dev.rst.moving = none → s.dev.inP E.pwrState.P4 = false →
      Gives (.powerTransitionDone sets t) s (fun u => u = s.dev.at' t))
    ∧ (s.dev.rst.nextTarget = none → s.dev.inP E.pwrState.P3 = false → s.dev.inP E.pwrState.P4 = false →
      (s.dev.rst.moving = some E.pwrState.P3 → Gives (.powerTransitionDone sets t) s (fun u =>
        u.pv P.pwrState 0 = E.pwrState.P3 ∧ u.rst.moving = none))
      ∧ (s.dev.rst.moving = some E.pwrState.P4 → ∃ v, exec (.powerTransitionDone sets t) s = .next v
        ∧ v.dev.pv P.pwrState 0 = E.pwrState.P4 ∧ v.sram = .empty ∧ v.dev.poison = .empty ∧ v.dev.rst.ready = false
        ∧ v.dev.quill.bme0 = false ∧ v.pending = s.pending)))
  ∧ (∀ (s : State) (t : Nat),
    (s.dev.inP E.pwrState.P3 = true → s.dev.rst.heldWrites ≠ [] → s.dev.rst.moving = none → Gives (.p3BarWake t) s (fun u =>
      u = { s.dev.at' t with rst := { s.dev.rst with moving := some E.pwrState.P0 } }))
    ∧ ((s.dev.inP E.pwrState.P3 = false ∨ s.dev.rst.heldWrites = [] ∨ s.dev.rst.moving.isSome = true) →
      Gives (.p3BarWake t) s (fun u => u = s.dev.at' t)))
  ∧ (∀ (s : State) (gen width mps mrrs : Nat),
    (s.dev.pcieOff = false → gen ∈ [3, 4, 5, 6] → width ∈ [1, 2, 4, 8, 16] → mps ∈ [128, 256, 512] →
      mrrs ∈ [128, 256, 512, 1024, 2048, 4096] → Gives (.pcieLinkUp (gen, width) (mps, mrrs)) s (fun u =>
      u.rst = { s.dev.rst with gen := gen, width := width }
      ∧ u.pv P.quillLinkMbps 0 = (if gen = 6 then 121000 else if gen = 5 then 56000 else if gen = 4 then 28000
          else 14000) * width / 16
      ∧ u.pv P.quillMps 0 = mps ∧ u.quill = { s.dev.quill with mrrs := mrrs }
      ∧ u = { s.dev with rst := u.rst, frc := u.frc, quill := u.quill }))
    ∧ ((s.dev.pcieOff = true ∨ gen ∉ [3, 4, 5, 6] ∨ width ∉ [1, 2, 4, 8, 16] ∨ mps ∉ [128, 256, 512]
        ∨ mrrs ∉ [128, 256, 512, 1024, 2048, 4096]) →
      Gives (.pcieLinkUp (gen, width) (mps, mrrs)) s (fun u => u = s.dev)))
  ∧ (∀ (s : State) (mv : Nat), Gives (.usbVbusChange mv) s (fun u =>
    u.rst = { s.dev.rst with vbus := decide (4000 < mv), attached := decide (4000 < mv) && !s.dev.rst.coldPending }
    ∧ u.out = (if s.dev.rst.attached = (decide (4000 < mv) && !s.dev.rst.coldPending) then s.dev.out
        else .usbAttach (decide (4000 < mv) && !s.dev.rst.coldPending) :: s.dev.out)
    ∧ u = { s.dev with rst := u.rst, out := u.out }))

/-- A step takes the command at the front of the queue and is its effect with the queue's rest; an empty queue idles,
which is the model's choice (entry 2). -/
def Obligations.StepTakesFront : Prop :=
  (∀ (s : State) (c : Instr) (rest : List Instr), s.pending = c :: rest → step s = exec c { s with pending := rest })
  ∧ ∀ s : State, s.pending = [] → step s = .next s

/-- The form the stored words of the SRAM keep: one canonical list, words of 35 bytes, nothing outside the 16 banks of
8 MiB and the private region of 16 MiB (R246, R248, R249). -/
structure Sys2Proof.MemoryForm (s : State) : Prop where
  canonical : Memory.wf s.sram = true
  wordLength : ∀ k, (s.storedWord k).length = 35
  inside : ∀ k, 16 * 262144 + 524288 ≤ k → s.storedWord k = zeroWord

/-- The state right after power-on: no command waits, memory reads zero words, every parameter holds its default, no
mode is set, every mailbox is IDLE, no interrupt is pending, nothing runs, and READY is clear; the memory's form holds
(R248, R316, R328, R362, R363, R366). The values of what the spec gives no reset value are the model's (entry 1). -/
def Obligations.ResetState : Prop :=
  State.reset.pending = []
  ∧ (∀ k, State.reset.storedWord k = List.replicate 35 0)
  ∧ (∀ id inst, inst < 1024 → State.reset.dev.pv id inst = paramDefault id inst)
  ∧ State.reset.dev.pv P.modeWord 0 = 0
  ∧ (∀ m, (State.reset.dev.mb m).st = .idle)
  ∧ (∀ src, State.reset.dev.int0.get false src = false ∧ State.reset.dev.int1.get false src = false)
  ∧ (∀ st, (State.reset.dev.stream st).running = false)
  ∧ (∀ n, (State.reset.dev.nib n).running = false ∧ (State.reset.dev.nib n).prog = none)
  ∧ (∀ q, (State.reset.dev.queue q).words = [])
  ∧ (∀ c, (State.reset.dev.chan c).state = chIdle)
  ∧ State.reset.dev.tiles = [] ∧ State.reset.dev.rst.ready = false ∧ State.reset.dev.rst.coldPending = true
  ∧ MemoryForm State.reset

/-- Every command completes: no state and no operand stops the machine. A command leaves the queue alone, and only
eight of them reach the stored words of the SRAM: the scrubber's read, a debug request, the cold resets, and a power
transition (R248, R249, R363, R391). -/
def Obligations.EveryCommandCompletes : Prop :=
  (∀ (c : Instr) (s : State), ∃ t, exec c s = .next t ∧ t.pending = s.pending
    ∧ ((∀ l e i, c ≠ .scrubRead l e i) → (∀ g o i, c ≠ .debugRequest g o i) → (∀ i, c ≠ .powerOn i) →
      (∀ i, c ≠ .sysRst i) → (∀ i, c ≠ .brownout i) → (∀ i, c ≠ .vinLow i) → (∀ i, c ≠ .deferredReset i) →
      (∀ b i, c ≠ .powerTransitionDone b i) → t.sram = s.sram))
  ∧ ∀ s : State, ∃ t, step s = .next t ∧ t.pending = s.pending.tail

/-- The form of the stored words is an invariant: from every state that has it, in a run or not, a step gives a state
that has it (R246, R248, R249). -/
def Obligations.MemoryInvariant : Prop :=
  ∀ s t : State, MemoryForm s → step s = .next t → MemoryForm t

/-- The code of a stored word: a word with the check bytes that a write gives it reads good, and any one wrong byte of
its 35, whatever its error, is found and put right (R249, R250). -/
def Obligations.OneByteCorrected : Prop :=
  ∀ d : Bytes, d.length = 32 →
    rsRead (d ++ rsCheck d) = .good
    ∧ ∀ (i : Nat) (e : Byte), i < 35 → e ≠ 0 →
      rsRead ((d ++ rsCheck d).modify i (fun x => x ^^^ e)) = .corrected (34 - i) e.toNat
      ∧ rsFix ((d ++ rsCheck d).modify i (fun x => x ^^^ e)) = d ++ rsCheck d
end

