-- ==== Sys2Proof/Laws/Coding.lean ====
section
/-! SUPPORT. The code of a lane's codewords (R94): 0 times a symbol, and syndromes behind symbols 0. -/
namespace Sys2Proof.Machine

@[simp] theorem gf10Double_zero : gf10Double 0 = 0 := by decide

@[simp] theorem gf10Mul_zero_left (b : Nat) : gf10Mul 0 b = 0 := by
  unfold gf10Mul
  suffices h : ∀ l : List Nat, l.foldl (fun (p : Nat × Nat) i =>
      (if bit b i then p.1 ^^^ p.2 else p.1, gf10Double p.2)) (0, 0) = (0, 0) by rw [h]
  intro l
  induction l with
  | nil => rfl
  | cons x l ih => simpa [List.foldl_cons] using ih

/-- Symbols 0 before a word leave its syndromes as they are. -/
theorem rs10Syndromes_zeros (n : Nat) (c : List Nat) :
    rs10Syndromes (List.replicate n 0 ++ c) = rs10Syndromes c := by
  have h : ∀ x, (List.replicate n 0).foldl (fun s y => gf10Mul s x ^^^ y) 0 = 0 := by
    intro x
    induction n with
    | zero => rfl
    | succ n ih => simpa [List.replicate_succ] using ih
  simp only [rs10Syndromes, List.foldl_append, h]

end Sys2Proof.Machine
end

