-- ==== Sys2Proof/Laws/FMap.lean ====
section
/-! SUPPORT. The sparse map: reading after writing, and the canonical form every operation keeps. -/
namespace Sys2Proof.FMap
variable {α : Type}

theorem lookup_insert (d : α) (k j : Nat) (v : α) (l : List (Nat × α)) :
    lookup d j (insert k v l) = if j = k then v else lookup d j l := by
  induction l with
  | nil => simp [insert, lookup]
  | cons c r ih =>
    obtain ⟨i, w⟩ := c
    simp only [insert]
    split
    · simp only [lookup]
    · split
      · next h => subst h; simp only [lookup]; split <;> simp_all
      · simp only [lookup, ih]; split <;> split <;> simp_all

theorem lookup_remove (d : α) (k j : Nat) (l : List (Nat × α)) :
    lookup d j (remove k l) = if j = k then d else lookup d j l := by
  induction l with
  | nil => simp [remove, lookup]
  | cons c r ih =>
    obtain ⟨i, w⟩ := c
    simp only [remove]
    split
    · next h => subst h; simp only [lookup, ih]; split <;> simp_all
    · simp only [lookup, ih]; split <;> split <;> simp_all

variable [DecidableEq α]

/-- A read after a write: the value at the key written, every other key as before. -/
theorem get_set (d : α) (m : FMap α) (k : Nat) (v : α) (j : Nat) :
    (m.set d k v).get d j = if j = k then v else m.get d j := by
  unfold set get
  split
  · next h => subst h; exact lookup_remove _ _ _ _
  · exact lookup_insert _ _ _ _ _

@[simp] theorem get_set_self (d : α) (m : FMap α) (k : Nat) (v : α) : (m.set d k v).get d k = v := by
  simp [get_set]

/-- Another key reads as before, whatever it reads as where unlisted. -/
theorem get_set_ne (d e : α) (m : FMap α) (k : Nat) (v : α) (j : Nat) (h : j ≠ k) :
    (m.set d k v).get e j = m.get e j := by
  unfold set get
  split
  · show lookup e j (remove k m.cells) = _
    rw [lookup_remove]; simp [h]
  · show lookup e j (insert k v m.cells) = _
    rw [lookup_insert]; simp [h]

omit [DecidableEq α] in
@[simp] theorem get_empty (d : α) (k : Nat) : (empty : FMap α).get d k = d := rfl

/-! ## The canonical form -/

@[simp] theorem wf_empty (d : α) : (empty : FMap α).wf d = true := rfl

theorem wfFrom_cons (d : α) (lo : Option Nat) (j : Nat) (v : α) (r : List (Nat × α)) :
    wfFrom d lo ((j, v) :: r) = true ↔ (∀ l, lo = some l → l < j) ∧ v ≠ d ∧ wfFrom d (some j) r = true := by
  cases lo <;> simp [wfFrom, and_assoc]

theorem wfFrom_weaken (d : α) (lo lo' : Option Nat) (l : List (Nat × α))
    (h : ∀ a, lo' = some a → ∃ b, lo = some b ∧ a ≤ b) (w : wfFrom d lo l = true) : wfFrom d lo' l = true := by
  cases l with
  | nil => rfl
  | cons c r =>
    obtain ⟨j, v⟩ := c
    rw [wfFrom_cons] at w ⊢
    refine ⟨fun a ha => ?_, w.2⟩
    obtain ⟨b, hb, hab⟩ := h a ha
    exact Nat.lt_of_le_of_lt hab (w.1 b hb)

theorem wfFrom_insert (d : α) (k : Nat) (v : α) (hv : v ≠ d) :
    ∀ (l : List (Nat × α)) (lo : Option Nat), (∀ a, lo = some a → a < k) → wfFrom d lo l = true →
      wfFrom d lo (insert k v l) = true := by
  intro l
  induction l with
  | nil => intro lo h _; simp only [insert]; rw [wfFrom_cons]; exact ⟨h, hv, rfl⟩
  | cons c r ih =>
    obtain ⟨j, w⟩ := c
    intro lo h hw
    rw [wfFrom_cons] at hw
    simp only [insert]
    split
    · next hk =>
      rw [wfFrom_cons, wfFrom_cons]
      exact ⟨h, hv, fun a ha => by cases ha; exact hk, hw.2⟩
    · split
      · next _ hk => subst hk; rw [wfFrom_cons]; exact ⟨hw.1, hv, hw.2.2⟩
      · next h1 h2 =>
        rw [wfFrom_cons]
        refine ⟨hw.1, hw.2.1, ih (some j) (fun a ha => ?_) hw.2.2⟩
        cases ha; omega

theorem wfFrom_remove (d : α) (k : Nat) :
    ∀ (l : List (Nat × α)) (lo : Option Nat), wfFrom d lo l = true → wfFrom d lo (remove k l) = true := by
  intro l
  induction l with
  | nil => intro _ _; rfl
  | cons c r ih =>
    obtain ⟨j, w⟩ := c
    intro lo hw
    rw [wfFrom_cons] at hw
    simp only [remove]
    split
    · refine ih lo (wfFrom_weaken d (some j) lo r (fun a ha => ⟨j, rfl, Nat.le_of_lt (hw.1 a ha)⟩) hw.2.2)
    · rw [wfFrom_cons]; exact ⟨hw.1, hw.2.1, ih _ hw.2.2⟩

/-- A write keeps the canonical form. -/
theorem wf_set (d : α) (m : FMap α) (k : Nat) (v : α) (h : m.wf d = true) : (m.set d k v).wf d = true := by
  unfold set wf
  split
  · exact wfFrom_remove d k _ _ h
  · next hv => exact wfFrom_insert d k v hv _ _ (fun _ h => by cases h) h

theorem wfFrom_filter (d : α) (p : Nat × α → Bool) :
    ∀ (l : List (Nat × α)) (lo : Option Nat), wfFrom d lo l = true → wfFrom d lo (l.filter p) = true := by
  intro l
  induction l with
  | nil => intro _ _; rfl
  | cons c r ih =>
    obtain ⟨j, w⟩ := c
    intro lo hw
    rw [wfFrom_cons] at hw
    rw [List.filter_cons]
    split
    · rw [wfFrom_cons]; exact ⟨hw.1, hw.2.1, ih _ hw.2.2⟩
    · exact ih lo (wfFrom_weaken d (some j) lo r (fun a ha => ⟨j, rfl, Nat.le_of_lt (hw.1 a ha)⟩) hw.2.2)

/-- Dropping entries keeps the canonical form. -/
theorem wf_keep (d : α) (p : Nat → Bool) (m : FMap α) (h : m.wf d = true) : (m.keep p).wf d = true :=
  wfFrom_filter d _ _ _ h

theorem wfFrom_filterMap (d : α) (f : Nat → α → α) :
    ∀ (l : List (Nat × α)) (lo : Option Nat), wfFrom d lo l = true →
      wfFrom d lo (l.filterMap (fun c => if f c.1 c.2 = d then none else some (c.1, f c.1 c.2))) = true := by
  intro l
  induction l with
  | nil => intro _ _; rfl
  | cons c r ih =>
    obtain ⟨j, w⟩ := c
    intro lo hw
    rw [wfFrom_cons] at hw
    by_cases hf : f j w = d
    · simp only [List.filterMap_cons, hf, if_true]
      exact ih lo (wfFrom_weaken d (some j) lo r (fun a ha => ⟨j, rfl, Nat.le_of_lt (hw.1 a ha)⟩) hw.2.2)
    · simp only [List.filterMap_cons, hf, if_false]
      rw [wfFrom_cons]
      exact ⟨hw.1, hf, ih _ hw.2.2⟩

/-- Changing values keeps the canonical form. -/
theorem wf_mapVal (d : α) (f : Nat → α → α) (m : FMap α) (h : m.wf d = true) : (m.mapVal d f).wf d = true :=
  wfFrom_filterMap d f _ _ h

end Sys2Proof.FMap
end

