-- ==== Sys2Proof/Laws/State.lean ====
section
/-! SUPPORT. What each update of the device leaves as it was, field by field, and what it makes of its own field. -/
namespace Sys2Proof.Machine

variable (s : Dev)

/-! ## Fields -/

@[simp] theorem Dev.setK_acc (k v : Nat) : (s.setK k v).acc = s.acc := rfl
@[simp] theorem Dev.setK_writes (k v : Nat) : (s.setK k v).writes = s.writes := rfl
@[simp] theorem Dev.setK_modeAt (k v : Nat) : (s.setK k v).modeAt = s.modeAt := rfl
@[simp] theorem Dev.setK_now (k v : Nat) : (s.setK k v).now = s.now := rfl
@[simp] theorem Dev.setK_tbOff (k v : Nat) : (s.setK k v).tbOff = s.tbOff := rfl
@[simp] theorem Dev.setK_out (k v : Nat) : (s.setK k v).out = s.out := rfl
@[simp] theorem Dev.setK_int0 (k v : Nat) : (s.setK k v).int0 = s.int0 := rfl
@[simp] theorem Dev.setK_int1 (k v : Nat) : (s.setK k v).int1 = s.int1 := rfl
@[simp] theorem Dev.setK_intMap (k v : Nat) : (s.setK k v).intMap = s.intMap := rfl
@[simp] theorem Dev.setK_latch (k v : Nat) : (s.setK k v).latch = s.latch := rfl
@[simp] theorem Dev.setK_mbs (k v : Nat) : (s.setK k v).mbs = s.mbs := rfl
@[simp] theorem Dev.setK_doorbells (k v : Nat) : (s.setK k v).doorbells = s.doorbells := rfl
@[simp] theorem Dev.setK_encs (k v : Nat) : (s.setK k v).encs = s.encs := rfl
@[simp] theorem Dev.setK_axes (k v : Nat) : (s.setK k v).axes = s.axes := rfl
@[simp] theorem Dev.setK_trigs (k v : Nat) : (s.setK k v).trigs = s.trigs := rfl
@[simp] theorem Dev.setK_ins (k v : Nat) : (s.setK k v).ins = s.ins := rfl
@[simp] theorem Dev.setK_outs (k v : Nat) : (s.setK k v).outs = s.outs := rfl
@[simp] theorem Dev.setK_mer (k v : Nat) : (s.setK k v).mer = s.mer := rfl
@[simp] theorem Dev.setK_lanes (k v : Nat) : (s.setK k v).lanes = s.lanes := rfl
@[simp] theorem Dev.setK_heads (k v : Nat) : (s.setK k v).heads = s.heads := rfl
@[simp] theorem Dev.setK_binds (k v : Nat) : (s.setK k v).binds = s.binds := rfl
@[simp] theorem Dev.setK_streams (k v : Nat) : (s.setK k v).streams = s.streams := rfl
@[simp] theorem Dev.setK_taps (k v : Nat) : (s.setK k v).taps = s.taps := rfl
@[simp] theorem Dev.setK_nibs (k v : Nat) : (s.setK k v).nibs = s.nibs := rfl
@[simp] theorem Dev.setK_slots (k v : Nat) : (s.setK k v).slots = s.slots := rfl
@[simp] theorem Dev.setK_tiles (k v : Nat) : (s.setK k v).tiles = s.tiles := rfl
@[simp] theorem Dev.setK_tileNo (k v : Nat) : (s.setK k v).tileNo = s.tileNo := rfl
@[simp] theorem Dev.setK_seqs (k v : Nat) : (s.setK k v).seqs = s.seqs := rfl
@[simp] theorem Dev.setK_ledger (k v : Nat) : (s.setK k v).ledger = s.ledger := rfl
@[simp] theorem Dev.setK_ephAt (k v : Nat) : (s.setK k v).ephAt = s.ephAt := rfl
@[simp] theorem Dev.setK_folioMib (k v : Nat) : (s.setK k v).folioMib = s.folioMib := rfl
@[simp] theorem Dev.setK_webs (k v : Nat) : (s.setK k v).webs = s.webs := rfl
@[simp] theorem Dev.setK_span (k v : Nat) : (s.setK k v).span = s.span := rfl
@[simp] theorem Dev.setK_poison (k v : Nat) : (s.setK k v).poison = s.poison := rfl
@[simp] theorem Dev.setK_dirty (k v : Nat) : (s.setK k v).dirty = s.dirty := rfl
@[simp] theorem Dev.setK_scrubbed (k v : Nat) : (s.setK k v).scrubbed = s.scrubbed := rfl
@[simp] theorem Dev.setK_queues (k v : Nat) : (s.setK k v).queues = s.queues := rfl
@[simp] theorem Dev.setK_chans (k v : Nat) : (s.setK k v).chans = s.chans := rfl
@[simp] theorem Dev.setK_quill (k v : Nat) : (s.setK k v).quill = s.quill := rfl
@[simp] theorem Dev.setK_dux (k v : Nat) : (s.setK k v).dux = s.dux := rfl
@[simp] theorem Dev.setK_flight (k v : Nat) : (s.setK k v).flight = s.flight := rfl
@[simp] theorem Dev.setK_sinks (k v : Nat) : (s.setK k v).sinks = s.sinks := rfl
@[simp] theorem Dev.setK_gates (k v : Nat) : (s.setK k v).gates = s.gates := rfl
@[simp] theorem Dev.setK_droops (k v : Nat) : (s.setK k v).droops = s.droops := rfl
@[simp] theorem Dev.setK_rst (k v : Nat) : (s.setK k v).rst = s.rst := rfl
@[simp] theorem Dev.setK_sec (k v : Nat) : (s.setK k v).sec = s.sec := rfl
@[simp] theorem Dev.setK_alm (k v : Nat) : (s.setK k v).alm = s.alm := rfl

@[simp] theorem Dev.setP_acc (id i v : Nat) : (s.setP id i v).acc = s.acc := rfl
@[simp] theorem Dev.setP_writes (id i v : Nat) : (s.setP id i v).writes = s.writes := rfl
@[simp] theorem Dev.setP_modeAt (id i v : Nat) : (s.setP id i v).modeAt = s.modeAt := rfl
@[simp] theorem Dev.setP_now (id i v : Nat) : (s.setP id i v).now = s.now := rfl
@[simp] theorem Dev.setP_tbOff (id i v : Nat) : (s.setP id i v).tbOff = s.tbOff := rfl
@[simp] theorem Dev.setP_out (id i v : Nat) : (s.setP id i v).out = s.out := rfl
@[simp] theorem Dev.setP_int0 (id i v : Nat) : (s.setP id i v).int0 = s.int0 := rfl
@[simp] theorem Dev.setP_int1 (id i v : Nat) : (s.setP id i v).int1 = s.int1 := rfl
@[simp] theorem Dev.setP_intMap (id i v : Nat) : (s.setP id i v).intMap = s.intMap := rfl
@[simp] theorem Dev.setP_latch (id i v : Nat) : (s.setP id i v).latch = s.latch := rfl
@[simp] theorem Dev.setP_mbs (id i v : Nat) : (s.setP id i v).mbs = s.mbs := rfl
@[simp] theorem Dev.setP_doorbells (id i v : Nat) : (s.setP id i v).doorbells = s.doorbells := rfl
@[simp] theorem Dev.setP_encs (id i v : Nat) : (s.setP id i v).encs = s.encs := rfl
@[simp] theorem Dev.setP_axes (id i v : Nat) : (s.setP id i v).axes = s.axes := rfl
@[simp] theorem Dev.setP_trigs (id i v : Nat) : (s.setP id i v).trigs = s.trigs := rfl
@[simp] theorem Dev.setP_ins (id i v : Nat) : (s.setP id i v).ins = s.ins := rfl
@[simp] theorem Dev.setP_outs (id i v : Nat) : (s.setP id i v).outs = s.outs := rfl
@[simp] theorem Dev.setP_mer (id i v : Nat) : (s.setP id i v).mer = s.mer := rfl
@[simp] theorem Dev.setP_lanes (id i v : Nat) : (s.setP id i v).lanes = s.lanes := rfl
@[simp] theorem Dev.setP_heads (id i v : Nat) : (s.setP id i v).heads = s.heads := rfl
@[simp] theorem Dev.setP_binds (id i v : Nat) : (s.setP id i v).binds = s.binds := rfl
@[simp] theorem Dev.setP_streams (id i v : Nat) : (s.setP id i v).streams = s.streams := rfl
@[simp] theorem Dev.setP_taps (id i v : Nat) : (s.setP id i v).taps = s.taps := rfl
@[simp] theorem Dev.setP_nibs (id i v : Nat) : (s.setP id i v).nibs = s.nibs := rfl
@[simp] theorem Dev.setP_slots (id i v : Nat) : (s.setP id i v).slots = s.slots := rfl
@[simp] theorem Dev.setP_tiles (id i v : Nat) : (s.setP id i v).tiles = s.tiles := rfl
@[simp] theorem Dev.setP_tileNo (id i v : Nat) : (s.setP id i v).tileNo = s.tileNo := rfl
@[simp] theorem Dev.setP_seqs (id i v : Nat) : (s.setP id i v).seqs = s.seqs := rfl
@[simp] theorem Dev.setP_ledger (id i v : Nat) : (s.setP id i v).ledger = s.ledger := rfl
@[simp] theorem Dev.setP_ephAt (id i v : Nat) : (s.setP id i v).ephAt = s.ephAt := rfl
@[simp] theorem Dev.setP_folioMib (id i v : Nat) : (s.setP id i v).folioMib = s.folioMib := rfl
@[simp] theorem Dev.setP_webs (id i v : Nat) : (s.setP id i v).webs = s.webs := rfl
@[simp] theorem Dev.setP_span (id i v : Nat) : (s.setP id i v).span = s.span := rfl
@[simp] theorem Dev.setP_poison (id i v : Nat) : (s.setP id i v).poison = s.poison := rfl
@[simp] theorem Dev.setP_dirty (id i v : Nat) : (s.setP id i v).dirty = s.dirty := rfl
@[simp] theorem Dev.setP_scrubbed (id i v : Nat) : (s.setP id i v).scrubbed = s.scrubbed := rfl
@[simp] theorem Dev.setP_queues (id i v : Nat) : (s.setP id i v).queues = s.queues := rfl
@[simp] theorem Dev.setP_chans (id i v : Nat) : (s.setP id i v).chans = s.chans := rfl
@[simp] theorem Dev.setP_quill (id i v : Nat) : (s.setP id i v).quill = s.quill := rfl
@[simp] theorem Dev.setP_dux (id i v : Nat) : (s.setP id i v).dux = s.dux := rfl
@[simp] theorem Dev.setP_flight (id i v : Nat) : (s.setP id i v).flight = s.flight := rfl
@[simp] theorem Dev.setP_sinks (id i v : Nat) : (s.setP id i v).sinks = s.sinks := rfl
@[simp] theorem Dev.setP_gates (id i v : Nat) : (s.setP id i v).gates = s.gates := rfl
@[simp] theorem Dev.setP_droops (id i v : Nat) : (s.setP id i v).droops = s.droops := rfl
@[simp] theorem Dev.setP_rst (id i v : Nat) : (s.setP id i v).rst = s.rst := rfl
@[simp] theorem Dev.setP_sec (id i v : Nat) : (s.setP id i v).sec = s.sec := rfl
@[simp] theorem Dev.setP_alm (id i v : Nat) : (s.setP id i v).alm = s.alm := rfl

@[simp] theorem Dev.setA_frc (k v : Nat) : (s.setA k v).frc = s.frc := rfl
@[simp] theorem Dev.setA_writes (k v : Nat) : (s.setA k v).writes = s.writes := rfl
@[simp] theorem Dev.setA_modeAt (k v : Nat) : (s.setA k v).modeAt = s.modeAt := rfl
@[simp] theorem Dev.setA_now (k v : Nat) : (s.setA k v).now = s.now := rfl
@[simp] theorem Dev.setA_tbOff (k v : Nat) : (s.setA k v).tbOff = s.tbOff := rfl
@[simp] theorem Dev.setA_out (k v : Nat) : (s.setA k v).out = s.out := rfl
@[simp] theorem Dev.setA_int0 (k v : Nat) : (s.setA k v).int0 = s.int0 := rfl
@[simp] theorem Dev.setA_int1 (k v : Nat) : (s.setA k v).int1 = s.int1 := rfl
@[simp] theorem Dev.setA_intMap (k v : Nat) : (s.setA k v).intMap = s.intMap := rfl
@[simp] theorem Dev.setA_latch (k v : Nat) : (s.setA k v).latch = s.latch := rfl
@[simp] theorem Dev.setA_mbs (k v : Nat) : (s.setA k v).mbs = s.mbs := rfl
@[simp] theorem Dev.setA_doorbells (k v : Nat) : (s.setA k v).doorbells = s.doorbells := rfl
@[simp] theorem Dev.setA_encs (k v : Nat) : (s.setA k v).encs = s.encs := rfl
@[simp] theorem Dev.setA_axes (k v : Nat) : (s.setA k v).axes = s.axes := rfl
@[simp] theorem Dev.setA_trigs (k v : Nat) : (s.setA k v).trigs = s.trigs := rfl
@[simp] theorem Dev.setA_ins (k v : Nat) : (s.setA k v).ins = s.ins := rfl
@[simp] theorem Dev.setA_outs (k v : Nat) : (s.setA k v).outs = s.outs := rfl
@[simp] theorem Dev.setA_mer (k v : Nat) : (s.setA k v).mer = s.mer := rfl
@[simp] theorem Dev.setA_lanes (k v : Nat) : (s.setA k v).lanes = s.lanes := rfl
@[simp] theorem Dev.setA_heads (k v : Nat) : (s.setA k v).heads = s.heads := rfl
@[simp] theorem Dev.setA_binds (k v : Nat) : (s.setA k v).binds = s.binds := rfl
@[simp] theorem Dev.setA_streams (k v : Nat) : (s.setA k v).streams = s.streams := rfl
@[simp] theorem Dev.setA_taps (k v : Nat) : (s.setA k v).taps = s.taps := rfl
@[simp] theorem Dev.setA_nibs (k v : Nat) : (s.setA k v).nibs = s.nibs := rfl
@[simp] theorem Dev.setA_slots (k v : Nat) : (s.setA k v).slots = s.slots := rfl
@[simp] theorem Dev.setA_tiles (k v : Nat) : (s.setA k v).tiles = s.tiles := rfl
@[simp] theorem Dev.setA_tileNo (k v : Nat) : (s.setA k v).tileNo = s.tileNo := rfl
@[simp] theorem Dev.setA_seqs (k v : Nat) : (s.setA k v).seqs = s.seqs := rfl
@[simp] theorem Dev.setA_ledger (k v : Nat) : (s.setA k v).ledger = s.ledger := rfl
@[simp] theorem Dev.setA_ephAt (k v : Nat) : (s.setA k v).ephAt = s.ephAt := rfl
@[simp] theorem Dev.setA_folioMib (k v : Nat) : (s.setA k v).folioMib = s.folioMib := rfl
@[simp] theorem Dev.setA_webs (k v : Nat) : (s.setA k v).webs = s.webs := rfl
@[simp] theorem Dev.setA_span (k v : Nat) : (s.setA k v).span = s.span := rfl
@[simp] theorem Dev.setA_poison (k v : Nat) : (s.setA k v).poison = s.poison := rfl
@[simp] theorem Dev.setA_dirty (k v : Nat) : (s.setA k v).dirty = s.dirty := rfl
@[simp] theorem Dev.setA_scrubbed (k v : Nat) : (s.setA k v).scrubbed = s.scrubbed := rfl
@[simp] theorem Dev.setA_queues (k v : Nat) : (s.setA k v).queues = s.queues := rfl
@[simp] theorem Dev.setA_chans (k v : Nat) : (s.setA k v).chans = s.chans := rfl
@[simp] theorem Dev.setA_quill (k v : Nat) : (s.setA k v).quill = s.quill := rfl
@[simp] theorem Dev.setA_dux (k v : Nat) : (s.setA k v).dux = s.dux := rfl
@[simp] theorem Dev.setA_flight (k v : Nat) : (s.setA k v).flight = s.flight := rfl
@[simp] theorem Dev.setA_sinks (k v : Nat) : (s.setA k v).sinks = s.sinks := rfl
@[simp] theorem Dev.setA_gates (k v : Nat) : (s.setA k v).gates = s.gates := rfl
@[simp] theorem Dev.setA_droops (k v : Nat) : (s.setA k v).droops = s.droops := rfl
@[simp] theorem Dev.setA_rst (k v : Nat) : (s.setA k v).rst = s.rst := rfl
@[simp] theorem Dev.setA_sec (k v : Nat) : (s.setA k v).sec = s.sec := rfl
@[simp] theorem Dev.setA_alm (k v : Nat) : (s.setA k v).alm = s.alm := rfl

@[simp] theorem Dev.emit_acc (o : Output) : (s.emit o).acc = s.acc := rfl
@[simp] theorem Dev.emit_frc (o : Output) : (s.emit o).frc = s.frc := rfl
@[simp] theorem Dev.emit_writes (o : Output) : (s.emit o).writes = s.writes := rfl
@[simp] theorem Dev.emit_modeAt (o : Output) : (s.emit o).modeAt = s.modeAt := rfl
@[simp] theorem Dev.emit_now (o : Output) : (s.emit o).now = s.now := rfl
@[simp] theorem Dev.emit_tbOff (o : Output) : (s.emit o).tbOff = s.tbOff := rfl
@[simp] theorem Dev.emit_int0 (o : Output) : (s.emit o).int0 = s.int0 := rfl
@[simp] theorem Dev.emit_int1 (o : Output) : (s.emit o).int1 = s.int1 := rfl
@[simp] theorem Dev.emit_intMap (o : Output) : (s.emit o).intMap = s.intMap := rfl
@[simp] theorem Dev.emit_latch (o : Output) : (s.emit o).latch = s.latch := rfl
@[simp] theorem Dev.emit_mbs (o : Output) : (s.emit o).mbs = s.mbs := rfl
@[simp] theorem Dev.emit_doorbells (o : Output) : (s.emit o).doorbells = s.doorbells := rfl
@[simp] theorem Dev.emit_encs (o : Output) : (s.emit o).encs = s.encs := rfl
@[simp] theorem Dev.emit_axes (o : Output) : (s.emit o).axes = s.axes := rfl
@[simp] theorem Dev.emit_trigs (o : Output) : (s.emit o).trigs = s.trigs := rfl
@[simp] theorem Dev.emit_ins (o : Output) : (s.emit o).ins = s.ins := rfl
@[simp] theorem Dev.emit_outs (o : Output) : (s.emit o).outs = s.outs := rfl
@[simp] theorem Dev.emit_mer (o : Output) : (s.emit o).mer = s.mer := rfl
@[simp] theorem Dev.emit_lanes (o : Output) : (s.emit o).lanes = s.lanes := rfl
@[simp] theorem Dev.emit_heads (o : Output) : (s.emit o).heads = s.heads := rfl
@[simp] theorem Dev.emit_binds (o : Output) : (s.emit o).binds = s.binds := rfl
@[simp] theorem Dev.emit_streams (o : Output) : (s.emit o).streams = s.streams := rfl
@[simp] theorem Dev.emit_taps (o : Output) : (s.emit o).taps = s.taps := rfl
@[simp] theorem Dev.emit_nibs (o : Output) : (s.emit o).nibs = s.nibs := rfl
@[simp] theorem Dev.emit_slots (o : Output) : (s.emit o).slots = s.slots := rfl
@[simp] theorem Dev.emit_tiles (o : Output) : (s.emit o).tiles = s.tiles := rfl
@[simp] theorem Dev.emit_tileNo (o : Output) : (s.emit o).tileNo = s.tileNo := rfl
@[simp] theorem Dev.emit_seqs (o : Output) : (s.emit o).seqs = s.seqs := rfl
@[simp] theorem Dev.emit_ledger (o : Output) : (s.emit o).ledger = s.ledger := rfl
@[simp] theorem Dev.emit_ephAt (o : Output) : (s.emit o).ephAt = s.ephAt := rfl
@[simp] theorem Dev.emit_folioMib (o : Output) : (s.emit o).folioMib = s.folioMib := rfl
@[simp] theorem Dev.emit_webs (o : Output) : (s.emit o).webs = s.webs := rfl
@[simp] theorem Dev.emit_span (o : Output) : (s.emit o).span = s.span := rfl
@[simp] theorem Dev.emit_poison (o : Output) : (s.emit o).poison = s.poison := rfl
@[simp] theorem Dev.emit_dirty (o : Output) : (s.emit o).dirty = s.dirty := rfl
@[simp] theorem Dev.emit_scrubbed (o : Output) : (s.emit o).scrubbed = s.scrubbed := rfl
@[simp] theorem Dev.emit_queues (o : Output) : (s.emit o).queues = s.queues := rfl
@[simp] theorem Dev.emit_chans (o : Output) : (s.emit o).chans = s.chans := rfl
@[simp] theorem Dev.emit_quill (o : Output) : (s.emit o).quill = s.quill := rfl
@[simp] theorem Dev.emit_dux (o : Output) : (s.emit o).dux = s.dux := rfl
@[simp] theorem Dev.emit_flight (o : Output) : (s.emit o).flight = s.flight := rfl
@[simp] theorem Dev.emit_sinks (o : Output) : (s.emit o).sinks = s.sinks := rfl
@[simp] theorem Dev.emit_gates (o : Output) : (s.emit o).gates = s.gates := rfl
@[simp] theorem Dev.emit_droops (o : Output) : (s.emit o).droops = s.droops := rfl
@[simp] theorem Dev.emit_rst (o : Output) : (s.emit o).rst = s.rst := rfl
@[simp] theorem Dev.emit_sec (o : Output) : (s.emit o).sec = s.sec := rfl
@[simp] theorem Dev.emit_alm (o : Output) : (s.emit o).alm = s.alm := rfl

@[simp] theorem Dev.at'_acc (t : Nat) : (s.at' t).acc = s.acc := rfl
@[simp] theorem Dev.at'_frc (t : Nat) : (s.at' t).frc = s.frc := rfl
@[simp] theorem Dev.at'_writes (t : Nat) : (s.at' t).writes = s.writes := rfl
@[simp] theorem Dev.at'_modeAt (t : Nat) : (s.at' t).modeAt = s.modeAt := rfl
@[simp] theorem Dev.at'_tbOff (t : Nat) : (s.at' t).tbOff = s.tbOff := rfl
@[simp] theorem Dev.at'_out (t : Nat) : (s.at' t).out = s.out := rfl
@[simp] theorem Dev.at'_int0 (t : Nat) : (s.at' t).int0 = s.int0 := rfl
@[simp] theorem Dev.at'_int1 (t : Nat) : (s.at' t).int1 = s.int1 := rfl
@[simp] theorem Dev.at'_intMap (t : Nat) : (s.at' t).intMap = s.intMap := rfl
@[simp] theorem Dev.at'_latch (t : Nat) : (s.at' t).latch = s.latch := rfl
@[simp] theorem Dev.at'_mbs (t : Nat) : (s.at' t).mbs = s.mbs := rfl
@[simp] theorem Dev.at'_doorbells (t : Nat) : (s.at' t).doorbells = s.doorbells := rfl
@[simp] theorem Dev.at'_encs (t : Nat) : (s.at' t).encs = s.encs := rfl
@[simp] theorem Dev.at'_axes (t : Nat) : (s.at' t).axes = s.axes := rfl
@[simp] theorem Dev.at'_trigs (t : Nat) : (s.at' t).trigs = s.trigs := rfl
@[simp] theorem Dev.at'_ins (t : Nat) : (s.at' t).ins = s.ins := rfl
@[simp] theorem Dev.at'_outs (t : Nat) : (s.at' t).outs = s.outs := rfl
@[simp] theorem Dev.at'_mer (t : Nat) : (s.at' t).mer = s.mer := rfl
@[simp] theorem Dev.at'_lanes (t : Nat) : (s.at' t).lanes = s.lanes := rfl
@[simp] theorem Dev.at'_heads (t : Nat) : (s.at' t).heads = s.heads := rfl
@[simp] theorem Dev.at'_binds (t : Nat) : (s.at' t).binds = s.binds := rfl
@[simp] theorem Dev.at'_streams (t : Nat) : (s.at' t).streams = s.streams := rfl
@[simp] theorem Dev.at'_taps (t : Nat) : (s.at' t).taps = s.taps := rfl
@[simp] theorem Dev.at'_nibs (t : Nat) : (s.at' t).nibs = s.nibs := rfl
@[simp] theorem Dev.at'_slots (t : Nat) : (s.at' t).slots = s.slots := rfl
@[simp] theorem Dev.at'_tiles (t : Nat) : (s.at' t).tiles = s.tiles := rfl
@[simp] theorem Dev.at'_tileNo (t : Nat) : (s.at' t).tileNo = s.tileNo := rfl
@[simp] theorem Dev.at'_seqs (t : Nat) : (s.at' t).seqs = s.seqs := rfl
@[simp] theorem Dev.at'_ledger (t : Nat) : (s.at' t).ledger = s.ledger := rfl
@[simp] theorem Dev.at'_ephAt (t : Nat) : (s.at' t).ephAt = s.ephAt := rfl
@[simp] theorem Dev.at'_folioMib (t : Nat) : (s.at' t).folioMib = s.folioMib := rfl
@[simp] theorem Dev.at'_webs (t : Nat) : (s.at' t).webs = s.webs := rfl
@[simp] theorem Dev.at'_span (t : Nat) : (s.at' t).span = s.span := rfl
@[simp] theorem Dev.at'_poison (t : Nat) : (s.at' t).poison = s.poison := rfl
@[simp] theorem Dev.at'_dirty (t : Nat) : (s.at' t).dirty = s.dirty := rfl
@[simp] theorem Dev.at'_scrubbed (t : Nat) : (s.at' t).scrubbed = s.scrubbed := rfl
@[simp] theorem Dev.at'_queues (t : Nat) : (s.at' t).queues = s.queues := rfl
@[simp] theorem Dev.at'_chans (t : Nat) : (s.at' t).chans = s.chans := rfl
@[simp] theorem Dev.at'_quill (t : Nat) : (s.at' t).quill = s.quill := rfl
@[simp] theorem Dev.at'_dux (t : Nat) : (s.at' t).dux = s.dux := rfl
@[simp] theorem Dev.at'_flight (t : Nat) : (s.at' t).flight = s.flight := rfl
@[simp] theorem Dev.at'_sinks (t : Nat) : (s.at' t).sinks = s.sinks := rfl
@[simp] theorem Dev.at'_gates (t : Nat) : (s.at' t).gates = s.gates := rfl
@[simp] theorem Dev.at'_droops (t : Nat) : (s.at' t).droops = s.droops := rfl
@[simp] theorem Dev.at'_rst (t : Nat) : (s.at' t).rst = s.rst := rfl
@[simp] theorem Dev.at'_sec (t : Nat) : (s.at' t).sec = s.sec := rfl
@[simp] theorem Dev.at'_alm (t : Nat) : (s.at' t).alm = s.alm := rfl

@[simp] theorem Dev.setMb_acc (i : Nat) (x : Mailbox) : (s.setMb i x).acc = s.acc := rfl
@[simp] theorem Dev.setMb_frc (i : Nat) (x : Mailbox) : (s.setMb i x).frc = s.frc := rfl
@[simp] theorem Dev.setMb_writes (i : Nat) (x : Mailbox) : (s.setMb i x).writes = s.writes := rfl
@[simp] theorem Dev.setMb_modeAt (i : Nat) (x : Mailbox) : (s.setMb i x).modeAt = s.modeAt := rfl
@[simp] theorem Dev.setMb_now (i : Nat) (x : Mailbox) : (s.setMb i x).now = s.now := rfl
@[simp] theorem Dev.setMb_tbOff (i : Nat) (x : Mailbox) : (s.setMb i x).tbOff = s.tbOff := rfl
@[simp] theorem Dev.setMb_out (i : Nat) (x : Mailbox) : (s.setMb i x).out = s.out := rfl
@[simp] theorem Dev.setMb_int0 (i : Nat) (x : Mailbox) : (s.setMb i x).int0 = s.int0 := rfl
@[simp] theorem Dev.setMb_int1 (i : Nat) (x : Mailbox) : (s.setMb i x).int1 = s.int1 := rfl
@[simp] theorem Dev.setMb_intMap (i : Nat) (x : Mailbox) : (s.setMb i x).intMap = s.intMap := rfl
@[simp] theorem Dev.setMb_latch (i : Nat) (x : Mailbox) : (s.setMb i x).latch = s.latch := rfl
@[simp] theorem Dev.setMb_doorbells (i : Nat) (x : Mailbox) : (s.setMb i x).doorbells = s.doorbells := rfl
@[simp] theorem Dev.setMb_encs (i : Nat) (x : Mailbox) : (s.setMb i x).encs = s.encs := rfl
@[simp] theorem Dev.setMb_axes (i : Nat) (x : Mailbox) : (s.setMb i x).axes = s.axes := rfl
@[simp] theorem Dev.setMb_trigs (i : Nat) (x : Mailbox) : (s.setMb i x).trigs = s.trigs := rfl
@[simp] theorem Dev.setMb_ins (i : Nat) (x : Mailbox) : (s.setMb i x).ins = s.ins := rfl
@[simp] theorem Dev.setMb_outs (i : Nat) (x : Mailbox) : (s.setMb i x).outs = s.outs := rfl
@[simp] theorem Dev.setMb_mer (i : Nat) (x : Mailbox) : (s.setMb i x).mer = s.mer := rfl
@[simp] theorem Dev.setMb_lanes (i : Nat) (x : Mailbox) : (s.setMb i x).lanes = s.lanes := rfl
@[simp] theorem Dev.setMb_heads (i : Nat) (x : Mailbox) : (s.setMb i x).heads = s.heads := rfl
@[simp] theorem Dev.setMb_binds (i : Nat) (x : Mailbox) : (s.setMb i x).binds = s.binds := rfl
@[simp] theorem Dev.setMb_streams (i : Nat) (x : Mailbox) : (s.setMb i x).streams = s.streams := rfl
@[simp] theorem Dev.setMb_taps (i : Nat) (x : Mailbox) : (s.setMb i x).taps = s.taps := rfl
@[simp] theorem Dev.setMb_nibs (i : Nat) (x : Mailbox) : (s.setMb i x).nibs = s.nibs := rfl
@[simp] theorem Dev.setMb_slots (i : Nat) (x : Mailbox) : (s.setMb i x).slots = s.slots := rfl
@[simp] theorem Dev.setMb_tiles (i : Nat) (x : Mailbox) : (s.setMb i x).tiles = s.tiles := rfl
@[simp] theorem Dev.setMb_tileNo (i : Nat) (x : Mailbox) : (s.setMb i x).tileNo = s.tileNo := rfl
@[simp] theorem Dev.setMb_seqs (i : Nat) (x : Mailbox) : (s.setMb i x).seqs = s.seqs := rfl
@[simp] theorem Dev.setMb_ledger (i : Nat) (x : Mailbox) : (s.setMb i x).ledger = s.ledger := rfl
@[simp] theorem Dev.setMb_ephAt (i : Nat) (x : Mailbox) : (s.setMb i x).ephAt = s.ephAt := rfl
@[simp] theorem Dev.setMb_folioMib (i : Nat) (x : Mailbox) : (s.setMb i x).folioMib = s.folioMib := rfl
@[simp] theorem Dev.setMb_webs (i : Nat) (x : Mailbox) : (s.setMb i x).webs = s.webs := rfl
@[simp] theorem Dev.setMb_span (i : Nat) (x : Mailbox) : (s.setMb i x).span = s.span := rfl
@[simp] theorem Dev.setMb_poison (i : Nat) (x : Mailbox) : (s.setMb i x).poison = s.poison := rfl
@[simp] theorem Dev.setMb_dirty (i : Nat) (x : Mailbox) : (s.setMb i x).dirty = s.dirty := rfl
@[simp] theorem Dev.setMb_scrubbed (i : Nat) (x : Mailbox) : (s.setMb i x).scrubbed = s.scrubbed := rfl
@[simp] theorem Dev.setMb_queues (i : Nat) (x : Mailbox) : (s.setMb i x).queues = s.queues := rfl
@[simp] theorem Dev.setMb_chans (i : Nat) (x : Mailbox) : (s.setMb i x).chans = s.chans := rfl
@[simp] theorem Dev.setMb_quill (i : Nat) (x : Mailbox) : (s.setMb i x).quill = s.quill := rfl
@[simp] theorem Dev.setMb_dux (i : Nat) (x : Mailbox) : (s.setMb i x).dux = s.dux := rfl
@[simp] theorem Dev.setMb_flight (i : Nat) (x : Mailbox) : (s.setMb i x).flight = s.flight := rfl
@[simp] theorem Dev.setMb_sinks (i : Nat) (x : Mailbox) : (s.setMb i x).sinks = s.sinks := rfl
@[simp] theorem Dev.setMb_gates (i : Nat) (x : Mailbox) : (s.setMb i x).gates = s.gates := rfl
@[simp] theorem Dev.setMb_droops (i : Nat) (x : Mailbox) : (s.setMb i x).droops = s.droops := rfl
@[simp] theorem Dev.setMb_rst (i : Nat) (x : Mailbox) : (s.setMb i x).rst = s.rst := rfl
@[simp] theorem Dev.setMb_sec (i : Nat) (x : Mailbox) : (s.setMb i x).sec = s.sec := rfl
@[simp] theorem Dev.setMb_alm (i : Nat) (x : Mailbox) : (s.setMb i x).alm = s.alm := rfl

@[simp] theorem Dev.setEnc_acc (i : Nat) (x : Enc) : (s.setEnc i x).acc = s.acc := rfl
@[simp] theorem Dev.setEnc_frc (i : Nat) (x : Enc) : (s.setEnc i x).frc = s.frc := rfl
@[simp] theorem Dev.setEnc_writes (i : Nat) (x : Enc) : (s.setEnc i x).writes = s.writes := rfl
@[simp] theorem Dev.setEnc_modeAt (i : Nat) (x : Enc) : (s.setEnc i x).modeAt = s.modeAt := rfl
@[simp] theorem Dev.setEnc_now (i : Nat) (x : Enc) : (s.setEnc i x).now = s.now := rfl
@[simp] theorem Dev.setEnc_tbOff (i : Nat) (x : Enc) : (s.setEnc i x).tbOff = s.tbOff := rfl
@[simp] theorem Dev.setEnc_out (i : Nat) (x : Enc) : (s.setEnc i x).out = s.out := rfl
@[simp] theorem Dev.setEnc_int0 (i : Nat) (x : Enc) : (s.setEnc i x).int0 = s.int0 := rfl
@[simp] theorem Dev.setEnc_int1 (i : Nat) (x : Enc) : (s.setEnc i x).int1 = s.int1 := rfl
@[simp] theorem Dev.setEnc_intMap (i : Nat) (x : Enc) : (s.setEnc i x).intMap = s.intMap := rfl
@[simp] theorem Dev.setEnc_latch (i : Nat) (x : Enc) : (s.setEnc i x).latch = s.latch := rfl
@[simp] theorem Dev.setEnc_mbs (i : Nat) (x : Enc) : (s.setEnc i x).mbs = s.mbs := rfl
@[simp] theorem Dev.setEnc_doorbells (i : Nat) (x : Enc) : (s.setEnc i x).doorbells = s.doorbells := rfl
@[simp] theorem Dev.setEnc_axes (i : Nat) (x : Enc) : (s.setEnc i x).axes = s.axes := rfl
@[simp] theorem Dev.setEnc_trigs (i : Nat) (x : Enc) : (s.setEnc i x).trigs = s.trigs := rfl
@[simp] theorem Dev.setEnc_ins (i : Nat) (x : Enc) : (s.setEnc i x).ins = s.ins := rfl
@[simp] theorem Dev.setEnc_outs (i : Nat) (x : Enc) : (s.setEnc i x).outs = s.outs := rfl
@[simp] theorem Dev.setEnc_mer (i : Nat) (x : Enc) : (s.setEnc i x).mer = s.mer := rfl
@[simp] theorem Dev.setEnc_lanes (i : Nat) (x : Enc) : (s.setEnc i x).lanes = s.lanes := rfl
@[simp] theorem Dev.setEnc_heads (i : Nat) (x : Enc) : (s.setEnc i x).heads = s.heads := rfl
@[simp] theorem Dev.setEnc_binds (i : Nat) (x : Enc) : (s.setEnc i x).binds = s.binds := rfl
@[simp] theorem Dev.setEnc_streams (i : Nat) (x : Enc) : (s.setEnc i x).streams = s.streams := rfl
@[simp] theorem Dev.setEnc_taps (i : Nat) (x : Enc) : (s.setEnc i x).taps = s.taps := rfl
@[simp] theorem Dev.setEnc_nibs (i : Nat) (x : Enc) : (s.setEnc i x).nibs = s.nibs := rfl
@[simp] theorem Dev.setEnc_slots (i : Nat) (x : Enc) : (s.setEnc i x).slots = s.slots := rfl
@[simp] theorem Dev.setEnc_tiles (i : Nat) (x : Enc) : (s.setEnc i x).tiles = s.tiles := rfl
@[simp] theorem Dev.setEnc_tileNo (i : Nat) (x : Enc) : (s.setEnc i x).tileNo = s.tileNo := rfl
@[simp] theorem Dev.setEnc_seqs (i : Nat) (x : Enc) : (s.setEnc i x).seqs = s.seqs := rfl
@[simp] theorem Dev.setEnc_ledger (i : Nat) (x : Enc) : (s.setEnc i x).ledger = s.ledger := rfl
@[simp] theorem Dev.setEnc_ephAt (i : Nat) (x : Enc) : (s.setEnc i x).ephAt = s.ephAt := rfl
@[simp] theorem Dev.setEnc_folioMib (i : Nat) (x : Enc) : (s.setEnc i x).folioMib = s.folioMib := rfl
@[simp] theorem Dev.setEnc_webs (i : Nat) (x : Enc) : (s.setEnc i x).webs = s.webs := rfl
@[simp] theorem Dev.setEnc_span (i : Nat) (x : Enc) : (s.setEnc i x).span = s.span := rfl
@[simp] theorem Dev.setEnc_poison (i : Nat) (x : Enc) : (s.setEnc i x).poison = s.poison := rfl
@[simp] theorem Dev.setEnc_dirty (i : Nat) (x : Enc) : (s.setEnc i x).dirty = s.dirty := rfl
@[simp] theorem Dev.setEnc_scrubbed (i : Nat) (x : Enc) : (s.setEnc i x).scrubbed = s.scrubbed := rfl
@[simp] theorem Dev.setEnc_queues (i : Nat) (x : Enc) : (s.setEnc i x).queues = s.queues := rfl
@[simp] theorem Dev.setEnc_chans (i : Nat) (x : Enc) : (s.setEnc i x).chans = s.chans := rfl
@[simp] theorem Dev.setEnc_quill (i : Nat) (x : Enc) : (s.setEnc i x).quill = s.quill := rfl
@[simp] theorem Dev.setEnc_dux (i : Nat) (x : Enc) : (s.setEnc i x).dux = s.dux := rfl
@[simp] theorem Dev.setEnc_flight (i : Nat) (x : Enc) : (s.setEnc i x).flight = s.flight := rfl
@[simp] theorem Dev.setEnc_sinks (i : Nat) (x : Enc) : (s.setEnc i x).sinks = s.sinks := rfl
@[simp] theorem Dev.setEnc_gates (i : Nat) (x : Enc) : (s.setEnc i x).gates = s.gates := rfl
@[simp] theorem Dev.setEnc_droops (i : Nat) (x : Enc) : (s.setEnc i x).droops = s.droops := rfl
@[simp] theorem Dev.setEnc_rst (i : Nat) (x : Enc) : (s.setEnc i x).rst = s.rst := rfl
@[simp] theorem Dev.setEnc_sec (i : Nat) (x : Enc) : (s.setEnc i x).sec = s.sec := rfl
@[simp] theorem Dev.setEnc_alm (i : Nat) (x : Enc) : (s.setEnc i x).alm = s.alm := rfl

@[simp] theorem Dev.setAxis_acc (i : Nat) (x : Axis) : (s.setAxis i x).acc = s.acc := rfl
@[simp] theorem Dev.setAxis_frc (i : Nat) (x : Axis) : (s.setAxis i x).frc = s.frc := rfl
@[simp] theorem Dev.setAxis_writes (i : Nat) (x : Axis) : (s.setAxis i x).writes = s.writes := rfl
@[simp] theorem Dev.setAxis_modeAt (i : Nat) (x : Axis) : (s.setAxis i x).modeAt = s.modeAt := rfl
@[simp] theorem Dev.setAxis_now (i : Nat) (x : Axis) : (s.setAxis i x).now = s.now := rfl
@[simp] theorem Dev.setAxis_tbOff (i : Nat) (x : Axis) : (s.setAxis i x).tbOff = s.tbOff := rfl
@[simp] theorem Dev.setAxis_out (i : Nat) (x : Axis) : (s.setAxis i x).out = s.out := rfl
@[simp] theorem Dev.setAxis_int0 (i : Nat) (x : Axis) : (s.setAxis i x).int0 = s.int0 := rfl
@[simp] theorem Dev.setAxis_int1 (i : Nat) (x : Axis) : (s.setAxis i x).int1 = s.int1 := rfl
@[simp] theorem Dev.setAxis_intMap (i : Nat) (x : Axis) : (s.setAxis i x).intMap = s.intMap := rfl
@[simp] theorem Dev.setAxis_latch (i : Nat) (x : Axis) : (s.setAxis i x).latch = s.latch := rfl
@[simp] theorem Dev.setAxis_mbs (i : Nat) (x : Axis) : (s.setAxis i x).mbs = s.mbs := rfl
@[simp] theorem Dev.setAxis_doorbells (i : Nat) (x : Axis) : (s.setAxis i x).doorbells = s.doorbells := rfl
@[simp] theorem Dev.setAxis_encs (i : Nat) (x : Axis) : (s.setAxis i x).encs = s.encs := rfl
@[simp] theorem Dev.setAxis_trigs (i : Nat) (x : Axis) : (s.setAxis i x).trigs = s.trigs := rfl
@[simp] theorem Dev.setAxis_ins (i : Nat) (x : Axis) : (s.setAxis i x).ins = s.ins := rfl
@[simp] theorem Dev.setAxis_outs (i : Nat) (x : Axis) : (s.setAxis i x).outs = s.outs := rfl
@[simp] theorem Dev.setAxis_mer (i : Nat) (x : Axis) : (s.setAxis i x).mer = s.mer := rfl
@[simp] theorem Dev.setAxis_lanes (i : Nat) (x : Axis) : (s.setAxis i x).lanes = s.lanes := rfl
@[simp] theorem Dev.setAxis_heads (i : Nat) (x : Axis) : (s.setAxis i x).heads = s.heads := rfl
@[simp] theorem Dev.setAxis_binds (i : Nat) (x : Axis) : (s.setAxis i x).binds = s.binds := rfl
@[simp] theorem Dev.setAxis_streams (i : Nat) (x : Axis) : (s.setAxis i x).streams = s.streams := rfl
@[simp] theorem Dev.setAxis_taps (i : Nat) (x : Axis) : (s.setAxis i x).taps = s.taps := rfl
@[simp] theorem Dev.setAxis_nibs (i : Nat) (x : Axis) : (s.setAxis i x).nibs = s.nibs := rfl
@[simp] theorem Dev.setAxis_slots (i : Nat) (x : Axis) : (s.setAxis i x).slots = s.slots := rfl
@[simp] theorem Dev.setAxis_tiles (i : Nat) (x : Axis) : (s.setAxis i x).tiles = s.tiles := rfl
@[simp] theorem Dev.setAxis_tileNo (i : Nat) (x : Axis) : (s.setAxis i x).tileNo = s.tileNo := rfl
@[simp] theorem Dev.setAxis_seqs (i : Nat) (x : Axis) : (s.setAxis i x).seqs = s.seqs := rfl
@[simp] theorem Dev.setAxis_ledger (i : Nat) (x : Axis) : (s.setAxis i x).ledger = s.ledger := rfl
@[simp] theorem Dev.setAxis_ephAt (i : Nat) (x : Axis) : (s.setAxis i x).ephAt = s.ephAt := rfl
@[simp] theorem Dev.setAxis_folioMib (i : Nat) (x : Axis) : (s.setAxis i x).folioMib = s.folioMib := rfl
@[simp] theorem Dev.setAxis_webs (i : Nat) (x : Axis) : (s.setAxis i x).webs = s.webs := rfl
@[simp] theorem Dev.setAxis_span (i : Nat) (x : Axis) : (s.setAxis i x).span = s.span := rfl
@[simp] theorem Dev.setAxis_poison (i : Nat) (x : Axis) : (s.setAxis i x).poison = s.poison := rfl
@[simp] theorem Dev.setAxis_dirty (i : Nat) (x : Axis) : (s.setAxis i x).dirty = s.dirty := rfl
@[simp] theorem Dev.setAxis_scrubbed (i : Nat) (x : Axis) : (s.setAxis i x).scrubbed = s.scrubbed := rfl
@[simp] theorem Dev.setAxis_queues (i : Nat) (x : Axis) : (s.setAxis i x).queues = s.queues := rfl
@[simp] theorem Dev.setAxis_chans (i : Nat) (x : Axis) : (s.setAxis i x).chans = s.chans := rfl
@[simp] theorem Dev.setAxis_quill (i : Nat) (x : Axis) : (s.setAxis i x).quill = s.quill := rfl
@[simp] theorem Dev.setAxis_dux (i : Nat) (x : Axis) : (s.setAxis i x).dux = s.dux := rfl
@[simp] theorem Dev.setAxis_flight (i : Nat) (x : Axis) : (s.setAxis i x).flight = s.flight := rfl
@[simp] theorem Dev.setAxis_sinks (i : Nat) (x : Axis) : (s.setAxis i x).sinks = s.sinks := rfl
@[simp] theorem Dev.setAxis_gates (i : Nat) (x : Axis) : (s.setAxis i x).gates = s.gates := rfl
@[simp] theorem Dev.setAxis_droops (i : Nat) (x : Axis) : (s.setAxis i x).droops = s.droops := rfl
@[simp] theorem Dev.setAxis_rst (i : Nat) (x : Axis) : (s.setAxis i x).rst = s.rst := rfl
@[simp] theorem Dev.setAxis_sec (i : Nat) (x : Axis) : (s.setAxis i x).sec = s.sec := rfl
@[simp] theorem Dev.setAxis_alm (i : Nat) (x : Axis) : (s.setAxis i x).alm = s.alm := rfl

@[simp] theorem Dev.setTrig_acc (i : Nat) (x : Trig) : (s.setTrig i x).acc = s.acc := rfl
@[simp] theorem Dev.setTrig_frc (i : Nat) (x : Trig) : (s.setTrig i x).frc = s.frc := rfl
@[simp] theorem Dev.setTrig_writes (i : Nat) (x : Trig) : (s.setTrig i x).writes = s.writes := rfl
@[simp] theorem Dev.setTrig_modeAt (i : Nat) (x : Trig) : (s.setTrig i x).modeAt = s.modeAt := rfl
@[simp] theorem Dev.setTrig_now (i : Nat) (x : Trig) : (s.setTrig i x).now = s.now := rfl
@[simp] theorem Dev.setTrig_tbOff (i : Nat) (x : Trig) : (s.setTrig i x).tbOff = s.tbOff := rfl
@[simp] theorem Dev.setTrig_out (i : Nat) (x : Trig) : (s.setTrig i x).out = s.out := rfl
@[simp] theorem Dev.setTrig_int0 (i : Nat) (x : Trig) : (s.setTrig i x).int0 = s.int0 := rfl
@[simp] theorem Dev.setTrig_int1 (i : Nat) (x : Trig) : (s.setTrig i x).int1 = s.int1 := rfl
@[simp] theorem Dev.setTrig_intMap (i : Nat) (x : Trig) : (s.setTrig i x).intMap = s.intMap := rfl
@[simp] theorem Dev.setTrig_latch (i : Nat) (x : Trig) : (s.setTrig i x).latch = s.latch := rfl
@[simp] theorem Dev.setTrig_mbs (i : Nat) (x : Trig) : (s.setTrig i x).mbs = s.mbs := rfl
@[simp] theorem Dev.setTrig_doorbells (i : Nat) (x : Trig) : (s.setTrig i x).doorbells = s.doorbells := rfl
@[simp] theorem Dev.setTrig_encs (i : Nat) (x : Trig) : (s.setTrig i x).encs = s.encs := rfl
@[simp] theorem Dev.setTrig_axes (i : Nat) (x : Trig) : (s.setTrig i x).axes = s.axes := rfl
@[simp] theorem Dev.setTrig_ins (i : Nat) (x : Trig) : (s.setTrig i x).ins = s.ins := rfl
@[simp] theorem Dev.setTrig_outs (i : Nat) (x : Trig) : (s.setTrig i x).outs = s.outs := rfl
@[simp] theorem Dev.setTrig_mer (i : Nat) (x : Trig) : (s.setTrig i x).mer = s.mer := rfl
@[simp] theorem Dev.setTrig_lanes (i : Nat) (x : Trig) : (s.setTrig i x).lanes = s.lanes := rfl
@[simp] theorem Dev.setTrig_heads (i : Nat) (x : Trig) : (s.setTrig i x).heads = s.heads := rfl
@[simp] theorem Dev.setTrig_binds (i : Nat) (x : Trig) : (s.setTrig i x).binds = s.binds := rfl
@[simp] theorem Dev.setTrig_streams (i : Nat) (x : Trig) : (s.setTrig i x).streams = s.streams := rfl
@[simp] theorem Dev.setTrig_taps (i : Nat) (x : Trig) : (s.setTrig i x).taps = s.taps := rfl
@[simp] theorem Dev.setTrig_nibs (i : Nat) (x : Trig) : (s.setTrig i x).nibs = s.nibs := rfl
@[simp] theorem Dev.setTrig_slots (i : Nat) (x : Trig) : (s.setTrig i x).slots = s.slots := rfl
@[simp] theorem Dev.setTrig_tiles (i : Nat) (x : Trig) : (s.setTrig i x).tiles = s.tiles := rfl
@[simp] theorem Dev.setTrig_tileNo (i : Nat) (x : Trig) : (s.setTrig i x).tileNo = s.tileNo := rfl
@[simp] theorem Dev.setTrig_seqs (i : Nat) (x : Trig) : (s.setTrig i x).seqs = s.seqs := rfl
@[simp] theorem Dev.setTrig_ledger (i : Nat) (x : Trig) : (s.setTrig i x).ledger = s.ledger := rfl
@[simp] theorem Dev.setTrig_ephAt (i : Nat) (x : Trig) : (s.setTrig i x).ephAt = s.ephAt := rfl
@[simp] theorem Dev.setTrig_folioMib (i : Nat) (x : Trig) : (s.setTrig i x).folioMib = s.folioMib := rfl
@[simp] theorem Dev.setTrig_webs (i : Nat) (x : Trig) : (s.setTrig i x).webs = s.webs := rfl
@[simp] theorem Dev.setTrig_span (i : Nat) (x : Trig) : (s.setTrig i x).span = s.span := rfl
@[simp] theorem Dev.setTrig_poison (i : Nat) (x : Trig) : (s.setTrig i x).poison = s.poison := rfl
@[simp] theorem Dev.setTrig_dirty (i : Nat) (x : Trig) : (s.setTrig i x).dirty = s.dirty := rfl
@[simp] theorem Dev.setTrig_scrubbed (i : Nat) (x : Trig) : (s.setTrig i x).scrubbed = s.scrubbed := rfl
@[simp] theorem Dev.setTrig_queues (i : Nat) (x : Trig) : (s.setTrig i x).queues = s.queues := rfl
@[simp] theorem Dev.setTrig_chans (i : Nat) (x : Trig) : (s.setTrig i x).chans = s.chans := rfl
@[simp] theorem Dev.setTrig_quill (i : Nat) (x : Trig) : (s.setTrig i x).quill = s.quill := rfl
@[simp] theorem Dev.setTrig_dux (i : Nat) (x : Trig) : (s.setTrig i x).dux = s.dux := rfl
@[simp] theorem Dev.setTrig_flight (i : Nat) (x : Trig) : (s.setTrig i x).flight = s.flight := rfl
@[simp] theorem Dev.setTrig_sinks (i : Nat) (x : Trig) : (s.setTrig i x).sinks = s.sinks := rfl
@[simp] theorem Dev.setTrig_gates (i : Nat) (x : Trig) : (s.setTrig i x).gates = s.gates := rfl
@[simp] theorem Dev.setTrig_droops (i : Nat) (x : Trig) : (s.setTrig i x).droops = s.droops := rfl
@[simp] theorem Dev.setTrig_rst (i : Nat) (x : Trig) : (s.setTrig i x).rst = s.rst := rfl
@[simp] theorem Dev.setTrig_sec (i : Nat) (x : Trig) : (s.setTrig i x).sec = s.sec := rfl
@[simp] theorem Dev.setTrig_alm (i : Nat) (x : Trig) : (s.setTrig i x).alm = s.alm := rfl

@[simp] theorem Dev.setFin_acc (i : Nat) (x : FieldIn) : (s.setFin i x).acc = s.acc := rfl
@[simp] theorem Dev.setFin_frc (i : Nat) (x : FieldIn) : (s.setFin i x).frc = s.frc := rfl
@[simp] theorem Dev.setFin_writes (i : Nat) (x : FieldIn) : (s.setFin i x).writes = s.writes := rfl
@[simp] theorem Dev.setFin_modeAt (i : Nat) (x : FieldIn) : (s.setFin i x).modeAt = s.modeAt := rfl
@[simp] theorem Dev.setFin_now (i : Nat) (x : FieldIn) : (s.setFin i x).now = s.now := rfl
@[simp] theorem Dev.setFin_tbOff (i : Nat) (x : FieldIn) : (s.setFin i x).tbOff = s.tbOff := rfl
@[simp] theorem Dev.setFin_out (i : Nat) (x : FieldIn) : (s.setFin i x).out = s.out := rfl
@[simp] theorem Dev.setFin_int0 (i : Nat) (x : FieldIn) : (s.setFin i x).int0 = s.int0 := rfl
@[simp] theorem Dev.setFin_int1 (i : Nat) (x : FieldIn) : (s.setFin i x).int1 = s.int1 := rfl
@[simp] theorem Dev.setFin_intMap (i : Nat) (x : FieldIn) : (s.setFin i x).intMap = s.intMap := rfl
@[simp] theorem Dev.setFin_latch (i : Nat) (x : FieldIn) : (s.setFin i x).latch = s.latch := rfl
@[simp] theorem Dev.setFin_mbs (i : Nat) (x : FieldIn) : (s.setFin i x).mbs = s.mbs := rfl
@[simp] theorem Dev.setFin_doorbells (i : Nat) (x : FieldIn) : (s.setFin i x).doorbells = s.doorbells := rfl
@[simp] theorem Dev.setFin_encs (i : Nat) (x : FieldIn) : (s.setFin i x).encs = s.encs := rfl
@[simp] theorem Dev.setFin_axes (i : Nat) (x : FieldIn) : (s.setFin i x).axes = s.axes := rfl
@[simp] theorem Dev.setFin_trigs (i : Nat) (x : FieldIn) : (s.setFin i x).trigs = s.trigs := rfl
@[simp] theorem Dev.setFin_outs (i : Nat) (x : FieldIn) : (s.setFin i x).outs = s.outs := rfl
@[simp] theorem Dev.setFin_mer (i : Nat) (x : FieldIn) : (s.setFin i x).mer = s.mer := rfl
@[simp] theorem Dev.setFin_lanes (i : Nat) (x : FieldIn) : (s.setFin i x).lanes = s.lanes := rfl
@[simp] theorem Dev.setFin_heads (i : Nat) (x : FieldIn) : (s.setFin i x).heads = s.heads := rfl
@[simp] theorem Dev.setFin_binds (i : Nat) (x : FieldIn) : (s.setFin i x).binds = s.binds := rfl
@[simp] theorem Dev.setFin_streams (i : Nat) (x : FieldIn) : (s.setFin i x).streams = s.streams := rfl
@[simp] theorem Dev.setFin_taps (i : Nat) (x : FieldIn) : (s.setFin i x).taps = s.taps := rfl
@[simp] theorem Dev.setFin_nibs (i : Nat) (x : FieldIn) : (s.setFin i x).nibs = s.nibs := rfl
@[simp] theorem Dev.setFin_slots (i : Nat) (x : FieldIn) : (s.setFin i x).slots = s.slots := rfl
@[simp] theorem Dev.setFin_tiles (i : Nat) (x : FieldIn) : (s.setFin i x).tiles = s.tiles := rfl
@[simp] theorem Dev.setFin_tileNo (i : Nat) (x : FieldIn) : (s.setFin i x).tileNo = s.tileNo := rfl
@[simp] theorem Dev.setFin_seqs (i : Nat) (x : FieldIn) : (s.setFin i x).seqs = s.seqs := rfl
@[simp] theorem Dev.setFin_ledger (i : Nat) (x : FieldIn) : (s.setFin i x).ledger = s.ledger := rfl
@[simp] theorem Dev.setFin_ephAt (i : Nat) (x : FieldIn) : (s.setFin i x).ephAt = s.ephAt := rfl
@[simp] theorem Dev.setFin_folioMib (i : Nat) (x : FieldIn) : (s.setFin i x).folioMib = s.folioMib := rfl
@[simp] theorem Dev.setFin_webs (i : Nat) (x : FieldIn) : (s.setFin i x).webs = s.webs := rfl
@[simp] theorem Dev.setFin_span (i : Nat) (x : FieldIn) : (s.setFin i x).span = s.span := rfl
@[simp] theorem Dev.setFin_poison (i : Nat) (x : FieldIn) : (s.setFin i x).poison = s.poison := rfl
@[simp] theorem Dev.setFin_dirty (i : Nat) (x : FieldIn) : (s.setFin i x).dirty = s.dirty := rfl
@[simp] theorem Dev.setFin_scrubbed (i : Nat) (x : FieldIn) : (s.setFin i x).scrubbed = s.scrubbed := rfl
@[simp] theorem Dev.setFin_queues (i : Nat) (x : FieldIn) : (s.setFin i x).queues = s.queues := rfl
@[simp] theorem Dev.setFin_chans (i : Nat) (x : FieldIn) : (s.setFin i x).chans = s.chans := rfl
@[simp] theorem Dev.setFin_quill (i : Nat) (x : FieldIn) : (s.setFin i x).quill = s.quill := rfl
@[simp] theorem Dev.setFin_dux (i : Nat) (x : FieldIn) : (s.setFin i x).dux = s.dux := rfl
@[simp] theorem Dev.setFin_flight (i : Nat) (x : FieldIn) : (s.setFin i x).flight = s.flight := rfl
@[simp] theorem Dev.setFin_sinks (i : Nat) (x : FieldIn) : (s.setFin i x).sinks = s.sinks := rfl
@[simp] theorem Dev.setFin_gates (i : Nat) (x : FieldIn) : (s.setFin i x).gates = s.gates := rfl
@[simp] theorem Dev.setFin_droops (i : Nat) (x : FieldIn) : (s.setFin i x).droops = s.droops := rfl
@[simp] theorem Dev.setFin_rst (i : Nat) (x : FieldIn) : (s.setFin i x).rst = s.rst := rfl
@[simp] theorem Dev.setFin_sec (i : Nat) (x : FieldIn) : (s.setFin i x).sec = s.sec := rfl
@[simp] theorem Dev.setFin_alm (i : Nat) (x : FieldIn) : (s.setFin i x).alm = s.alm := rfl

@[simp] theorem Dev.setFout_acc (i : Nat) (x : FieldOut) : (s.setFout i x).acc = s.acc := rfl
@[simp] theorem Dev.setFout_frc (i : Nat) (x : FieldOut) : (s.setFout i x).frc = s.frc := rfl
@[simp] theorem Dev.setFout_writes (i : Nat) (x : FieldOut) : (s.setFout i x).writes = s.writes := rfl
@[simp] theorem Dev.setFout_modeAt (i : Nat) (x : FieldOut) : (s.setFout i x).modeAt = s.modeAt := rfl
@[simp] theorem Dev.setFout_now (i : Nat) (x : FieldOut) : (s.setFout i x).now = s.now := rfl
@[simp] theorem Dev.setFout_tbOff (i : Nat) (x : FieldOut) : (s.setFout i x).tbOff = s.tbOff := rfl
@[simp] theorem Dev.setFout_out (i : Nat) (x : FieldOut) : (s.setFout i x).out = s.out := rfl
@[simp] theorem Dev.setFout_int0 (i : Nat) (x : FieldOut) : (s.setFout i x).int0 = s.int0 := rfl
@[simp] theorem Dev.setFout_int1 (i : Nat) (x : FieldOut) : (s.setFout i x).int1 = s.int1 := rfl
@[simp] theorem Dev.setFout_intMap (i : Nat) (x : FieldOut) : (s.setFout i x).intMap = s.intMap := rfl
@[simp] theorem Dev.setFout_latch (i : Nat) (x : FieldOut) : (s.setFout i x).latch = s.latch := rfl
@[simp] theorem Dev.setFout_mbs (i : Nat) (x : FieldOut) : (s.setFout i x).mbs = s.mbs := rfl
@[simp] theorem Dev.setFout_doorbells (i : Nat) (x : FieldOut) : (s.setFout i x).doorbells = s.doorbells := rfl
@[simp] theorem Dev.setFout_encs (i : Nat) (x : FieldOut) : (s.setFout i x).encs = s.encs := rfl
@[simp] theorem Dev.setFout_axes (i : Nat) (x : FieldOut) : (s.setFout i x).axes = s.axes := rfl
@[simp] theorem Dev.setFout_trigs (i : Nat) (x : FieldOut) : (s.setFout i x).trigs = s.trigs := rfl
@[simp] theorem Dev.setFout_ins (i : Nat) (x : FieldOut) : (s.setFout i x).ins = s.ins := rfl
@[simp] theorem Dev.setFout_mer (i : Nat) (x : FieldOut) : (s.setFout i x).mer = s.mer := rfl
@[simp] theorem Dev.setFout_lanes (i : Nat) (x : FieldOut) : (s.setFout i x).lanes = s.lanes := rfl
@[simp] theorem Dev.setFout_heads (i : Nat) (x : FieldOut) : (s.setFout i x).heads = s.heads := rfl
@[simp] theorem Dev.setFout_binds (i : Nat) (x : FieldOut) : (s.setFout i x).binds = s.binds := rfl
@[simp] theorem Dev.setFout_streams (i : Nat) (x : FieldOut) : (s.setFout i x).streams = s.streams := rfl
@[simp] theorem Dev.setFout_taps (i : Nat) (x : FieldOut) : (s.setFout i x).taps = s.taps := rfl
@[simp] theorem Dev.setFout_nibs (i : Nat) (x : FieldOut) : (s.setFout i x).nibs = s.nibs := rfl
@[simp] theorem Dev.setFout_slots (i : Nat) (x : FieldOut) : (s.setFout i x).slots = s.slots := rfl
@[simp] theorem Dev.setFout_tiles (i : Nat) (x : FieldOut) : (s.setFout i x).tiles = s.tiles := rfl
@[simp] theorem Dev.setFout_tileNo (i : Nat) (x : FieldOut) : (s.setFout i x).tileNo = s.tileNo := rfl
@[simp] theorem Dev.setFout_seqs (i : Nat) (x : FieldOut) : (s.setFout i x).seqs = s.seqs := rfl
@[simp] theorem Dev.setFout_ledger (i : Nat) (x : FieldOut) : (s.setFout i x).ledger = s.ledger := rfl
@[simp] theorem Dev.setFout_ephAt (i : Nat) (x : FieldOut) : (s.setFout i x).ephAt = s.ephAt := rfl
@[simp] theorem Dev.setFout_folioMib (i : Nat) (x : FieldOut) : (s.setFout i x).folioMib = s.folioMib := rfl
@[simp] theorem Dev.setFout_webs (i : Nat) (x : FieldOut) : (s.setFout i x).webs = s.webs := rfl
@[simp] theorem Dev.setFout_span (i : Nat) (x : FieldOut) : (s.setFout i x).span = s.span := rfl
@[simp] theorem Dev.setFout_poison (i : Nat) (x : FieldOut) : (s.setFout i x).poison = s.poison := rfl
@[simp] theorem Dev.setFout_dirty (i : Nat) (x : FieldOut) : (s.setFout i x).dirty = s.dirty := rfl
@[simp] theorem Dev.setFout_scrubbed (i : Nat) (x : FieldOut) : (s.setFout i x).scrubbed = s.scrubbed := rfl
@[simp] theorem Dev.setFout_queues (i : Nat) (x : FieldOut) : (s.setFout i x).queues = s.queues := rfl
@[simp] theorem Dev.setFout_chans (i : Nat) (x : FieldOut) : (s.setFout i x).chans = s.chans := rfl
@[simp] theorem Dev.setFout_quill (i : Nat) (x : FieldOut) : (s.setFout i x).quill = s.quill := rfl
@[simp] theorem Dev.setFout_dux (i : Nat) (x : FieldOut) : (s.setFout i x).dux = s.dux := rfl
@[simp] theorem Dev.setFout_flight (i : Nat) (x : FieldOut) : (s.setFout i x).flight = s.flight := rfl
@[simp] theorem Dev.setFout_sinks (i : Nat) (x : FieldOut) : (s.setFout i x).sinks = s.sinks := rfl
@[simp] theorem Dev.setFout_gates (i : Nat) (x : FieldOut) : (s.setFout i x).gates = s.gates := rfl
@[simp] theorem Dev.setFout_droops (i : Nat) (x : FieldOut) : (s.setFout i x).droops = s.droops := rfl
@[simp] theorem Dev.setFout_rst (i : Nat) (x : FieldOut) : (s.setFout i x).rst = s.rst := rfl
@[simp] theorem Dev.setFout_sec (i : Nat) (x : FieldOut) : (s.setFout i x).sec = s.sec := rfl
@[simp] theorem Dev.setFout_alm (i : Nat) (x : FieldOut) : (s.setFout i x).alm = s.alm := rfl

@[simp] theorem Dev.setLane_acc (i : Nat) (x : Lane) : (s.setLane i x).acc = s.acc := rfl
@[simp] theorem Dev.setLane_frc (i : Nat) (x : Lane) : (s.setLane i x).frc = s.frc := rfl
@[simp] theorem Dev.setLane_writes (i : Nat) (x : Lane) : (s.setLane i x).writes = s.writes := rfl
@[simp] theorem Dev.setLane_modeAt (i : Nat) (x : Lane) : (s.setLane i x).modeAt = s.modeAt := rfl
@[simp] theorem Dev.setLane_now (i : Nat) (x : Lane) : (s.setLane i x).now = s.now := rfl
@[simp] theorem Dev.setLane_tbOff (i : Nat) (x : Lane) : (s.setLane i x).tbOff = s.tbOff := rfl
@[simp] theorem Dev.setLane_out (i : Nat) (x : Lane) : (s.setLane i x).out = s.out := rfl
@[simp] theorem Dev.setLane_int0 (i : Nat) (x : Lane) : (s.setLane i x).int0 = s.int0 := rfl
@[simp] theorem Dev.setLane_int1 (i : Nat) (x : Lane) : (s.setLane i x).int1 = s.int1 := rfl
@[simp] theorem Dev.setLane_intMap (i : Nat) (x : Lane) : (s.setLane i x).intMap = s.intMap := rfl
@[simp] theorem Dev.setLane_latch (i : Nat) (x : Lane) : (s.setLane i x).latch = s.latch := rfl
@[simp] theorem Dev.setLane_mbs (i : Nat) (x : Lane) : (s.setLane i x).mbs = s.mbs := rfl
@[simp] theorem Dev.setLane_doorbells (i : Nat) (x : Lane) : (s.setLane i x).doorbells = s.doorbells := rfl
@[simp] theorem Dev.setLane_encs (i : Nat) (x : Lane) : (s.setLane i x).encs = s.encs := rfl
@[simp] theorem Dev.setLane_axes (i : Nat) (x : Lane) : (s.setLane i x).axes = s.axes := rfl
@[simp] theorem Dev.setLane_trigs (i : Nat) (x : Lane) : (s.setLane i x).trigs = s.trigs := rfl
@[simp] theorem Dev.setLane_ins (i : Nat) (x : Lane) : (s.setLane i x).ins = s.ins := rfl
@[simp] theorem Dev.setLane_outs (i : Nat) (x : Lane) : (s.setLane i x).outs = s.outs := rfl
@[simp] theorem Dev.setLane_mer (i : Nat) (x : Lane) : (s.setLane i x).mer = s.mer := rfl
@[simp] theorem Dev.setLane_heads (i : Nat) (x : Lane) : (s.setLane i x).heads = s.heads := rfl
@[simp] theorem Dev.setLane_binds (i : Nat) (x : Lane) : (s.setLane i x).binds = s.binds := rfl
@[simp] theorem Dev.setLane_streams (i : Nat) (x : Lane) : (s.setLane i x).streams = s.streams := rfl
@[simp] theorem Dev.setLane_taps (i : Nat) (x : Lane) : (s.setLane i x).taps = s.taps := rfl
@[simp] theorem Dev.setLane_nibs (i : Nat) (x : Lane) : (s.setLane i x).nibs = s.nibs := rfl
@[simp] theorem Dev.setLane_slots (i : Nat) (x : Lane) : (s.setLane i x).slots = s.slots := rfl
@[simp] theorem Dev.setLane_tiles (i : Nat) (x : Lane) : (s.setLane i x).tiles = s.tiles := rfl
@[simp] theorem Dev.setLane_tileNo (i : Nat) (x : Lane) : (s.setLane i x).tileNo = s.tileNo := rfl
@[simp] theorem Dev.setLane_seqs (i : Nat) (x : Lane) : (s.setLane i x).seqs = s.seqs := rfl
@[simp] theorem Dev.setLane_ledger (i : Nat) (x : Lane) : (s.setLane i x).ledger = s.ledger := rfl
@[simp] theorem Dev.setLane_ephAt (i : Nat) (x : Lane) : (s.setLane i x).ephAt = s.ephAt := rfl
@[simp] theorem Dev.setLane_folioMib (i : Nat) (x : Lane) : (s.setLane i x).folioMib = s.folioMib := rfl
@[simp] theorem Dev.setLane_webs (i : Nat) (x : Lane) : (s.setLane i x).webs = s.webs := rfl
@[simp] theorem Dev.setLane_span (i : Nat) (x : Lane) : (s.setLane i x).span = s.span := rfl
@[simp] theorem Dev.setLane_poison (i : Nat) (x : Lane) : (s.setLane i x).poison = s.poison := rfl
@[simp] theorem Dev.setLane_dirty (i : Nat) (x : Lane) : (s.setLane i x).dirty = s.dirty := rfl
@[simp] theorem Dev.setLane_scrubbed (i : Nat) (x : Lane) : (s.setLane i x).scrubbed = s.scrubbed := rfl
@[simp] theorem Dev.setLane_queues (i : Nat) (x : Lane) : (s.setLane i x).queues = s.queues := rfl
@[simp] theorem Dev.setLane_chans (i : Nat) (x : Lane) : (s.setLane i x).chans = s.chans := rfl
@[simp] theorem Dev.setLane_quill (i : Nat) (x : Lane) : (s.setLane i x).quill = s.quill := rfl
@[simp] theorem Dev.setLane_dux (i : Nat) (x : Lane) : (s.setLane i x).dux = s.dux := rfl
@[simp] theorem Dev.setLane_flight (i : Nat) (x : Lane) : (s.setLane i x).flight = s.flight := rfl
@[simp] theorem Dev.setLane_sinks (i : Nat) (x : Lane) : (s.setLane i x).sinks = s.sinks := rfl
@[simp] theorem Dev.setLane_gates (i : Nat) (x : Lane) : (s.setLane i x).gates = s.gates := rfl
@[simp] theorem Dev.setLane_droops (i : Nat) (x : Lane) : (s.setLane i x).droops = s.droops := rfl
@[simp] theorem Dev.setLane_rst (i : Nat) (x : Lane) : (s.setLane i x).rst = s.rst := rfl
@[simp] theorem Dev.setLane_sec (i : Nat) (x : Lane) : (s.setLane i x).sec = s.sec := rfl
@[simp] theorem Dev.setLane_alm (i : Nat) (x : Lane) : (s.setLane i x).alm = s.alm := rfl

@[simp] theorem Dev.setHead_acc (i : Nat) (x : Head) : (s.setHead i x).acc = s.acc := rfl
@[simp] theorem Dev.setHead_frc (i : Nat) (x : Head) : (s.setHead i x).frc = s.frc := rfl
@[simp] theorem Dev.setHead_writes (i : Nat) (x : Head) : (s.setHead i x).writes = s.writes := rfl
@[simp] theorem Dev.setHead_modeAt (i : Nat) (x : Head) : (s.setHead i x).modeAt = s.modeAt := rfl
@[simp] theorem Dev.setHead_now (i : Nat) (x : Head) : (s.setHead i x).now = s.now := rfl
@[simp] theorem Dev.setHead_tbOff (i : Nat) (x : Head) : (s.setHead i x).tbOff = s.tbOff := rfl
@[simp] theorem Dev.setHead_out (i : Nat) (x : Head) : (s.setHead i x).out = s.out := rfl
@[simp] theorem Dev.setHead_int0 (i : Nat) (x : Head) : (s.setHead i x).int0 = s.int0 := rfl
@[simp] theorem Dev.setHead_int1 (i : Nat) (x : Head) : (s.setHead i x).int1 = s.int1 := rfl
@[simp] theorem Dev.setHead_intMap (i : Nat) (x : Head) : (s.setHead i x).intMap = s.intMap := rfl
@[simp] theorem Dev.setHead_latch (i : Nat) (x : Head) : (s.setHead i x).latch = s.latch := rfl
@[simp] theorem Dev.setHead_mbs (i : Nat) (x : Head) : (s.setHead i x).mbs = s.mbs := rfl
@[simp] theorem Dev.setHead_doorbells (i : Nat) (x : Head) : (s.setHead i x).doorbells = s.doorbells := rfl
@[simp] theorem Dev.setHead_encs (i : Nat) (x : Head) : (s.setHead i x).encs = s.encs := rfl
@[simp] theorem Dev.setHead_axes (i : Nat) (x : Head) : (s.setHead i x).axes = s.axes := rfl
@[simp] theorem Dev.setHead_trigs (i : Nat) (x : Head) : (s.setHead i x).trigs = s.trigs := rfl
@[simp] theorem Dev.setHead_ins (i : Nat) (x : Head) : (s.setHead i x).ins = s.ins := rfl
@[simp] theorem Dev.setHead_outs (i : Nat) (x : Head) : (s.setHead i x).outs = s.outs := rfl
@[simp] theorem Dev.setHead_mer (i : Nat) (x : Head) : (s.setHead i x).mer = s.mer := rfl
@[simp] theorem Dev.setHead_lanes (i : Nat) (x : Head) : (s.setHead i x).lanes = s.lanes := rfl
@[simp] theorem Dev.setHead_binds (i : Nat) (x : Head) : (s.setHead i x).binds = s.binds := rfl
@[simp] theorem Dev.setHead_streams (i : Nat) (x : Head) : (s.setHead i x).streams = s.streams := rfl
@[simp] theorem Dev.setHead_taps (i : Nat) (x : Head) : (s.setHead i x).taps = s.taps := rfl
@[simp] theorem Dev.setHead_nibs (i : Nat) (x : Head) : (s.setHead i x).nibs = s.nibs := rfl
@[simp] theorem Dev.setHead_slots (i : Nat) (x : Head) : (s.setHead i x).slots = s.slots := rfl
@[simp] theorem Dev.setHead_tiles (i : Nat) (x : Head) : (s.setHead i x).tiles = s.tiles := rfl
@[simp] theorem Dev.setHead_tileNo (i : Nat) (x : Head) : (s.setHead i x).tileNo = s.tileNo := rfl
@[simp] theorem Dev.setHead_seqs (i : Nat) (x : Head) : (s.setHead i x).seqs = s.seqs := rfl
@[simp] theorem Dev.setHead_ledger (i : Nat) (x : Head) : (s.setHead i x).ledger = s.ledger := rfl
@[simp] theorem Dev.setHead_ephAt (i : Nat) (x : Head) : (s.setHead i x).ephAt = s.ephAt := rfl
@[simp] theorem Dev.setHead_folioMib (i : Nat) (x : Head) : (s.setHead i x).folioMib = s.folioMib := rfl
@[simp] theorem Dev.setHead_webs (i : Nat) (x : Head) : (s.setHead i x).webs = s.webs := rfl
@[simp] theorem Dev.setHead_span (i : Nat) (x : Head) : (s.setHead i x).span = s.span := rfl
@[simp] theorem Dev.setHead_poison (i : Nat) (x : Head) : (s.setHead i x).poison = s.poison := rfl
@[simp] theorem Dev.setHead_dirty (i : Nat) (x : Head) : (s.setHead i x).dirty = s.dirty := rfl
@[simp] theorem Dev.setHead_scrubbed (i : Nat) (x : Head) : (s.setHead i x).scrubbed = s.scrubbed := rfl
@[simp] theorem Dev.setHead_queues (i : Nat) (x : Head) : (s.setHead i x).queues = s.queues := rfl
@[simp] theorem Dev.setHead_chans (i : Nat) (x : Head) : (s.setHead i x).chans = s.chans := rfl
@[simp] theorem Dev.setHead_quill (i : Nat) (x : Head) : (s.setHead i x).quill = s.quill := rfl
@[simp] theorem Dev.setHead_dux (i : Nat) (x : Head) : (s.setHead i x).dux = s.dux := rfl
@[simp] theorem Dev.setHead_flight (i : Nat) (x : Head) : (s.setHead i x).flight = s.flight := rfl
@[simp] theorem Dev.setHead_sinks (i : Nat) (x : Head) : (s.setHead i x).sinks = s.sinks := rfl
@[simp] theorem Dev.setHead_gates (i : Nat) (x : Head) : (s.setHead i x).gates = s.gates := rfl
@[simp] theorem Dev.setHead_droops (i : Nat) (x : Head) : (s.setHead i x).droops = s.droops := rfl
@[simp] theorem Dev.setHead_rst (i : Nat) (x : Head) : (s.setHead i x).rst = s.rst := rfl
@[simp] theorem Dev.setHead_sec (i : Nat) (x : Head) : (s.setHead i x).sec = s.sec := rfl
@[simp] theorem Dev.setHead_alm (i : Nat) (x : Head) : (s.setHead i x).alm = s.alm := rfl

@[simp] theorem Dev.setStream_acc (i : Nat) (x : Stream) : (s.setStream i x).acc = s.acc := rfl
@[simp] theorem Dev.setStream_frc (i : Nat) (x : Stream) : (s.setStream i x).frc = s.frc := rfl
@[simp] theorem Dev.setStream_writes (i : Nat) (x : Stream) : (s.setStream i x).writes = s.writes := rfl
@[simp] theorem Dev.setStream_modeAt (i : Nat) (x : Stream) : (s.setStream i x).modeAt = s.modeAt := rfl
@[simp] theorem Dev.setStream_now (i : Nat) (x : Stream) : (s.setStream i x).now = s.now := rfl
@[simp] theorem Dev.setStream_tbOff (i : Nat) (x : Stream) : (s.setStream i x).tbOff = s.tbOff := rfl
@[simp] theorem Dev.setStream_out (i : Nat) (x : Stream) : (s.setStream i x).out = s.out := rfl
@[simp] theorem Dev.setStream_int0 (i : Nat) (x : Stream) : (s.setStream i x).int0 = s.int0 := rfl
@[simp] theorem Dev.setStream_int1 (i : Nat) (x : Stream) : (s.setStream i x).int1 = s.int1 := rfl
@[simp] theorem Dev.setStream_intMap (i : Nat) (x : Stream) : (s.setStream i x).intMap = s.intMap := rfl
@[simp] theorem Dev.setStream_latch (i : Nat) (x : Stream) : (s.setStream i x).latch = s.latch := rfl
@[simp] theorem Dev.setStream_mbs (i : Nat) (x : Stream) : (s.setStream i x).mbs = s.mbs := rfl
@[simp] theorem Dev.setStream_doorbells (i : Nat) (x : Stream) : (s.setStream i x).doorbells = s.doorbells := rfl
@[simp] theorem Dev.setStream_encs (i : Nat) (x : Stream) : (s.setStream i x).encs = s.encs := rfl
@[simp] theorem Dev.setStream_axes (i : Nat) (x : Stream) : (s.setStream i x).axes = s.axes := rfl
@[simp] theorem Dev.setStream_trigs (i : Nat) (x : Stream) : (s.setStream i x).trigs = s.trigs := rfl
@[simp] theorem Dev.setStream_ins (i : Nat) (x : Stream) : (s.setStream i x).ins = s.ins := rfl
@[simp] theorem Dev.setStream_outs (i : Nat) (x : Stream) : (s.setStream i x).outs = s.outs := rfl
@[simp] theorem Dev.setStream_mer (i : Nat) (x : Stream) : (s.setStream i x).mer = s.mer := rfl
@[simp] theorem Dev.setStream_lanes (i : Nat) (x : Stream) : (s.setStream i x).lanes = s.lanes := rfl
@[simp] theorem Dev.setStream_heads (i : Nat) (x : Stream) : (s.setStream i x).heads = s.heads := rfl
@[simp] theorem Dev.setStream_binds (i : Nat) (x : Stream) : (s.setStream i x).binds = s.binds := rfl
@[simp] theorem Dev.setStream_taps (i : Nat) (x : Stream) : (s.setStream i x).taps = s.taps := rfl
@[simp] theorem Dev.setStream_nibs (i : Nat) (x : Stream) : (s.setStream i x).nibs = s.nibs := rfl
@[simp] theorem Dev.setStream_slots (i : Nat) (x : Stream) : (s.setStream i x).slots = s.slots := rfl
@[simp] theorem Dev.setStream_tiles (i : Nat) (x : Stream) : (s.setStream i x).tiles = s.tiles := rfl
@[simp] theorem Dev.setStream_tileNo (i : Nat) (x : Stream) : (s.setStream i x).tileNo = s.tileNo := rfl
@[simp] theorem Dev.setStream_seqs (i : Nat) (x : Stream) : (s.setStream i x).seqs = s.seqs := rfl
@[simp] theorem Dev.setStream_ledger (i : Nat) (x : Stream) : (s.setStream i x).ledger = s.ledger := rfl
@[simp] theorem Dev.setStream_ephAt (i : Nat) (x : Stream) : (s.setStream i x).ephAt = s.ephAt := rfl
@[simp] theorem Dev.setStream_folioMib (i : Nat) (x : Stream) : (s.setStream i x).folioMib = s.folioMib := rfl
@[simp] theorem Dev.setStream_webs (i : Nat) (x : Stream) : (s.setStream i x).webs = s.webs := rfl
@[simp] theorem Dev.setStream_span (i : Nat) (x : Stream) : (s.setStream i x).span = s.span := rfl
@[simp] theorem Dev.setStream_poison (i : Nat) (x : Stream) : (s.setStream i x).poison = s.poison := rfl
@[simp] theorem Dev.setStream_dirty (i : Nat) (x : Stream) : (s.setStream i x).dirty = s.dirty := rfl
@[simp] theorem Dev.setStream_scrubbed (i : Nat) (x : Stream) : (s.setStream i x).scrubbed = s.scrubbed := rfl
@[simp] theorem Dev.setStream_queues (i : Nat) (x : Stream) : (s.setStream i x).queues = s.queues := rfl
@[simp] theorem Dev.setStream_chans (i : Nat) (x : Stream) : (s.setStream i x).chans = s.chans := rfl
@[simp] theorem Dev.setStream_quill (i : Nat) (x : Stream) : (s.setStream i x).quill = s.quill := rfl
@[simp] theorem Dev.setStream_dux (i : Nat) (x : Stream) : (s.setStream i x).dux = s.dux := rfl
@[simp] theorem Dev.setStream_flight (i : Nat) (x : Stream) : (s.setStream i x).flight = s.flight := rfl
@[simp] theorem Dev.setStream_sinks (i : Nat) (x : Stream) : (s.setStream i x).sinks = s.sinks := rfl
@[simp] theorem Dev.setStream_gates (i : Nat) (x : Stream) : (s.setStream i x).gates = s.gates := rfl
@[simp] theorem Dev.setStream_droops (i : Nat) (x : Stream) : (s.setStream i x).droops = s.droops := rfl
@[simp] theorem Dev.setStream_rst (i : Nat) (x : Stream) : (s.setStream i x).rst = s.rst := rfl
@[simp] theorem Dev.setStream_sec (i : Nat) (x : Stream) : (s.setStream i x).sec = s.sec := rfl
@[simp] theorem Dev.setStream_alm (i : Nat) (x : Stream) : (s.setStream i x).alm = s.alm := rfl

@[simp] theorem Dev.setTap_acc (i : Nat) (x : Tap) : (s.setTap i x).acc = s.acc := rfl
@[simp] theorem Dev.setTap_frc (i : Nat) (x : Tap) : (s.setTap i x).frc = s.frc := rfl
@[simp] theorem Dev.setTap_writes (i : Nat) (x : Tap) : (s.setTap i x).writes = s.writes := rfl
@[simp] theorem Dev.setTap_modeAt (i : Nat) (x : Tap) : (s.setTap i x).modeAt = s.modeAt := rfl
@[simp] theorem Dev.setTap_now (i : Nat) (x : Tap) : (s.setTap i x).now = s.now := rfl
@[simp] theorem Dev.setTap_tbOff (i : Nat) (x : Tap) : (s.setTap i x).tbOff = s.tbOff := rfl
@[simp] theorem Dev.setTap_out (i : Nat) (x : Tap) : (s.setTap i x).out = s.out := rfl
@[simp] theorem Dev.setTap_int0 (i : Nat) (x : Tap) : (s.setTap i x).int0 = s.int0 := rfl
@[simp] theorem Dev.setTap_int1 (i : Nat) (x : Tap) : (s.setTap i x).int1 = s.int1 := rfl
@[simp] theorem Dev.setTap_intMap (i : Nat) (x : Tap) : (s.setTap i x).intMap = s.intMap := rfl
@[simp] theorem Dev.setTap_latch (i : Nat) (x : Tap) : (s.setTap i x).latch = s.latch := rfl
@[simp] theorem Dev.setTap_mbs (i : Nat) (x : Tap) : (s.setTap i x).mbs = s.mbs := rfl
@[simp] theorem Dev.setTap_doorbells (i : Nat) (x : Tap) : (s.setTap i x).doorbells = s.doorbells := rfl
@[simp] theorem Dev.setTap_encs (i : Nat) (x : Tap) : (s.setTap i x).encs = s.encs := rfl
@[simp] theorem Dev.setTap_axes (i : Nat) (x : Tap) : (s.setTap i x).axes = s.axes := rfl
@[simp] theorem Dev.setTap_trigs (i : Nat) (x : Tap) : (s.setTap i x).trigs = s.trigs := rfl
@[simp] theorem Dev.setTap_ins (i : Nat) (x : Tap) : (s.setTap i x).ins = s.ins := rfl
@[simp] theorem Dev.setTap_outs (i : Nat) (x : Tap) : (s.setTap i x).outs = s.outs := rfl
@[simp] theorem Dev.setTap_mer (i : Nat) (x : Tap) : (s.setTap i x).mer = s.mer := rfl
@[simp] theorem Dev.setTap_lanes (i : Nat) (x : Tap) : (s.setTap i x).lanes = s.lanes := rfl
@[simp] theorem Dev.setTap_heads (i : Nat) (x : Tap) : (s.setTap i x).heads = s.heads := rfl
@[simp] theorem Dev.setTap_binds (i : Nat) (x : Tap) : (s.setTap i x).binds = s.binds := rfl
@[simp] theorem Dev.setTap_streams (i : Nat) (x : Tap) : (s.setTap i x).streams = s.streams := rfl
@[simp] theorem Dev.setTap_nibs (i : Nat) (x : Tap) : (s.setTap i x).nibs = s.nibs := rfl
@[simp] theorem Dev.setTap_slots (i : Nat) (x : Tap) : (s.setTap i x).slots = s.slots := rfl
@[simp] theorem Dev.setTap_tiles (i : Nat) (x : Tap) : (s.setTap i x).tiles = s.tiles := rfl
@[simp] theorem Dev.setTap_tileNo (i : Nat) (x : Tap) : (s.setTap i x).tileNo = s.tileNo := rfl
@[simp] theorem Dev.setTap_seqs (i : Nat) (x : Tap) : (s.setTap i x).seqs = s.seqs := rfl
@[simp] theorem Dev.setTap_ledger (i : Nat) (x : Tap) : (s.setTap i x).ledger = s.ledger := rfl
@[simp] theorem Dev.setTap_ephAt (i : Nat) (x : Tap) : (s.setTap i x).ephAt = s.ephAt := rfl
@[simp] theorem Dev.setTap_folioMib (i : Nat) (x : Tap) : (s.setTap i x).folioMib = s.folioMib := rfl
@[simp] theorem Dev.setTap_webs (i : Nat) (x : Tap) : (s.setTap i x).webs = s.webs := rfl
@[simp] theorem Dev.setTap_span (i : Nat) (x : Tap) : (s.setTap i x).span = s.span := rfl
@[simp] theorem Dev.setTap_poison (i : Nat) (x : Tap) : (s.setTap i x).poison = s.poison := rfl
@[simp] theorem Dev.setTap_dirty (i : Nat) (x : Tap) : (s.setTap i x).dirty = s.dirty := rfl
@[simp] theorem Dev.setTap_scrubbed (i : Nat) (x : Tap) : (s.setTap i x).scrubbed = s.scrubbed := rfl
@[simp] theorem Dev.setTap_queues (i : Nat) (x : Tap) : (s.setTap i x).queues = s.queues := rfl
@[simp] theorem Dev.setTap_chans (i : Nat) (x : Tap) : (s.setTap i x).chans = s.chans := rfl
@[simp] theorem Dev.setTap_quill (i : Nat) (x : Tap) : (s.setTap i x).quill = s.quill := rfl
@[simp] theorem Dev.setTap_dux (i : Nat) (x : Tap) : (s.setTap i x).dux = s.dux := rfl
@[simp] theorem Dev.setTap_flight (i : Nat) (x : Tap) : (s.setTap i x).flight = s.flight := rfl
@[simp] theorem Dev.setTap_sinks (i : Nat) (x : Tap) : (s.setTap i x).sinks = s.sinks := rfl
@[simp] theorem Dev.setTap_gates (i : Nat) (x : Tap) : (s.setTap i x).gates = s.gates := rfl
@[simp] theorem Dev.setTap_droops (i : Nat) (x : Tap) : (s.setTap i x).droops = s.droops := rfl
@[simp] theorem Dev.setTap_rst (i : Nat) (x : Tap) : (s.setTap i x).rst = s.rst := rfl
@[simp] theorem Dev.setTap_sec (i : Nat) (x : Tap) : (s.setTap i x).sec = s.sec := rfl
@[simp] theorem Dev.setTap_alm (i : Nat) (x : Tap) : (s.setTap i x).alm = s.alm := rfl

@[simp] theorem Dev.setNib_acc (i : Nat) (x : Nib) : (s.setNib i x).acc = s.acc := rfl
@[simp] theorem Dev.setNib_frc (i : Nat) (x : Nib) : (s.setNib i x).frc = s.frc := rfl
@[simp] theorem Dev.setNib_writes (i : Nat) (x : Nib) : (s.setNib i x).writes = s.writes := rfl
@[simp] theorem Dev.setNib_modeAt (i : Nat) (x : Nib) : (s.setNib i x).modeAt = s.modeAt := rfl
@[simp] theorem Dev.setNib_now (i : Nat) (x : Nib) : (s.setNib i x).now = s.now := rfl
@[simp] theorem Dev.setNib_tbOff (i : Nat) (x : Nib) : (s.setNib i x).tbOff = s.tbOff := rfl
@[simp] theorem Dev.setNib_out (i : Nat) (x : Nib) : (s.setNib i x).out = s.out := rfl
@[simp] theorem Dev.setNib_int0 (i : Nat) (x : Nib) : (s.setNib i x).int0 = s.int0 := rfl
@[simp] theorem Dev.setNib_int1 (i : Nat) (x : Nib) : (s.setNib i x).int1 = s.int1 := rfl
@[simp] theorem Dev.setNib_intMap (i : Nat) (x : Nib) : (s.setNib i x).intMap = s.intMap := rfl
@[simp] theorem Dev.setNib_latch (i : Nat) (x : Nib) : (s.setNib i x).latch = s.latch := rfl
@[simp] theorem Dev.setNib_mbs (i : Nat) (x : Nib) : (s.setNib i x).mbs = s.mbs := rfl
@[simp] theorem Dev.setNib_doorbells (i : Nat) (x : Nib) : (s.setNib i x).doorbells = s.doorbells := rfl
@[simp] theorem Dev.setNib_encs (i : Nat) (x : Nib) : (s.setNib i x).encs = s.encs := rfl
@[simp] theorem Dev.setNib_axes (i : Nat) (x : Nib) : (s.setNib i x).axes = s.axes := rfl
@[simp] theorem Dev.setNib_trigs (i : Nat) (x : Nib) : (s.setNib i x).trigs = s.trigs := rfl
@[simp] theorem Dev.setNib_ins (i : Nat) (x : Nib) : (s.setNib i x).ins = s.ins := rfl
@[simp] theorem Dev.setNib_outs (i : Nat) (x : Nib) : (s.setNib i x).outs = s.outs := rfl
@[simp] theorem Dev.setNib_mer (i : Nat) (x : Nib) : (s.setNib i x).mer = s.mer := rfl
@[simp] theorem Dev.setNib_lanes (i : Nat) (x : Nib) : (s.setNib i x).lanes = s.lanes := rfl
@[simp] theorem Dev.setNib_heads (i : Nat) (x : Nib) : (s.setNib i x).heads = s.heads := rfl
@[simp] theorem Dev.setNib_binds (i : Nat) (x : Nib) : (s.setNib i x).binds = s.binds := rfl
@[simp] theorem Dev.setNib_streams (i : Nat) (x : Nib) : (s.setNib i x).streams = s.streams := rfl
@[simp] theorem Dev.setNib_taps (i : Nat) (x : Nib) : (s.setNib i x).taps = s.taps := rfl
@[simp] theorem Dev.setNib_slots (i : Nat) (x : Nib) : (s.setNib i x).slots = s.slots := rfl
@[simp] theorem Dev.setNib_tiles (i : Nat) (x : Nib) : (s.setNib i x).tiles = s.tiles := rfl
@[simp] theorem Dev.setNib_tileNo (i : Nat) (x : Nib) : (s.setNib i x).tileNo = s.tileNo := rfl
@[simp] theorem Dev.setNib_seqs (i : Nat) (x : Nib) : (s.setNib i x).seqs = s.seqs := rfl
@[simp] theorem Dev.setNib_ledger (i : Nat) (x : Nib) : (s.setNib i x).ledger = s.ledger := rfl
@[simp] theorem Dev.setNib_ephAt (i : Nat) (x : Nib) : (s.setNib i x).ephAt = s.ephAt := rfl
@[simp] theorem Dev.setNib_folioMib (i : Nat) (x : Nib) : (s.setNib i x).folioMib = s.folioMib := rfl
@[simp] theorem Dev.setNib_webs (i : Nat) (x : Nib) : (s.setNib i x).webs = s.webs := rfl
@[simp] theorem Dev.setNib_span (i : Nat) (x : Nib) : (s.setNib i x).span = s.span := rfl
@[simp] theorem Dev.setNib_poison (i : Nat) (x : Nib) : (s.setNib i x).poison = s.poison := rfl
@[simp] theorem Dev.setNib_dirty (i : Nat) (x : Nib) : (s.setNib i x).dirty = s.dirty := rfl
@[simp] theorem Dev.setNib_scrubbed (i : Nat) (x : Nib) : (s.setNib i x).scrubbed = s.scrubbed := rfl
@[simp] theorem Dev.setNib_queues (i : Nat) (x : Nib) : (s.setNib i x).queues = s.queues := rfl
@[simp] theorem Dev.setNib_chans (i : Nat) (x : Nib) : (s.setNib i x).chans = s.chans := rfl
@[simp] theorem Dev.setNib_quill (i : Nat) (x : Nib) : (s.setNib i x).quill = s.quill := rfl
@[simp] theorem Dev.setNib_dux (i : Nat) (x : Nib) : (s.setNib i x).dux = s.dux := rfl
@[simp] theorem Dev.setNib_flight (i : Nat) (x : Nib) : (s.setNib i x).flight = s.flight := rfl
@[simp] theorem Dev.setNib_sinks (i : Nat) (x : Nib) : (s.setNib i x).sinks = s.sinks := rfl
@[simp] theorem Dev.setNib_gates (i : Nat) (x : Nib) : (s.setNib i x).gates = s.gates := rfl
@[simp] theorem Dev.setNib_droops (i : Nat) (x : Nib) : (s.setNib i x).droops = s.droops := rfl
@[simp] theorem Dev.setNib_rst (i : Nat) (x : Nib) : (s.setNib i x).rst = s.rst := rfl
@[simp] theorem Dev.setNib_sec (i : Nat) (x : Nib) : (s.setNib i x).sec = s.sec := rfl
@[simp] theorem Dev.setNib_alm (i : Nat) (x : Nib) : (s.setNib i x).alm = s.alm := rfl

@[simp] theorem Dev.setSlot_acc (i : Nat) (x : Slot) : (s.setSlot i x).acc = s.acc := rfl
@[simp] theorem Dev.setSlot_frc (i : Nat) (x : Slot) : (s.setSlot i x).frc = s.frc := rfl
@[simp] theorem Dev.setSlot_writes (i : Nat) (x : Slot) : (s.setSlot i x).writes = s.writes := rfl
@[simp] theorem Dev.setSlot_modeAt (i : Nat) (x : Slot) : (s.setSlot i x).modeAt = s.modeAt := rfl
@[simp] theorem Dev.setSlot_now (i : Nat) (x : Slot) : (s.setSlot i x).now = s.now := rfl
@[simp] theorem Dev.setSlot_tbOff (i : Nat) (x : Slot) : (s.setSlot i x).tbOff = s.tbOff := rfl
@[simp] theorem Dev.setSlot_out (i : Nat) (x : Slot) : (s.setSlot i x).out = s.out := rfl
@[simp] theorem Dev.setSlot_int0 (i : Nat) (x : Slot) : (s.setSlot i x).int0 = s.int0 := rfl
@[simp] theorem Dev.setSlot_int1 (i : Nat) (x : Slot) : (s.setSlot i x).int1 = s.int1 := rfl
@[simp] theorem Dev.setSlot_intMap (i : Nat) (x : Slot) : (s.setSlot i x).intMap = s.intMap := rfl
@[simp] theorem Dev.setSlot_latch (i : Nat) (x : Slot) : (s.setSlot i x).latch = s.latch := rfl
@[simp] theorem Dev.setSlot_mbs (i : Nat) (x : Slot) : (s.setSlot i x).mbs = s.mbs := rfl
@[simp] theorem Dev.setSlot_doorbells (i : Nat) (x : Slot) : (s.setSlot i x).doorbells = s.doorbells := rfl
@[simp] theorem Dev.setSlot_encs (i : Nat) (x : Slot) : (s.setSlot i x).encs = s.encs := rfl
@[simp] theorem Dev.setSlot_axes (i : Nat) (x : Slot) : (s.setSlot i x).axes = s.axes := rfl
@[simp] theorem Dev.setSlot_trigs (i : Nat) (x : Slot) : (s.setSlot i x).trigs = s.trigs := rfl
@[simp] theorem Dev.setSlot_ins (i : Nat) (x : Slot) : (s.setSlot i x).ins = s.ins := rfl
@[simp] theorem Dev.setSlot_outs (i : Nat) (x : Slot) : (s.setSlot i x).outs = s.outs := rfl
@[simp] theorem Dev.setSlot_mer (i : Nat) (x : Slot) : (s.setSlot i x).mer = s.mer := rfl
@[simp] theorem Dev.setSlot_lanes (i : Nat) (x : Slot) : (s.setSlot i x).lanes = s.lanes := rfl
@[simp] theorem Dev.setSlot_heads (i : Nat) (x : Slot) : (s.setSlot i x).heads = s.heads := rfl
@[simp] theorem Dev.setSlot_binds (i : Nat) (x : Slot) : (s.setSlot i x).binds = s.binds := rfl
@[simp] theorem Dev.setSlot_streams (i : Nat) (x : Slot) : (s.setSlot i x).streams = s.streams := rfl
@[simp] theorem Dev.setSlot_taps (i : Nat) (x : Slot) : (s.setSlot i x).taps = s.taps := rfl
@[simp] theorem Dev.setSlot_nibs (i : Nat) (x : Slot) : (s.setSlot i x).nibs = s.nibs := rfl
@[simp] theorem Dev.setSlot_tiles (i : Nat) (x : Slot) : (s.setSlot i x).tiles = s.tiles := rfl
@[simp] theorem Dev.setSlot_tileNo (i : Nat) (x : Slot) : (s.setSlot i x).tileNo = s.tileNo := rfl
@[simp] theorem Dev.setSlot_seqs (i : Nat) (x : Slot) : (s.setSlot i x).seqs = s.seqs := rfl
@[simp] theorem Dev.setSlot_ledger (i : Nat) (x : Slot) : (s.setSlot i x).ledger = s.ledger := rfl
@[simp] theorem Dev.setSlot_ephAt (i : Nat) (x : Slot) : (s.setSlot i x).ephAt = s.ephAt := rfl
@[simp] theorem Dev.setSlot_folioMib (i : Nat) (x : Slot) : (s.setSlot i x).folioMib = s.folioMib := rfl
@[simp] theorem Dev.setSlot_webs (i : Nat) (x : Slot) : (s.setSlot i x).webs = s.webs := rfl
@[simp] theorem Dev.setSlot_span (i : Nat) (x : Slot) : (s.setSlot i x).span = s.span := rfl
@[simp] theorem Dev.setSlot_poison (i : Nat) (x : Slot) : (s.setSlot i x).poison = s.poison := rfl
@[simp] theorem Dev.setSlot_dirty (i : Nat) (x : Slot) : (s.setSlot i x).dirty = s.dirty := rfl
@[simp] theorem Dev.setSlot_scrubbed (i : Nat) (x : Slot) : (s.setSlot i x).scrubbed = s.scrubbed := rfl
@[simp] theorem Dev.setSlot_queues (i : Nat) (x : Slot) : (s.setSlot i x).queues = s.queues := rfl
@[simp] theorem Dev.setSlot_chans (i : Nat) (x : Slot) : (s.setSlot i x).chans = s.chans := rfl
@[simp] theorem Dev.setSlot_quill (i : Nat) (x : Slot) : (s.setSlot i x).quill = s.quill := rfl
@[simp] theorem Dev.setSlot_dux (i : Nat) (x : Slot) : (s.setSlot i x).dux = s.dux := rfl
@[simp] theorem Dev.setSlot_flight (i : Nat) (x : Slot) : (s.setSlot i x).flight = s.flight := rfl
@[simp] theorem Dev.setSlot_sinks (i : Nat) (x : Slot) : (s.setSlot i x).sinks = s.sinks := rfl
@[simp] theorem Dev.setSlot_gates (i : Nat) (x : Slot) : (s.setSlot i x).gates = s.gates := rfl
@[simp] theorem Dev.setSlot_droops (i : Nat) (x : Slot) : (s.setSlot i x).droops = s.droops := rfl
@[simp] theorem Dev.setSlot_rst (i : Nat) (x : Slot) : (s.setSlot i x).rst = s.rst := rfl
@[simp] theorem Dev.setSlot_sec (i : Nat) (x : Slot) : (s.setSlot i x).sec = s.sec := rfl
@[simp] theorem Dev.setSlot_alm (i : Nat) (x : Slot) : (s.setSlot i x).alm = s.alm := rfl

@[simp] theorem Dev.setSeqn_acc (i : Nat) (x : Seqn) : (s.setSeqn i x).acc = s.acc := rfl
@[simp] theorem Dev.setSeqn_frc (i : Nat) (x : Seqn) : (s.setSeqn i x).frc = s.frc := rfl
@[simp] theorem Dev.setSeqn_writes (i : Nat) (x : Seqn) : (s.setSeqn i x).writes = s.writes := rfl
@[simp] theorem Dev.setSeqn_modeAt (i : Nat) (x : Seqn) : (s.setSeqn i x).modeAt = s.modeAt := rfl
@[simp] theorem Dev.setSeqn_now (i : Nat) (x : Seqn) : (s.setSeqn i x).now = s.now := rfl
@[simp] theorem Dev.setSeqn_tbOff (i : Nat) (x : Seqn) : (s.setSeqn i x).tbOff = s.tbOff := rfl
@[simp] theorem Dev.setSeqn_out (i : Nat) (x : Seqn) : (s.setSeqn i x).out = s.out := rfl
@[simp] theorem Dev.setSeqn_int0 (i : Nat) (x : Seqn) : (s.setSeqn i x).int0 = s.int0 := rfl
@[simp] theorem Dev.setSeqn_int1 (i : Nat) (x : Seqn) : (s.setSeqn i x).int1 = s.int1 := rfl
@[simp] theorem Dev.setSeqn_intMap (i : Nat) (x : Seqn) : (s.setSeqn i x).intMap = s.intMap := rfl
@[simp] theorem Dev.setSeqn_latch (i : Nat) (x : Seqn) : (s.setSeqn i x).latch = s.latch := rfl
@[simp] theorem Dev.setSeqn_mbs (i : Nat) (x : Seqn) : (s.setSeqn i x).mbs = s.mbs := rfl
@[simp] theorem Dev.setSeqn_doorbells (i : Nat) (x : Seqn) : (s.setSeqn i x).doorbells = s.doorbells := rfl
@[simp] theorem Dev.setSeqn_encs (i : Nat) (x : Seqn) : (s.setSeqn i x).encs = s.encs := rfl
@[simp] theorem Dev.setSeqn_axes (i : Nat) (x : Seqn) : (s.setSeqn i x).axes = s.axes := rfl
@[simp] theorem Dev.setSeqn_trigs (i : Nat) (x : Seqn) : (s.setSeqn i x).trigs = s.trigs := rfl
@[simp] theorem Dev.setSeqn_ins (i : Nat) (x : Seqn) : (s.setSeqn i x).ins = s.ins := rfl
@[simp] theorem Dev.setSeqn_outs (i : Nat) (x : Seqn) : (s.setSeqn i x).outs = s.outs := rfl
@[simp] theorem Dev.setSeqn_mer (i : Nat) (x : Seqn) : (s.setSeqn i x).mer = s.mer := rfl
@[simp] theorem Dev.setSeqn_lanes (i : Nat) (x : Seqn) : (s.setSeqn i x).lanes = s.lanes := rfl
@[simp] theorem Dev.setSeqn_heads (i : Nat) (x : Seqn) : (s.setSeqn i x).heads = s.heads := rfl
@[simp] theorem Dev.setSeqn_binds (i : Nat) (x : Seqn) : (s.setSeqn i x).binds = s.binds := rfl
@[simp] theorem Dev.setSeqn_streams (i : Nat) (x : Seqn) : (s.setSeqn i x).streams = s.streams := rfl
@[simp] theorem Dev.setSeqn_taps (i : Nat) (x : Seqn) : (s.setSeqn i x).taps = s.taps := rfl
@[simp] theorem Dev.setSeqn_nibs (i : Nat) (x : Seqn) : (s.setSeqn i x).nibs = s.nibs := rfl
@[simp] theorem Dev.setSeqn_slots (i : Nat) (x : Seqn) : (s.setSeqn i x).slots = s.slots := rfl
@[simp] theorem Dev.setSeqn_tiles (i : Nat) (x : Seqn) : (s.setSeqn i x).tiles = s.tiles := rfl
@[simp] theorem Dev.setSeqn_tileNo (i : Nat) (x : Seqn) : (s.setSeqn i x).tileNo = s.tileNo := rfl
@[simp] theorem Dev.setSeqn_ledger (i : Nat) (x : Seqn) : (s.setSeqn i x).ledger = s.ledger := rfl
@[simp] theorem Dev.setSeqn_ephAt (i : Nat) (x : Seqn) : (s.setSeqn i x).ephAt = s.ephAt := rfl
@[simp] theorem Dev.setSeqn_folioMib (i : Nat) (x : Seqn) : (s.setSeqn i x).folioMib = s.folioMib := rfl
@[simp] theorem Dev.setSeqn_webs (i : Nat) (x : Seqn) : (s.setSeqn i x).webs = s.webs := rfl
@[simp] theorem Dev.setSeqn_span (i : Nat) (x : Seqn) : (s.setSeqn i x).span = s.span := rfl
@[simp] theorem Dev.setSeqn_poison (i : Nat) (x : Seqn) : (s.setSeqn i x).poison = s.poison := rfl
@[simp] theorem Dev.setSeqn_dirty (i : Nat) (x : Seqn) : (s.setSeqn i x).dirty = s.dirty := rfl
@[simp] theorem Dev.setSeqn_scrubbed (i : Nat) (x : Seqn) : (s.setSeqn i x).scrubbed = s.scrubbed := rfl
@[simp] theorem Dev.setSeqn_queues (i : Nat) (x : Seqn) : (s.setSeqn i x).queues = s.queues := rfl
@[simp] theorem Dev.setSeqn_chans (i : Nat) (x : Seqn) : (s.setSeqn i x).chans = s.chans := rfl
@[simp] theorem Dev.setSeqn_quill (i : Nat) (x : Seqn) : (s.setSeqn i x).quill = s.quill := rfl
@[simp] theorem Dev.setSeqn_dux (i : Nat) (x : Seqn) : (s.setSeqn i x).dux = s.dux := rfl
@[simp] theorem Dev.setSeqn_flight (i : Nat) (x : Seqn) : (s.setSeqn i x).flight = s.flight := rfl
@[simp] theorem Dev.setSeqn_sinks (i : Nat) (x : Seqn) : (s.setSeqn i x).sinks = s.sinks := rfl
@[simp] theorem Dev.setSeqn_gates (i : Nat) (x : Seqn) : (s.setSeqn i x).gates = s.gates := rfl
@[simp] theorem Dev.setSeqn_droops (i : Nat) (x : Seqn) : (s.setSeqn i x).droops = s.droops := rfl
@[simp] theorem Dev.setSeqn_rst (i : Nat) (x : Seqn) : (s.setSeqn i x).rst = s.rst := rfl
@[simp] theorem Dev.setSeqn_sec (i : Nat) (x : Seqn) : (s.setSeqn i x).sec = s.sec := rfl
@[simp] theorem Dev.setSeqn_alm (i : Nat) (x : Seqn) : (s.setSeqn i x).alm = s.alm := rfl

@[simp] theorem Dev.setWeb_acc (i : Nat) (x : Web) : (s.setWeb i x).acc = s.acc := rfl
@[simp] theorem Dev.setWeb_frc (i : Nat) (x : Web) : (s.setWeb i x).frc = s.frc := rfl
@[simp] theorem Dev.setWeb_writes (i : Nat) (x : Web) : (s.setWeb i x).writes = s.writes := rfl
@[simp] theorem Dev.setWeb_modeAt (i : Nat) (x : Web) : (s.setWeb i x).modeAt = s.modeAt := rfl
@[simp] theorem Dev.setWeb_now (i : Nat) (x : Web) : (s.setWeb i x).now = s.now := rfl
@[simp] theorem Dev.setWeb_tbOff (i : Nat) (x : Web) : (s.setWeb i x).tbOff = s.tbOff := rfl
@[simp] theorem Dev.setWeb_out (i : Nat) (x : Web) : (s.setWeb i x).out = s.out := rfl
@[simp] theorem Dev.setWeb_int0 (i : Nat) (x : Web) : (s.setWeb i x).int0 = s.int0 := rfl
@[simp] theorem Dev.setWeb_int1 (i : Nat) (x : Web) : (s.setWeb i x).int1 = s.int1 := rfl
@[simp] theorem Dev.setWeb_intMap (i : Nat) (x : Web) : (s.setWeb i x).intMap = s.intMap := rfl
@[simp] theorem Dev.setWeb_latch (i : Nat) (x : Web) : (s.setWeb i x).latch = s.latch := rfl
@[simp] theorem Dev.setWeb_mbs (i : Nat) (x : Web) : (s.setWeb i x).mbs = s.mbs := rfl
@[simp] theorem Dev.setWeb_doorbells (i : Nat) (x : Web) : (s.setWeb i x).doorbells = s.doorbells := rfl
@[simp] theorem Dev.setWeb_encs (i : Nat) (x : Web) : (s.setWeb i x).encs = s.encs := rfl
@[simp] theorem Dev.setWeb_axes (i : Nat) (x : Web) : (s.setWeb i x).axes = s.axes := rfl
@[simp] theorem Dev.setWeb_trigs (i : Nat) (x : Web) : (s.setWeb i x).trigs = s.trigs := rfl
@[simp] theorem Dev.setWeb_ins (i : Nat) (x : Web) : (s.setWeb i x).ins = s.ins := rfl
@[simp] theorem Dev.setWeb_outs (i : Nat) (x : Web) : (s.setWeb i x).outs = s.outs := rfl
@[simp] theorem Dev.setWeb_mer (i : Nat) (x : Web) : (s.setWeb i x).mer = s.mer := rfl
@[simp] theorem Dev.setWeb_lanes (i : Nat) (x : Web) : (s.setWeb i x).lanes = s.lanes := rfl
@[simp] theorem Dev.setWeb_heads (i : Nat) (x : Web) : (s.setWeb i x).heads = s.heads := rfl
@[simp] theorem Dev.setWeb_binds (i : Nat) (x : Web) : (s.setWeb i x).binds = s.binds := rfl
@[simp] theorem Dev.setWeb_streams (i : Nat) (x : Web) : (s.setWeb i x).streams = s.streams := rfl
@[simp] theorem Dev.setWeb_taps (i : Nat) (x : Web) : (s.setWeb i x).taps = s.taps := rfl
@[simp] theorem Dev.setWeb_nibs (i : Nat) (x : Web) : (s.setWeb i x).nibs = s.nibs := rfl
@[simp] theorem Dev.setWeb_slots (i : Nat) (x : Web) : (s.setWeb i x).slots = s.slots := rfl
@[simp] theorem Dev.setWeb_tiles (i : Nat) (x : Web) : (s.setWeb i x).tiles = s.tiles := rfl
@[simp] theorem Dev.setWeb_tileNo (i : Nat) (x : Web) : (s.setWeb i x).tileNo = s.tileNo := rfl
@[simp] theorem Dev.setWeb_seqs (i : Nat) (x : Web) : (s.setWeb i x).seqs = s.seqs := rfl
@[simp] theorem Dev.setWeb_ledger (i : Nat) (x : Web) : (s.setWeb i x).ledger = s.ledger := rfl
@[simp] theorem Dev.setWeb_ephAt (i : Nat) (x : Web) : (s.setWeb i x).ephAt = s.ephAt := rfl
@[simp] theorem Dev.setWeb_folioMib (i : Nat) (x : Web) : (s.setWeb i x).folioMib = s.folioMib := rfl
@[simp] theorem Dev.setWeb_span (i : Nat) (x : Web) : (s.setWeb i x).span = s.span := rfl
@[simp] theorem Dev.setWeb_poison (i : Nat) (x : Web) : (s.setWeb i x).poison = s.poison := rfl
@[simp] theorem Dev.setWeb_dirty (i : Nat) (x : Web) : (s.setWeb i x).dirty = s.dirty := rfl
@[simp] theorem Dev.setWeb_scrubbed (i : Nat) (x : Web) : (s.setWeb i x).scrubbed = s.scrubbed := rfl
@[simp] theorem Dev.setWeb_queues (i : Nat) (x : Web) : (s.setWeb i x).queues = s.queues := rfl
@[simp] theorem Dev.setWeb_chans (i : Nat) (x : Web) : (s.setWeb i x).chans = s.chans := rfl
@[simp] theorem Dev.setWeb_quill (i : Nat) (x : Web) : (s.setWeb i x).quill = s.quill := rfl
@[simp] theorem Dev.setWeb_dux (i : Nat) (x : Web) : (s.setWeb i x).dux = s.dux := rfl
@[simp] theorem Dev.setWeb_flight (i : Nat) (x : Web) : (s.setWeb i x).flight = s.flight := rfl
@[simp] theorem Dev.setWeb_sinks (i : Nat) (x : Web) : (s.setWeb i x).sinks = s.sinks := rfl
@[simp] theorem Dev.setWeb_gates (i : Nat) (x : Web) : (s.setWeb i x).gates = s.gates := rfl
@[simp] theorem Dev.setWeb_droops (i : Nat) (x : Web) : (s.setWeb i x).droops = s.droops := rfl
@[simp] theorem Dev.setWeb_rst (i : Nat) (x : Web) : (s.setWeb i x).rst = s.rst := rfl
@[simp] theorem Dev.setWeb_sec (i : Nat) (x : Web) : (s.setWeb i x).sec = s.sec := rfl
@[simp] theorem Dev.setWeb_alm (i : Nat) (x : Web) : (s.setWeb i x).alm = s.alm := rfl

@[simp] theorem Dev.setQueue_acc (i : Nat) (x : Queue) : (s.setQueue i x).acc = s.acc := rfl
@[simp] theorem Dev.setQueue_frc (i : Nat) (x : Queue) : (s.setQueue i x).frc = s.frc := rfl
@[simp] theorem Dev.setQueue_writes (i : Nat) (x : Queue) : (s.setQueue i x).writes = s.writes := rfl
@[simp] theorem Dev.setQueue_modeAt (i : Nat) (x : Queue) : (s.setQueue i x).modeAt = s.modeAt := rfl
@[simp] theorem Dev.setQueue_now (i : Nat) (x : Queue) : (s.setQueue i x).now = s.now := rfl
@[simp] theorem Dev.setQueue_tbOff (i : Nat) (x : Queue) : (s.setQueue i x).tbOff = s.tbOff := rfl
@[simp] theorem Dev.setQueue_out (i : Nat) (x : Queue) : (s.setQueue i x).out = s.out := rfl
@[simp] theorem Dev.setQueue_int0 (i : Nat) (x : Queue) : (s.setQueue i x).int0 = s.int0 := rfl
@[simp] theorem Dev.setQueue_int1 (i : Nat) (x : Queue) : (s.setQueue i x).int1 = s.int1 := rfl
@[simp] theorem Dev.setQueue_intMap (i : Nat) (x : Queue) : (s.setQueue i x).intMap = s.intMap := rfl
@[simp] theorem Dev.setQueue_latch (i : Nat) (x : Queue) : (s.setQueue i x).latch = s.latch := rfl
@[simp] theorem Dev.setQueue_mbs (i : Nat) (x : Queue) : (s.setQueue i x).mbs = s.mbs := rfl
@[simp] theorem Dev.setQueue_doorbells (i : Nat) (x : Queue) : (s.setQueue i x).doorbells = s.doorbells := rfl
@[simp] theorem Dev.setQueue_encs (i : Nat) (x : Queue) : (s.setQueue i x).encs = s.encs := rfl
@[simp] theorem Dev.setQueue_axes (i : Nat) (x : Queue) : (s.setQueue i x).axes = s.axes := rfl
@[simp] theorem Dev.setQueue_trigs (i : Nat) (x : Queue) : (s.setQueue i x).trigs = s.trigs := rfl
@[simp] theorem Dev.setQueue_ins (i : Nat) (x : Queue) : (s.setQueue i x).ins = s.ins := rfl
@[simp] theorem Dev.setQueue_outs (i : Nat) (x : Queue) : (s.setQueue i x).outs = s.outs := rfl
@[simp] theorem Dev.setQueue_mer (i : Nat) (x : Queue) : (s.setQueue i x).mer = s.mer := rfl
@[simp] theorem Dev.setQueue_lanes (i : Nat) (x : Queue) : (s.setQueue i x).lanes = s.lanes := rfl
@[simp] theorem Dev.setQueue_heads (i : Nat) (x : Queue) : (s.setQueue i x).heads = s.heads := rfl
@[simp] theorem Dev.setQueue_binds (i : Nat) (x : Queue) : (s.setQueue i x).binds = s.binds := rfl
@[simp] theorem Dev.setQueue_streams (i : Nat) (x : Queue) : (s.setQueue i x).streams = s.streams := rfl
@[simp] theorem Dev.setQueue_taps (i : Nat) (x : Queue) : (s.setQueue i x).taps = s.taps := rfl
@[simp] theorem Dev.setQueue_nibs (i : Nat) (x : Queue) : (s.setQueue i x).nibs = s.nibs := rfl
@[simp] theorem Dev.setQueue_slots (i : Nat) (x : Queue) : (s.setQueue i x).slots = s.slots := rfl
@[simp] theorem Dev.setQueue_tiles (i : Nat) (x : Queue) : (s.setQueue i x).tiles = s.tiles := rfl
@[simp] theorem Dev.setQueue_tileNo (i : Nat) (x : Queue) : (s.setQueue i x).tileNo = s.tileNo := rfl
@[simp] theorem Dev.setQueue_seqs (i : Nat) (x : Queue) : (s.setQueue i x).seqs = s.seqs := rfl
@[simp] theorem Dev.setQueue_ledger (i : Nat) (x : Queue) : (s.setQueue i x).ledger = s.ledger := rfl
@[simp] theorem Dev.setQueue_ephAt (i : Nat) (x : Queue) : (s.setQueue i x).ephAt = s.ephAt := rfl
@[simp] theorem Dev.setQueue_folioMib (i : Nat) (x : Queue) : (s.setQueue i x).folioMib = s.folioMib := rfl
@[simp] theorem Dev.setQueue_webs (i : Nat) (x : Queue) : (s.setQueue i x).webs = s.webs := rfl
@[simp] theorem Dev.setQueue_span (i : Nat) (x : Queue) : (s.setQueue i x).span = s.span := rfl
@[simp] theorem Dev.setQueue_poison (i : Nat) (x : Queue) : (s.setQueue i x).poison = s.poison := rfl
@[simp] theorem Dev.setQueue_dirty (i : Nat) (x : Queue) : (s.setQueue i x).dirty = s.dirty := rfl
@[simp] theorem Dev.setQueue_scrubbed (i : Nat) (x : Queue) : (s.setQueue i x).scrubbed = s.scrubbed := rfl
@[simp] theorem Dev.setQueue_chans (i : Nat) (x : Queue) : (s.setQueue i x).chans = s.chans := rfl
@[simp] theorem Dev.setQueue_quill (i : Nat) (x : Queue) : (s.setQueue i x).quill = s.quill := rfl
@[simp] theorem Dev.setQueue_dux (i : Nat) (x : Queue) : (s.setQueue i x).dux = s.dux := rfl
@[simp] theorem Dev.setQueue_flight (i : Nat) (x : Queue) : (s.setQueue i x).flight = s.flight := rfl
@[simp] theorem Dev.setQueue_sinks (i : Nat) (x : Queue) : (s.setQueue i x).sinks = s.sinks := rfl
@[simp] theorem Dev.setQueue_gates (i : Nat) (x : Queue) : (s.setQueue i x).gates = s.gates := rfl
@[simp] theorem Dev.setQueue_droops (i : Nat) (x : Queue) : (s.setQueue i x).droops = s.droops := rfl
@[simp] theorem Dev.setQueue_rst (i : Nat) (x : Queue) : (s.setQueue i x).rst = s.rst := rfl
@[simp] theorem Dev.setQueue_sec (i : Nat) (x : Queue) : (s.setQueue i x).sec = s.sec := rfl
@[simp] theorem Dev.setQueue_alm (i : Nat) (x : Queue) : (s.setQueue i x).alm = s.alm := rfl

@[simp] theorem Dev.setChan_acc (i : Nat) (x : Chan) : (s.setChan i x).acc = s.acc := rfl
@[simp] theorem Dev.setChan_frc (i : Nat) (x : Chan) : (s.setChan i x).frc = s.frc := rfl
@[simp] theorem Dev.setChan_writes (i : Nat) (x : Chan) : (s.setChan i x).writes = s.writes := rfl
@[simp] theorem Dev.setChan_modeAt (i : Nat) (x : Chan) : (s.setChan i x).modeAt = s.modeAt := rfl
@[simp] theorem Dev.setChan_now (i : Nat) (x : Chan) : (s.setChan i x).now = s.now := rfl
@[simp] theorem Dev.setChan_tbOff (i : Nat) (x : Chan) : (s.setChan i x).tbOff = s.tbOff := rfl
@[simp] theorem Dev.setChan_out (i : Nat) (x : Chan) : (s.setChan i x).out = s.out := rfl
@[simp] theorem Dev.setChan_int0 (i : Nat) (x : Chan) : (s.setChan i x).int0 = s.int0 := rfl
@[simp] theorem Dev.setChan_int1 (i : Nat) (x : Chan) : (s.setChan i x).int1 = s.int1 := rfl
@[simp] theorem Dev.setChan_intMap (i : Nat) (x : Chan) : (s.setChan i x).intMap = s.intMap := rfl
@[simp] theorem Dev.setChan_latch (i : Nat) (x : Chan) : (s.setChan i x).latch = s.latch := rfl
@[simp] theorem Dev.setChan_mbs (i : Nat) (x : Chan) : (s.setChan i x).mbs = s.mbs := rfl
@[simp] theorem Dev.setChan_doorbells (i : Nat) (x : Chan) : (s.setChan i x).doorbells = s.doorbells := rfl
@[simp] theorem Dev.setChan_encs (i : Nat) (x : Chan) : (s.setChan i x).encs = s.encs := rfl
@[simp] theorem Dev.setChan_axes (i : Nat) (x : Chan) : (s.setChan i x).axes = s.axes := rfl
@[simp] theorem Dev.setChan_trigs (i : Nat) (x : Chan) : (s.setChan i x).trigs = s.trigs := rfl
@[simp] theorem Dev.setChan_ins (i : Nat) (x : Chan) : (s.setChan i x).ins = s.ins := rfl
@[simp] theorem Dev.setChan_outs (i : Nat) (x : Chan) : (s.setChan i x).outs = s.outs := rfl
@[simp] theorem Dev.setChan_mer (i : Nat) (x : Chan) : (s.setChan i x).mer = s.mer := rfl
@[simp] theorem Dev.setChan_lanes (i : Nat) (x : Chan) : (s.setChan i x).lanes = s.lanes := rfl
@[simp] theorem Dev.setChan_heads (i : Nat) (x : Chan) : (s.setChan i x).heads = s.heads := rfl
@[simp] theorem Dev.setChan_binds (i : Nat) (x : Chan) : (s.setChan i x).binds = s.binds := rfl
@[simp] theorem Dev.setChan_streams (i : Nat) (x : Chan) : (s.setChan i x).streams = s.streams := rfl
@[simp] theorem Dev.setChan_taps (i : Nat) (x : Chan) : (s.setChan i x).taps = s.taps := rfl
@[simp] theorem Dev.setChan_nibs (i : Nat) (x : Chan) : (s.setChan i x).nibs = s.nibs := rfl
@[simp] theorem Dev.setChan_slots (i : Nat) (x : Chan) : (s.setChan i x).slots = s.slots := rfl
@[simp] theorem Dev.setChan_tiles (i : Nat) (x : Chan) : (s.setChan i x).tiles = s.tiles := rfl
@[simp] theorem Dev.setChan_tileNo (i : Nat) (x : Chan) : (s.setChan i x).tileNo = s.tileNo := rfl
@[simp] theorem Dev.setChan_seqs (i : Nat) (x : Chan) : (s.setChan i x).seqs = s.seqs := rfl
@[simp] theorem Dev.setChan_ledger (i : Nat) (x : Chan) : (s.setChan i x).ledger = s.ledger := rfl
@[simp] theorem Dev.setChan_ephAt (i : Nat) (x : Chan) : (s.setChan i x).ephAt = s.ephAt := rfl
@[simp] theorem Dev.setChan_folioMib (i : Nat) (x : Chan) : (s.setChan i x).folioMib = s.folioMib := rfl
@[simp] theorem Dev.setChan_webs (i : Nat) (x : Chan) : (s.setChan i x).webs = s.webs := rfl
@[simp] theorem Dev.setChan_span (i : Nat) (x : Chan) : (s.setChan i x).span = s.span := rfl
@[simp] theorem Dev.setChan_poison (i : Nat) (x : Chan) : (s.setChan i x).poison = s.poison := rfl
@[simp] theorem Dev.setChan_dirty (i : Nat) (x : Chan) : (s.setChan i x).dirty = s.dirty := rfl
@[simp] theorem Dev.setChan_scrubbed (i : Nat) (x : Chan) : (s.setChan i x).scrubbed = s.scrubbed := rfl
@[simp] theorem Dev.setChan_queues (i : Nat) (x : Chan) : (s.setChan i x).queues = s.queues := rfl
@[simp] theorem Dev.setChan_quill (i : Nat) (x : Chan) : (s.setChan i x).quill = s.quill := rfl
@[simp] theorem Dev.setChan_dux (i : Nat) (x : Chan) : (s.setChan i x).dux = s.dux := rfl
@[simp] theorem Dev.setChan_flight (i : Nat) (x : Chan) : (s.setChan i x).flight = s.flight := rfl
@[simp] theorem Dev.setChan_sinks (i : Nat) (x : Chan) : (s.setChan i x).sinks = s.sinks := rfl
@[simp] theorem Dev.setChan_gates (i : Nat) (x : Chan) : (s.setChan i x).gates = s.gates := rfl
@[simp] theorem Dev.setChan_droops (i : Nat) (x : Chan) : (s.setChan i x).droops = s.droops := rfl
@[simp] theorem Dev.setChan_rst (i : Nat) (x : Chan) : (s.setChan i x).rst = s.rst := rfl
@[simp] theorem Dev.setChan_sec (i : Nat) (x : Chan) : (s.setChan i x).sec = s.sec := rfl
@[simp] theorem Dev.setChan_alm (i : Nat) (x : Chan) : (s.setChan i x).alm = s.alm := rfl

@[simp] theorem Dev.setDuct_acc (i : Nat) (x : Dux) : (s.setDuct i x).acc = s.acc := rfl
@[simp] theorem Dev.setDuct_frc (i : Nat) (x : Dux) : (s.setDuct i x).frc = s.frc := rfl
@[simp] theorem Dev.setDuct_writes (i : Nat) (x : Dux) : (s.setDuct i x).writes = s.writes := rfl
@[simp] theorem Dev.setDuct_modeAt (i : Nat) (x : Dux) : (s.setDuct i x).modeAt = s.modeAt := rfl
@[simp] theorem Dev.setDuct_now (i : Nat) (x : Dux) : (s.setDuct i x).now = s.now := rfl
@[simp] theorem Dev.setDuct_tbOff (i : Nat) (x : Dux) : (s.setDuct i x).tbOff = s.tbOff := rfl
@[simp] theorem Dev.setDuct_out (i : Nat) (x : Dux) : (s.setDuct i x).out = s.out := rfl
@[simp] theorem Dev.setDuct_int0 (i : Nat) (x : Dux) : (s.setDuct i x).int0 = s.int0 := rfl
@[simp] theorem Dev.setDuct_int1 (i : Nat) (x : Dux) : (s.setDuct i x).int1 = s.int1 := rfl
@[simp] theorem Dev.setDuct_intMap (i : Nat) (x : Dux) : (s.setDuct i x).intMap = s.intMap := rfl
@[simp] theorem Dev.setDuct_latch (i : Nat) (x : Dux) : (s.setDuct i x).latch = s.latch := rfl
@[simp] theorem Dev.setDuct_mbs (i : Nat) (x : Dux) : (s.setDuct i x).mbs = s.mbs := rfl
@[simp] theorem Dev.setDuct_doorbells (i : Nat) (x : Dux) : (s.setDuct i x).doorbells = s.doorbells := rfl
@[simp] theorem Dev.setDuct_encs (i : Nat) (x : Dux) : (s.setDuct i x).encs = s.encs := rfl
@[simp] theorem Dev.setDuct_axes (i : Nat) (x : Dux) : (s.setDuct i x).axes = s.axes := rfl
@[simp] theorem Dev.setDuct_trigs (i : Nat) (x : Dux) : (s.setDuct i x).trigs = s.trigs := rfl
@[simp] theorem Dev.setDuct_ins (i : Nat) (x : Dux) : (s.setDuct i x).ins = s.ins := rfl
@[simp] theorem Dev.setDuct_outs (i : Nat) (x : Dux) : (s.setDuct i x).outs = s.outs := rfl
@[simp] theorem Dev.setDuct_mer (i : Nat) (x : Dux) : (s.setDuct i x).mer = s.mer := rfl
@[simp] theorem Dev.setDuct_lanes (i : Nat) (x : Dux) : (s.setDuct i x).lanes = s.lanes := rfl
@[simp] theorem Dev.setDuct_heads (i : Nat) (x : Dux) : (s.setDuct i x).heads = s.heads := rfl
@[simp] theorem Dev.setDuct_binds (i : Nat) (x : Dux) : (s.setDuct i x).binds = s.binds := rfl
@[simp] theorem Dev.setDuct_streams (i : Nat) (x : Dux) : (s.setDuct i x).streams = s.streams := rfl
@[simp] theorem Dev.setDuct_taps (i : Nat) (x : Dux) : (s.setDuct i x).taps = s.taps := rfl
@[simp] theorem Dev.setDuct_nibs (i : Nat) (x : Dux) : (s.setDuct i x).nibs = s.nibs := rfl
@[simp] theorem Dev.setDuct_slots (i : Nat) (x : Dux) : (s.setDuct i x).slots = s.slots := rfl
@[simp] theorem Dev.setDuct_tiles (i : Nat) (x : Dux) : (s.setDuct i x).tiles = s.tiles := rfl
@[simp] theorem Dev.setDuct_tileNo (i : Nat) (x : Dux) : (s.setDuct i x).tileNo = s.tileNo := rfl
@[simp] theorem Dev.setDuct_seqs (i : Nat) (x : Dux) : (s.setDuct i x).seqs = s.seqs := rfl
@[simp] theorem Dev.setDuct_ledger (i : Nat) (x : Dux) : (s.setDuct i x).ledger = s.ledger := rfl
@[simp] theorem Dev.setDuct_ephAt (i : Nat) (x : Dux) : (s.setDuct i x).ephAt = s.ephAt := rfl
@[simp] theorem Dev.setDuct_folioMib (i : Nat) (x : Dux) : (s.setDuct i x).folioMib = s.folioMib := rfl
@[simp] theorem Dev.setDuct_webs (i : Nat) (x : Dux) : (s.setDuct i x).webs = s.webs := rfl
@[simp] theorem Dev.setDuct_span (i : Nat) (x : Dux) : (s.setDuct i x).span = s.span := rfl
@[simp] theorem Dev.setDuct_poison (i : Nat) (x : Dux) : (s.setDuct i x).poison = s.poison := rfl
@[simp] theorem Dev.setDuct_dirty (i : Nat) (x : Dux) : (s.setDuct i x).dirty = s.dirty := rfl
@[simp] theorem Dev.setDuct_scrubbed (i : Nat) (x : Dux) : (s.setDuct i x).scrubbed = s.scrubbed := rfl
@[simp] theorem Dev.setDuct_queues (i : Nat) (x : Dux) : (s.setDuct i x).queues = s.queues := rfl
@[simp] theorem Dev.setDuct_chans (i : Nat) (x : Dux) : (s.setDuct i x).chans = s.chans := rfl
@[simp] theorem Dev.setDuct_quill (i : Nat) (x : Dux) : (s.setDuct i x).quill = s.quill := rfl
@[simp] theorem Dev.setDuct_flight (i : Nat) (x : Dux) : (s.setDuct i x).flight = s.flight := rfl
@[simp] theorem Dev.setDuct_sinks (i : Nat) (x : Dux) : (s.setDuct i x).sinks = s.sinks := rfl
@[simp] theorem Dev.setDuct_gates (i : Nat) (x : Dux) : (s.setDuct i x).gates = s.gates := rfl
@[simp] theorem Dev.setDuct_droops (i : Nat) (x : Dux) : (s.setDuct i x).droops = s.droops := rfl
@[simp] theorem Dev.setDuct_rst (i : Nat) (x : Dux) : (s.setDuct i x).rst = s.rst := rfl
@[simp] theorem Dev.setDuct_sec (i : Nat) (x : Dux) : (s.setDuct i x).sec = s.sec := rfl
@[simp] theorem Dev.setDuct_alm (i : Nat) (x : Dux) : (s.setDuct i x).alm = s.alm := rfl

@[simp] theorem Dev.setGate_acc (i : Nat) (x : Gate) : (s.setGate i x).acc = s.acc := rfl
@[simp] theorem Dev.setGate_frc (i : Nat) (x : Gate) : (s.setGate i x).frc = s.frc := rfl
@[simp] theorem Dev.setGate_writes (i : Nat) (x : Gate) : (s.setGate i x).writes = s.writes := rfl
@[simp] theorem Dev.setGate_modeAt (i : Nat) (x : Gate) : (s.setGate i x).modeAt = s.modeAt := rfl
@[simp] theorem Dev.setGate_now (i : Nat) (x : Gate) : (s.setGate i x).now = s.now := rfl
@[simp] theorem Dev.setGate_tbOff (i : Nat) (x : Gate) : (s.setGate i x).tbOff = s.tbOff := rfl
@[simp] theorem Dev.setGate_out (i : Nat) (x : Gate) : (s.setGate i x).out = s.out := rfl
@[simp] theorem Dev.setGate_int0 (i : Nat) (x : Gate) : (s.setGate i x).int0 = s.int0 := rfl
@[simp] theorem Dev.setGate_int1 (i : Nat) (x : Gate) : (s.setGate i x).int1 = s.int1 := rfl
@[simp] theorem Dev.setGate_intMap (i : Nat) (x : Gate) : (s.setGate i x).intMap = s.intMap := rfl
@[simp] theorem Dev.setGate_latch (i : Nat) (x : Gate) : (s.setGate i x).latch = s.latch := rfl
@[simp] theorem Dev.setGate_mbs (i : Nat) (x : Gate) : (s.setGate i x).mbs = s.mbs := rfl
@[simp] theorem Dev.setGate_doorbells (i : Nat) (x : Gate) : (s.setGate i x).doorbells = s.doorbells := rfl
@[simp] theorem Dev.setGate_encs (i : Nat) (x : Gate) : (s.setGate i x).encs = s.encs := rfl
@[simp] theorem Dev.setGate_axes (i : Nat) (x : Gate) : (s.setGate i x).axes = s.axes := rfl
@[simp] theorem Dev.setGate_trigs (i : Nat) (x : Gate) : (s.setGate i x).trigs = s.trigs := rfl
@[simp] theorem Dev.setGate_ins (i : Nat) (x : Gate) : (s.setGate i x).ins = s.ins := rfl
@[simp] theorem Dev.setGate_outs (i : Nat) (x : Gate) : (s.setGate i x).outs = s.outs := rfl
@[simp] theorem Dev.setGate_mer (i : Nat) (x : Gate) : (s.setGate i x).mer = s.mer := rfl
@[simp] theorem Dev.setGate_lanes (i : Nat) (x : Gate) : (s.setGate i x).lanes = s.lanes := rfl
@[simp] theorem Dev.setGate_heads (i : Nat) (x : Gate) : (s.setGate i x).heads = s.heads := rfl
@[simp] theorem Dev.setGate_binds (i : Nat) (x : Gate) : (s.setGate i x).binds = s.binds := rfl
@[simp] theorem Dev.setGate_streams (i : Nat) (x : Gate) : (s.setGate i x).streams = s.streams := rfl
@[simp] theorem Dev.setGate_taps (i : Nat) (x : Gate) : (s.setGate i x).taps = s.taps := rfl
@[simp] theorem Dev.setGate_nibs (i : Nat) (x : Gate) : (s.setGate i x).nibs = s.nibs := rfl
@[simp] theorem Dev.setGate_slots (i : Nat) (x : Gate) : (s.setGate i x).slots = s.slots := rfl
@[simp] theorem Dev.setGate_tiles (i : Nat) (x : Gate) : (s.setGate i x).tiles = s.tiles := rfl
@[simp] theorem Dev.setGate_tileNo (i : Nat) (x : Gate) : (s.setGate i x).tileNo = s.tileNo := rfl
@[simp] theorem Dev.setGate_seqs (i : Nat) (x : Gate) : (s.setGate i x).seqs = s.seqs := rfl
@[simp] theorem Dev.setGate_ledger (i : Nat) (x : Gate) : (s.setGate i x).ledger = s.ledger := rfl
@[simp] theorem Dev.setGate_ephAt (i : Nat) (x : Gate) : (s.setGate i x).ephAt = s.ephAt := rfl
@[simp] theorem Dev.setGate_folioMib (i : Nat) (x : Gate) : (s.setGate i x).folioMib = s.folioMib := rfl
@[simp] theorem Dev.setGate_webs (i : Nat) (x : Gate) : (s.setGate i x).webs = s.webs := rfl
@[simp] theorem Dev.setGate_span (i : Nat) (x : Gate) : (s.setGate i x).span = s.span := rfl
@[simp] theorem Dev.setGate_poison (i : Nat) (x : Gate) : (s.setGate i x).poison = s.poison := rfl
@[simp] theorem Dev.setGate_dirty (i : Nat) (x : Gate) : (s.setGate i x).dirty = s.dirty := rfl
@[simp] theorem Dev.setGate_scrubbed (i : Nat) (x : Gate) : (s.setGate i x).scrubbed = s.scrubbed := rfl
@[simp] theorem Dev.setGate_queues (i : Nat) (x : Gate) : (s.setGate i x).queues = s.queues := rfl
@[simp] theorem Dev.setGate_chans (i : Nat) (x : Gate) : (s.setGate i x).chans = s.chans := rfl
@[simp] theorem Dev.setGate_quill (i : Nat) (x : Gate) : (s.setGate i x).quill = s.quill := rfl
@[simp] theorem Dev.setGate_dux (i : Nat) (x : Gate) : (s.setGate i x).dux = s.dux := rfl
@[simp] theorem Dev.setGate_flight (i : Nat) (x : Gate) : (s.setGate i x).flight = s.flight := rfl
@[simp] theorem Dev.setGate_sinks (i : Nat) (x : Gate) : (s.setGate i x).sinks = s.sinks := rfl
@[simp] theorem Dev.setGate_droops (i : Nat) (x : Gate) : (s.setGate i x).droops = s.droops := rfl
@[simp] theorem Dev.setGate_rst (i : Nat) (x : Gate) : (s.setGate i x).rst = s.rst := rfl
@[simp] theorem Dev.setGate_sec (i : Nat) (x : Gate) : (s.setGate i x).sec = s.sec := rfl
@[simp] theorem Dev.setGate_alm (i : Nat) (x : Gate) : (s.setGate i x).alm = s.alm := rfl

/-! ## Objects and parameters read back -/

@[simp] theorem Dev.setK_mb_get (k v : Nat) (i' : Nat) : (s.setK k v).mb i' = s.mb i' := rfl
@[simp] theorem Dev.setK_enc_get (k v : Nat) (i' : Nat) : (s.setK k v).enc i' = s.enc i' := rfl
@[simp] theorem Dev.setK_axis_get (k v : Nat) (i' : Nat) : (s.setK k v).axis i' = s.axis i' := rfl
@[simp] theorem Dev.setK_trig_get (k v : Nat) (i' : Nat) : (s.setK k v).trig i' = s.trig i' := rfl
@[simp] theorem Dev.setK_fin_get (k v : Nat) (i' : Nat) : (s.setK k v).fin i' = s.fin i' := rfl
@[simp] theorem Dev.setK_fout_get (k v : Nat) (i' : Nat) : (s.setK k v).fout i' = s.fout i' := rfl
@[simp] theorem Dev.setK_lane_get (k v : Nat) (i' : Nat) : (s.setK k v).lane i' = s.lane i' := rfl
@[simp] theorem Dev.setK_head_get (k v : Nat) (i' : Nat) : (s.setK k v).head i' = s.head i' := rfl
@[simp] theorem Dev.setK_stream_get (k v : Nat) (i' : Nat) : (s.setK k v).stream i' = s.stream i' := rfl
@[simp] theorem Dev.setK_tap_get (k v : Nat) (i' : Nat) : (s.setK k v).tap i' = s.tap i' := rfl
@[simp] theorem Dev.setK_nib_get (k v : Nat) (i' : Nat) : (s.setK k v).nib i' = s.nib i' := rfl
@[simp] theorem Dev.setK_slot_get (k v : Nat) (i' : Nat) : (s.setK k v).slot i' = s.slot i' := rfl
@[simp] theorem Dev.setK_seqn_get (k v : Nat) (i' : Nat) : (s.setK k v).seqn i' = s.seqn i' := rfl
@[simp] theorem Dev.setK_web_get (k v : Nat) (i' : Nat) : (s.setK k v).web i' = s.web i' := rfl
@[simp] theorem Dev.setK_queue_get (k v : Nat) (i' : Nat) : (s.setK k v).queue i' = s.queue i' := rfl
@[simp] theorem Dev.setK_chan_get (k v : Nat) (i' : Nat) : (s.setK k v).chan i' = s.chan i' := rfl
@[simp] theorem Dev.setK_duct_get (k v : Nat) (i' : Nat) : (s.setK k v).duct i' = s.duct i' := rfl
@[simp] theorem Dev.setK_gate_get (k v : Nat) (i' : Nat) : (s.setK k v).gate i' = s.gate i' := rfl
@[simp] theorem Dev.setK_ak_get (k v : Nat) (j : Nat) : (s.setK k v).ak j = s.ak j := rfl

@[simp] theorem Dev.setP_mb_get (id i v : Nat) (i' : Nat) : (s.setP id i v).mb i' = s.mb i' := rfl
@[simp] theorem Dev.setP_enc_get (id i v : Nat) (i' : Nat) : (s.setP id i v).enc i' = s.enc i' := rfl
@[simp] theorem Dev.setP_axis_get (id i v : Nat) (i' : Nat) : (s.setP id i v).axis i' = s.axis i' := rfl
@[simp] theorem Dev.setP_trig_get (id i v : Nat) (i' : Nat) : (s.setP id i v).trig i' = s.trig i' := rfl
@[simp] theorem Dev.setP_fin_get (id i v : Nat) (i' : Nat) : (s.setP id i v).fin i' = s.fin i' := rfl
@[simp] theorem Dev.setP_fout_get (id i v : Nat) (i' : Nat) : (s.setP id i v).fout i' = s.fout i' := rfl
@[simp] theorem Dev.setP_lane_get (id i v : Nat) (i' : Nat) : (s.setP id i v).lane i' = s.lane i' := rfl
@[simp] theorem Dev.setP_head_get (id i v : Nat) (i' : Nat) : (s.setP id i v).head i' = s.head i' := rfl
@[simp] theorem Dev.setP_stream_get (id i v : Nat) (i' : Nat) : (s.setP id i v).stream i' = s.stream i' := rfl
@[simp] theorem Dev.setP_tap_get (id i v : Nat) (i' : Nat) : (s.setP id i v).tap i' = s.tap i' := rfl
@[simp] theorem Dev.setP_nib_get (id i v : Nat) (i' : Nat) : (s.setP id i v).nib i' = s.nib i' := rfl
@[simp] theorem Dev.setP_slot_get (id i v : Nat) (i' : Nat) : (s.setP id i v).slot i' = s.slot i' := rfl
@[simp] theorem Dev.setP_seqn_get (id i v : Nat) (i' : Nat) : (s.setP id i v).seqn i' = s.seqn i' := rfl
@[simp] theorem Dev.setP_web_get (id i v : Nat) (i' : Nat) : (s.setP id i v).web i' = s.web i' := rfl
@[simp] theorem Dev.setP_queue_get (id i v : Nat) (i' : Nat) : (s.setP id i v).queue i' = s.queue i' := rfl
@[simp] theorem Dev.setP_chan_get (id i v : Nat) (i' : Nat) : (s.setP id i v).chan i' = s.chan i' := rfl
@[simp] theorem Dev.setP_duct_get (id i v : Nat) (i' : Nat) : (s.setP id i v).duct i' = s.duct i' := rfl
@[simp] theorem Dev.setP_gate_get (id i v : Nat) (i' : Nat) : (s.setP id i v).gate i' = s.gate i' := rfl
@[simp] theorem Dev.setP_ak_get (id i v : Nat) (j : Nat) : (s.setP id i v).ak j = s.ak j := rfl

@[simp] theorem Dev.setA_mb_get (k v : Nat) (i' : Nat) : (s.setA k v).mb i' = s.mb i' := rfl
@[simp] theorem Dev.setA_enc_get (k v : Nat) (i' : Nat) : (s.setA k v).enc i' = s.enc i' := rfl
@[simp] theorem Dev.setA_axis_get (k v : Nat) (i' : Nat) : (s.setA k v).axis i' = s.axis i' := rfl
@[simp] theorem Dev.setA_trig_get (k v : Nat) (i' : Nat) : (s.setA k v).trig i' = s.trig i' := rfl
@[simp] theorem Dev.setA_fin_get (k v : Nat) (i' : Nat) : (s.setA k v).fin i' = s.fin i' := rfl
@[simp] theorem Dev.setA_fout_get (k v : Nat) (i' : Nat) : (s.setA k v).fout i' = s.fout i' := rfl
@[simp] theorem Dev.setA_lane_get (k v : Nat) (i' : Nat) : (s.setA k v).lane i' = s.lane i' := rfl
@[simp] theorem Dev.setA_head_get (k v : Nat) (i' : Nat) : (s.setA k v).head i' = s.head i' := rfl
@[simp] theorem Dev.setA_stream_get (k v : Nat) (i' : Nat) : (s.setA k v).stream i' = s.stream i' := rfl
@[simp] theorem Dev.setA_tap_get (k v : Nat) (i' : Nat) : (s.setA k v).tap i' = s.tap i' := rfl
@[simp] theorem Dev.setA_nib_get (k v : Nat) (i' : Nat) : (s.setA k v).nib i' = s.nib i' := rfl
@[simp] theorem Dev.setA_slot_get (k v : Nat) (i' : Nat) : (s.setA k v).slot i' = s.slot i' := rfl
@[simp] theorem Dev.setA_seqn_get (k v : Nat) (i' : Nat) : (s.setA k v).seqn i' = s.seqn i' := rfl
@[simp] theorem Dev.setA_web_get (k v : Nat) (i' : Nat) : (s.setA k v).web i' = s.web i' := rfl
@[simp] theorem Dev.setA_queue_get (k v : Nat) (i' : Nat) : (s.setA k v).queue i' = s.queue i' := rfl
@[simp] theorem Dev.setA_chan_get (k v : Nat) (i' : Nat) : (s.setA k v).chan i' = s.chan i' := rfl
@[simp] theorem Dev.setA_duct_get (k v : Nat) (i' : Nat) : (s.setA k v).duct i' = s.duct i' := rfl
@[simp] theorem Dev.setA_gate_get (k v : Nat) (i' : Nat) : (s.setA k v).gate i' = s.gate i' := rfl
@[simp] theorem Dev.setA_pk_get (k v : Nat) (j : Nat) : (s.setA k v).pk j = s.pk j := rfl
@[simp] theorem Dev.setA_pv_get (k v : Nat) (d j : Nat) : (s.setA k v).pv d j = s.pv d j := rfl

@[simp] theorem Dev.emit_mb_get (o : Output) (i' : Nat) : (s.emit o).mb i' = s.mb i' := rfl
@[simp] theorem Dev.emit_enc_get (o : Output) (i' : Nat) : (s.emit o).enc i' = s.enc i' := rfl
@[simp] theorem Dev.emit_axis_get (o : Output) (i' : Nat) : (s.emit o).axis i' = s.axis i' := rfl
@[simp] theorem Dev.emit_trig_get (o : Output) (i' : Nat) : (s.emit o).trig i' = s.trig i' := rfl
@[simp] theorem Dev.emit_fin_get (o : Output) (i' : Nat) : (s.emit o).fin i' = s.fin i' := rfl
@[simp] theorem Dev.emit_fout_get (o : Output) (i' : Nat) : (s.emit o).fout i' = s.fout i' := rfl
@[simp] theorem Dev.emit_lane_get (o : Output) (i' : Nat) : (s.emit o).lane i' = s.lane i' := rfl
@[simp] theorem Dev.emit_head_get (o : Output) (i' : Nat) : (s.emit o).head i' = s.head i' := rfl
@[simp] theorem Dev.emit_stream_get (o : Output) (i' : Nat) : (s.emit o).stream i' = s.stream i' := rfl
@[simp] theorem Dev.emit_tap_get (o : Output) (i' : Nat) : (s.emit o).tap i' = s.tap i' := rfl
@[simp] theorem Dev.emit_nib_get (o : Output) (i' : Nat) : (s.emit o).nib i' = s.nib i' := rfl
@[simp] theorem Dev.emit_slot_get (o : Output) (i' : Nat) : (s.emit o).slot i' = s.slot i' := rfl
@[simp] theorem Dev.emit_seqn_get (o : Output) (i' : Nat) : (s.emit o).seqn i' = s.seqn i' := rfl
@[simp] theorem Dev.emit_web_get (o : Output) (i' : Nat) : (s.emit o).web i' = s.web i' := rfl
@[simp] theorem Dev.emit_queue_get (o : Output) (i' : Nat) : (s.emit o).queue i' = s.queue i' := rfl
@[simp] theorem Dev.emit_chan_get (o : Output) (i' : Nat) : (s.emit o).chan i' = s.chan i' := rfl
@[simp] theorem Dev.emit_duct_get (o : Output) (i' : Nat) : (s.emit o).duct i' = s.duct i' := rfl
@[simp] theorem Dev.emit_gate_get (o : Output) (i' : Nat) : (s.emit o).gate i' = s.gate i' := rfl
@[simp] theorem Dev.emit_pk_get (o : Output) (j : Nat) : (s.emit o).pk j = s.pk j := rfl
@[simp] theorem Dev.emit_pv_get (o : Output) (d j : Nat) : (s.emit o).pv d j = s.pv d j := rfl
@[simp] theorem Dev.emit_ak_get (o : Output) (j : Nat) : (s.emit o).ak j = s.ak j := rfl

@[simp] theorem Dev.at'_mb_get (t : Nat) (i' : Nat) : (s.at' t).mb i' = s.mb i' := rfl
@[simp] theorem Dev.at'_enc_get (t : Nat) (i' : Nat) : (s.at' t).enc i' = s.enc i' := rfl
@[simp] theorem Dev.at'_axis_get (t : Nat) (i' : Nat) : (s.at' t).axis i' = s.axis i' := rfl
@[simp] theorem Dev.at'_trig_get (t : Nat) (i' : Nat) : (s.at' t).trig i' = s.trig i' := rfl
@[simp] theorem Dev.at'_fin_get (t : Nat) (i' : Nat) : (s.at' t).fin i' = s.fin i' := rfl
@[simp] theorem Dev.at'_fout_get (t : Nat) (i' : Nat) : (s.at' t).fout i' = s.fout i' := rfl
@[simp] theorem Dev.at'_lane_get (t : Nat) (i' : Nat) : (s.at' t).lane i' = s.lane i' := rfl
@[simp] theorem Dev.at'_head_get (t : Nat) (i' : Nat) : (s.at' t).head i' = s.head i' := rfl
@[simp] theorem Dev.at'_stream_get (t : Nat) (i' : Nat) : (s.at' t).stream i' = s.stream i' := rfl
@[simp] theorem Dev.at'_tap_get (t : Nat) (i' : Nat) : (s.at' t).tap i' = s.tap i' := rfl
@[simp] theorem Dev.at'_nib_get (t : Nat) (i' : Nat) : (s.at' t).nib i' = s.nib i' := rfl
@[simp] theorem Dev.at'_slot_get (t : Nat) (i' : Nat) : (s.at' t).slot i' = s.slot i' := rfl
@[simp] theorem Dev.at'_seqn_get (t : Nat) (i' : Nat) : (s.at' t).seqn i' = s.seqn i' := rfl
@[simp] theorem Dev.at'_web_get (t : Nat) (i' : Nat) : (s.at' t).web i' = s.web i' := rfl
@[simp] theorem Dev.at'_queue_get (t : Nat) (i' : Nat) : (s.at' t).queue i' = s.queue i' := rfl
@[simp] theorem Dev.at'_chan_get (t : Nat) (i' : Nat) : (s.at' t).chan i' = s.chan i' := rfl
@[simp] theorem Dev.at'_duct_get (t : Nat) (i' : Nat) : (s.at' t).duct i' = s.duct i' := rfl
@[simp] theorem Dev.at'_gate_get (t : Nat) (i' : Nat) : (s.at' t).gate i' = s.gate i' := rfl
@[simp] theorem Dev.at'_pk_get (t : Nat) (j : Nat) : (s.at' t).pk j = s.pk j := rfl
@[simp] theorem Dev.at'_pv_get (t : Nat) (d j : Nat) : (s.at' t).pv d j = s.pv d j := rfl
@[simp] theorem Dev.at'_ak_get (t : Nat) (j : Nat) : (s.at' t).ak j = s.ak j := rfl

@[simp] theorem Dev.setMb_enc_get (i : Nat) (x : Mailbox) (i' : Nat) : (s.setMb i x).enc i' = s.enc i' := rfl
@[simp] theorem Dev.setMb_axis_get (i : Nat) (x : Mailbox) (i' : Nat) : (s.setMb i x).axis i' = s.axis i' := rfl
@[simp] theorem Dev.setMb_trig_get (i : Nat) (x : Mailbox) (i' : Nat) : (s.setMb i x).trig i' = s.trig i' := rfl
@[simp] theorem Dev.setMb_fin_get (i : Nat) (x : Mailbox) (i' : Nat) : (s.setMb i x).fin i' = s.fin i' := rfl
@[simp] theorem Dev.setMb_fout_get (i : Nat) (x : Mailbox) (i' : Nat) : (s.setMb i x).fout i' = s.fout i' := rfl
@[simp] theorem Dev.setMb_lane_get (i : Nat) (x : Mailbox) (i' : Nat) : (s.setMb i x).lane i' = s.lane i' := rfl
@[simp] theorem Dev.setMb_head_get (i : Nat) (x : Mailbox) (i' : Nat) : (s.setMb i x).head i' = s.head i' := rfl
@[simp] theorem Dev.setMb_stream_get (i : Nat) (x : Mailbox) (i' : Nat) : (s.setMb i x).stream i' = s.stream i' := rfl
@[simp] theorem Dev.setMb_tap_get (i : Nat) (x : Mailbox) (i' : Nat) : (s.setMb i x).tap i' = s.tap i' := rfl
@[simp] theorem Dev.setMb_nib_get (i : Nat) (x : Mailbox) (i' : Nat) : (s.setMb i x).nib i' = s.nib i' := rfl
@[simp] theorem Dev.setMb_slot_get (i : Nat) (x : Mailbox) (i' : Nat) : (s.setMb i x).slot i' = s.slot i' := rfl
@[simp] theorem Dev.setMb_seqn_get (i : Nat) (x : Mailbox) (i' : Nat) : (s.setMb i x).seqn i' = s.seqn i' := rfl
@[simp] theorem Dev.setMb_web_get (i : Nat) (x : Mailbox) (i' : Nat) : (s.setMb i x).web i' = s.web i' := rfl
@[simp] theorem Dev.setMb_queue_get (i : Nat) (x : Mailbox) (i' : Nat) : (s.setMb i x).queue i' = s.queue i' := rfl
@[simp] theorem Dev.setMb_chan_get (i : Nat) (x : Mailbox) (i' : Nat) : (s.setMb i x).chan i' = s.chan i' := rfl
@[simp] theorem Dev.setMb_duct_get (i : Nat) (x : Mailbox) (i' : Nat) : (s.setMb i x).duct i' = s.duct i' := rfl
@[simp] theorem Dev.setMb_gate_get (i : Nat) (x : Mailbox) (i' : Nat) : (s.setMb i x).gate i' = s.gate i' := rfl
@[simp] theorem Dev.setMb_pk_get (i : Nat) (x : Mailbox) (j : Nat) : (s.setMb i x).pk j = s.pk j := rfl
@[simp] theorem Dev.setMb_pv_get (i : Nat) (x : Mailbox) (d j : Nat) : (s.setMb i x).pv d j = s.pv d j := rfl
@[simp] theorem Dev.setMb_ak_get (i : Nat) (x : Mailbox) (j : Nat) : (s.setMb i x).ak j = s.ak j := rfl

@[simp] theorem Dev.setEnc_mb_get (i : Nat) (x : Enc) (i' : Nat) : (s.setEnc i x).mb i' = s.mb i' := rfl
@[simp] theorem Dev.setEnc_axis_get (i : Nat) (x : Enc) (i' : Nat) : (s.setEnc i x).axis i' = s.axis i' := rfl
@[simp] theorem Dev.setEnc_trig_get (i : Nat) (x : Enc) (i' : Nat) : (s.setEnc i x).trig i' = s.trig i' := rfl
@[simp] theorem Dev.setEnc_fin_get (i : Nat) (x : Enc) (i' : Nat) : (s.setEnc i x).fin i' = s.fin i' := rfl
@[simp] theorem Dev.setEnc_fout_get (i : Nat) (x : Enc) (i' : Nat) : (s.setEnc i x).fout i' = s.fout i' := rfl
@[simp] theorem Dev.setEnc_lane_get (i : Nat) (x : Enc) (i' : Nat) : (s.setEnc i x).lane i' = s.lane i' := rfl
@[simp] theorem Dev.setEnc_head_get (i : Nat) (x : Enc) (i' : Nat) : (s.setEnc i x).head i' = s.head i' := rfl
@[simp] theorem Dev.setEnc_stream_get (i : Nat) (x : Enc) (i' : Nat) : (s.setEnc i x).stream i' = s.stream i' := rfl
@[simp] theorem Dev.setEnc_tap_get (i : Nat) (x : Enc) (i' : Nat) : (s.setEnc i x).tap i' = s.tap i' := rfl
@[simp] theorem Dev.setEnc_nib_get (i : Nat) (x : Enc) (i' : Nat) : (s.setEnc i x).nib i' = s.nib i' := rfl
@[simp] theorem Dev.setEnc_slot_get (i : Nat) (x : Enc) (i' : Nat) : (s.setEnc i x).slot i' = s.slot i' := rfl
@[simp] theorem Dev.setEnc_seqn_get (i : Nat) (x : Enc) (i' : Nat) : (s.setEnc i x).seqn i' = s.seqn i' := rfl
@[simp] theorem Dev.setEnc_web_get (i : Nat) (x : Enc) (i' : Nat) : (s.setEnc i x).web i' = s.web i' := rfl
@[simp] theorem Dev.setEnc_queue_get (i : Nat) (x : Enc) (i' : Nat) : (s.setEnc i x).queue i' = s.queue i' := rfl
@[simp] theorem Dev.setEnc_chan_get (i : Nat) (x : Enc) (i' : Nat) : (s.setEnc i x).chan i' = s.chan i' := rfl
@[simp] theorem Dev.setEnc_duct_get (i : Nat) (x : Enc) (i' : Nat) : (s.setEnc i x).duct i' = s.duct i' := rfl
@[simp] theorem Dev.setEnc_gate_get (i : Nat) (x : Enc) (i' : Nat) : (s.setEnc i x).gate i' = s.gate i' := rfl
@[simp] theorem Dev.setEnc_pk_get (i : Nat) (x : Enc) (j : Nat) : (s.setEnc i x).pk j = s.pk j := rfl
@[simp] theorem Dev.setEnc_pv_get (i : Nat) (x : Enc) (d j : Nat) : (s.setEnc i x).pv d j = s.pv d j := rfl
@[simp] theorem Dev.setEnc_ak_get (i : Nat) (x : Enc) (j : Nat) : (s.setEnc i x).ak j = s.ak j := rfl

@[simp] theorem Dev.setAxis_mb_get (i : Nat) (x : Axis) (i' : Nat) : (s.setAxis i x).mb i' = s.mb i' := rfl
@[simp] theorem Dev.setAxis_enc_get (i : Nat) (x : Axis) (i' : Nat) : (s.setAxis i x).enc i' = s.enc i' := rfl
@[simp] theorem Dev.setAxis_trig_get (i : Nat) (x : Axis) (i' : Nat) : (s.setAxis i x).trig i' = s.trig i' := rfl
@[simp] theorem Dev.setAxis_fin_get (i : Nat) (x : Axis) (i' : Nat) : (s.setAxis i x).fin i' = s.fin i' := rfl
@[simp] theorem Dev.setAxis_fout_get (i : Nat) (x : Axis) (i' : Nat) : (s.setAxis i x).fout i' = s.fout i' := rfl
@[simp] theorem Dev.setAxis_lane_get (i : Nat) (x : Axis) (i' : Nat) : (s.setAxis i x).lane i' = s.lane i' := rfl
@[simp] theorem Dev.setAxis_head_get (i : Nat) (x : Axis) (i' : Nat) : (s.setAxis i x).head i' = s.head i' := rfl
@[simp] theorem Dev.setAxis_stream_get (i : Nat) (x : Axis) (i' : Nat) : (s.setAxis i x).stream i' = s.stream i' := rfl
@[simp] theorem Dev.setAxis_tap_get (i : Nat) (x : Axis) (i' : Nat) : (s.setAxis i x).tap i' = s.tap i' := rfl
@[simp] theorem Dev.setAxis_nib_get (i : Nat) (x : Axis) (i' : Nat) : (s.setAxis i x).nib i' = s.nib i' := rfl
@[simp] theorem Dev.setAxis_slot_get (i : Nat) (x : Axis) (i' : Nat) : (s.setAxis i x).slot i' = s.slot i' := rfl
@[simp] theorem Dev.setAxis_seqn_get (i : Nat) (x : Axis) (i' : Nat) : (s.setAxis i x).seqn i' = s.seqn i' := rfl
@[simp] theorem Dev.setAxis_web_get (i : Nat) (x : Axis) (i' : Nat) : (s.setAxis i x).web i' = s.web i' := rfl
@[simp] theorem Dev.setAxis_queue_get (i : Nat) (x : Axis) (i' : Nat) : (s.setAxis i x).queue i' = s.queue i' := rfl
@[simp] theorem Dev.setAxis_chan_get (i : Nat) (x : Axis) (i' : Nat) : (s.setAxis i x).chan i' = s.chan i' := rfl
@[simp] theorem Dev.setAxis_duct_get (i : Nat) (x : Axis) (i' : Nat) : (s.setAxis i x).duct i' = s.duct i' := rfl
@[simp] theorem Dev.setAxis_gate_get (i : Nat) (x : Axis) (i' : Nat) : (s.setAxis i x).gate i' = s.gate i' := rfl
@[simp] theorem Dev.setAxis_pk_get (i : Nat) (x : Axis) (j : Nat) : (s.setAxis i x).pk j = s.pk j := rfl
@[simp] theorem Dev.setAxis_pv_get (i : Nat) (x : Axis) (d j : Nat) : (s.setAxis i x).pv d j = s.pv d j := rfl
@[simp] theorem Dev.setAxis_ak_get (i : Nat) (x : Axis) (j : Nat) : (s.setAxis i x).ak j = s.ak j := rfl

@[simp] theorem Dev.setTrig_mb_get (i : Nat) (x : Trig) (i' : Nat) : (s.setTrig i x).mb i' = s.mb i' := rfl
@[simp] theorem Dev.setTrig_enc_get (i : Nat) (x : Trig) (i' : Nat) : (s.setTrig i x).enc i' = s.enc i' := rfl
@[simp] theorem Dev.setTrig_axis_get (i : Nat) (x : Trig) (i' : Nat) : (s.setTrig i x).axis i' = s.axis i' := rfl
@[simp] theorem Dev.setTrig_fin_get (i : Nat) (x : Trig) (i' : Nat) : (s.setTrig i x).fin i' = s.fin i' := rfl
@[simp] theorem Dev.setTrig_fout_get (i : Nat) (x : Trig) (i' : Nat) : (s.setTrig i x).fout i' = s.fout i' := rfl
@[simp] theorem Dev.setTrig_lane_get (i : Nat) (x : Trig) (i' : Nat) : (s.setTrig i x).lane i' = s.lane i' := rfl
@[simp] theorem Dev.setTrig_head_get (i : Nat) (x : Trig) (i' : Nat) : (s.setTrig i x).head i' = s.head i' := rfl
@[simp] theorem Dev.setTrig_stream_get (i : Nat) (x : Trig) (i' : Nat) : (s.setTrig i x).stream i' = s.stream i' := rfl
@[simp] theorem Dev.setTrig_tap_get (i : Nat) (x : Trig) (i' : Nat) : (s.setTrig i x).tap i' = s.tap i' := rfl
@[simp] theorem Dev.setTrig_nib_get (i : Nat) (x : Trig) (i' : Nat) : (s.setTrig i x).nib i' = s.nib i' := rfl
@[simp] theorem Dev.setTrig_slot_get (i : Nat) (x : Trig) (i' : Nat) : (s.setTrig i x).slot i' = s.slot i' := rfl
@[simp] theorem Dev.setTrig_seqn_get (i : Nat) (x : Trig) (i' : Nat) : (s.setTrig i x).seqn i' = s.seqn i' := rfl
@[simp] theorem Dev.setTrig_web_get (i : Nat) (x : Trig) (i' : Nat) : (s.setTrig i x).web i' = s.web i' := rfl
@[simp] theorem Dev.setTrig_queue_get (i : Nat) (x : Trig) (i' : Nat) : (s.setTrig i x).queue i' = s.queue i' := rfl
@[simp] theorem Dev.setTrig_chan_get (i : Nat) (x : Trig) (i' : Nat) : (s.setTrig i x).chan i' = s.chan i' := rfl
@[simp] theorem Dev.setTrig_duct_get (i : Nat) (x : Trig) (i' : Nat) : (s.setTrig i x).duct i' = s.duct i' := rfl
@[simp] theorem Dev.setTrig_gate_get (i : Nat) (x : Trig) (i' : Nat) : (s.setTrig i x).gate i' = s.gate i' := rfl
@[simp] theorem Dev.setTrig_pk_get (i : Nat) (x : Trig) (j : Nat) : (s.setTrig i x).pk j = s.pk j := rfl
@[simp] theorem Dev.setTrig_pv_get (i : Nat) (x : Trig) (d j : Nat) : (s.setTrig i x).pv d j = s.pv d j := rfl
@[simp] theorem Dev.setTrig_ak_get (i : Nat) (x : Trig) (j : Nat) : (s.setTrig i x).ak j = s.ak j := rfl

@[simp] theorem Dev.setFin_mb_get (i : Nat) (x : FieldIn) (i' : Nat) : (s.setFin i x).mb i' = s.mb i' := rfl
@[simp] theorem Dev.setFin_enc_get (i : Nat) (x : FieldIn) (i' : Nat) : (s.setFin i x).enc i' = s.enc i' := rfl
@[simp] theorem Dev.setFin_axis_get (i : Nat) (x : FieldIn) (i' : Nat) : (s.setFin i x).axis i' = s.axis i' := rfl
@[simp] theorem Dev.setFin_trig_get (i : Nat) (x : FieldIn) (i' : Nat) : (s.setFin i x).trig i' = s.trig i' := rfl
@[simp] theorem Dev.setFin_fout_get (i : Nat) (x : FieldIn) (i' : Nat) : (s.setFin i x).fout i' = s.fout i' := rfl
@[simp] theorem Dev.setFin_lane_get (i : Nat) (x : FieldIn) (i' : Nat) : (s.setFin i x).lane i' = s.lane i' := rfl
@[simp] theorem Dev.setFin_head_get (i : Nat) (x : FieldIn) (i' : Nat) : (s.setFin i x).head i' = s.head i' := rfl
@[simp] theorem Dev.setFin_stream_get (i : Nat) (x : FieldIn) (i' : Nat) : (s.setFin i x).stream i' = s.stream i' := rfl
@[simp] theorem Dev.setFin_tap_get (i : Nat) (x : FieldIn) (i' : Nat) : (s.setFin i x).tap i' = s.tap i' := rfl
@[simp] theorem Dev.setFin_nib_get (i : Nat) (x : FieldIn) (i' : Nat) : (s.setFin i x).nib i' = s.nib i' := rfl
@[simp] theorem Dev.setFin_slot_get (i : Nat) (x : FieldIn) (i' : Nat) : (s.setFin i x).slot i' = s.slot i' := rfl
@[simp] theorem Dev.setFin_seqn_get (i : Nat) (x : FieldIn) (i' : Nat) : (s.setFin i x).seqn i' = s.seqn i' := rfl
@[simp] theorem Dev.setFin_web_get (i : Nat) (x : FieldIn) (i' : Nat) : (s.setFin i x).web i' = s.web i' := rfl
@[simp] theorem Dev.setFin_queue_get (i : Nat) (x : FieldIn) (i' : Nat) : (s.setFin i x).queue i' = s.queue i' := rfl
@[simp] theorem Dev.setFin_chan_get (i : Nat) (x : FieldIn) (i' : Nat) : (s.setFin i x).chan i' = s.chan i' := rfl
@[simp] theorem Dev.setFin_duct_get (i : Nat) (x : FieldIn) (i' : Nat) : (s.setFin i x).duct i' = s.duct i' := rfl
@[simp] theorem Dev.setFin_gate_get (i : Nat) (x : FieldIn) (i' : Nat) : (s.setFin i x).gate i' = s.gate i' := rfl
@[simp] theorem Dev.setFin_pk_get (i : Nat) (x : FieldIn) (j : Nat) : (s.setFin i x).pk j = s.pk j := rfl
@[simp] theorem Dev.setFin_pv_get (i : Nat) (x : FieldIn) (d j : Nat) : (s.setFin i x).pv d j = s.pv d j := rfl
@[simp] theorem Dev.setFin_ak_get (i : Nat) (x : FieldIn) (j : Nat) : (s.setFin i x).ak j = s.ak j := rfl

@[simp] theorem Dev.setFout_mb_get (i : Nat) (x : FieldOut) (i' : Nat) : (s.setFout i x).mb i' = s.mb i' := rfl
@[simp] theorem Dev.setFout_enc_get (i : Nat) (x : FieldOut) (i' : Nat) : (s.setFout i x).enc i' = s.enc i' := rfl
@[simp] theorem Dev.setFout_axis_get (i : Nat) (x : FieldOut) (i' : Nat) : (s.setFout i x).axis i' = s.axis i' := rfl
@[simp] theorem Dev.setFout_trig_get (i : Nat) (x : FieldOut) (i' : Nat) : (s.setFout i x).trig i' = s.trig i' := rfl
@[simp] theorem Dev.setFout_fin_get (i : Nat) (x : FieldOut) (i' : Nat) : (s.setFout i x).fin i' = s.fin i' := rfl
@[simp] theorem Dev.setFout_lane_get (i : Nat) (x : FieldOut) (i' : Nat) : (s.setFout i x).lane i' = s.lane i' := rfl
@[simp] theorem Dev.setFout_head_get (i : Nat) (x : FieldOut) (i' : Nat) : (s.setFout i x).head i' = s.head i' := rfl
@[simp] theorem Dev.setFout_stream_get (i : Nat) (x : FieldOut) (i' : Nat) : (s.setFout i x).stream i' = s.stream i' := rfl
@[simp] theorem Dev.setFout_tap_get (i : Nat) (x : FieldOut) (i' : Nat) : (s.setFout i x).tap i' = s.tap i' := rfl
@[simp] theorem Dev.setFout_nib_get (i : Nat) (x : FieldOut) (i' : Nat) : (s.setFout i x).nib i' = s.nib i' := rfl
@[simp] theorem Dev.setFout_slot_get (i : Nat) (x : FieldOut) (i' : Nat) : (s.setFout i x).slot i' = s.slot i' := rfl
@[simp] theorem Dev.setFout_seqn_get (i : Nat) (x : FieldOut) (i' : Nat) : (s.setFout i x).seqn i' = s.seqn i' := rfl
@[simp] theorem Dev.setFout_web_get (i : Nat) (x : FieldOut) (i' : Nat) : (s.setFout i x).web i' = s.web i' := rfl
@[simp] theorem Dev.setFout_queue_get (i : Nat) (x : FieldOut) (i' : Nat) : (s.setFout i x).queue i' = s.queue i' := rfl
@[simp] theorem Dev.setFout_chan_get (i : Nat) (x : FieldOut) (i' : Nat) : (s.setFout i x).chan i' = s.chan i' := rfl
@[simp] theorem Dev.setFout_duct_get (i : Nat) (x : FieldOut) (i' : Nat) : (s.setFout i x).duct i' = s.duct i' := rfl
@[simp] theorem Dev.setFout_gate_get (i : Nat) (x : FieldOut) (i' : Nat) : (s.setFout i x).gate i' = s.gate i' := rfl
@[simp] theorem Dev.setFout_pk_get (i : Nat) (x : FieldOut) (j : Nat) : (s.setFout i x).pk j = s.pk j := rfl
@[simp] theorem Dev.setFout_pv_get (i : Nat) (x : FieldOut) (d j : Nat) : (s.setFout i x).pv d j = s.pv d j := rfl
@[simp] theorem Dev.setFout_ak_get (i : Nat) (x : FieldOut) (j : Nat) : (s.setFout i x).ak j = s.ak j := rfl

@[simp] theorem Dev.setLane_mb_get (i : Nat) (x : Lane) (i' : Nat) : (s.setLane i x).mb i' = s.mb i' := rfl
@[simp] theorem Dev.setLane_enc_get (i : Nat) (x : Lane) (i' : Nat) : (s.setLane i x).enc i' = s.enc i' := rfl
@[simp] theorem Dev.setLane_axis_get (i : Nat) (x : Lane) (i' : Nat) : (s.setLane i x).axis i' = s.axis i' := rfl
@[simp] theorem Dev.setLane_trig_get (i : Nat) (x : Lane) (i' : Nat) : (s.setLane i x).trig i' = s.trig i' := rfl
@[simp] theorem Dev.setLane_fin_get (i : Nat) (x : Lane) (i' : Nat) : (s.setLane i x).fin i' = s.fin i' := rfl
@[simp] theorem Dev.setLane_fout_get (i : Nat) (x : Lane) (i' : Nat) : (s.setLane i x).fout i' = s.fout i' := rfl
@[simp] theorem Dev.setLane_head_get (i : Nat) (x : Lane) (i' : Nat) : (s.setLane i x).head i' = s.head i' := rfl
@[simp] theorem Dev.setLane_stream_get (i : Nat) (x : Lane) (i' : Nat) : (s.setLane i x).stream i' = s.stream i' := rfl
@[simp] theorem Dev.setLane_tap_get (i : Nat) (x : Lane) (i' : Nat) : (s.setLane i x).tap i' = s.tap i' := rfl
@[simp] theorem Dev.setLane_nib_get (i : Nat) (x : Lane) (i' : Nat) : (s.setLane i x).nib i' = s.nib i' := rfl
@[simp] theorem Dev.setLane_slot_get (i : Nat) (x : Lane) (i' : Nat) : (s.setLane i x).slot i' = s.slot i' := rfl
@[simp] theorem Dev.setLane_seqn_get (i : Nat) (x : Lane) (i' : Nat) : (s.setLane i x).seqn i' = s.seqn i' := rfl
@[simp] theorem Dev.setLane_web_get (i : Nat) (x : Lane) (i' : Nat) : (s.setLane i x).web i' = s.web i' := rfl
@[simp] theorem Dev.setLane_queue_get (i : Nat) (x : Lane) (i' : Nat) : (s.setLane i x).queue i' = s.queue i' := rfl
@[simp] theorem Dev.setLane_chan_get (i : Nat) (x : Lane) (i' : Nat) : (s.setLane i x).chan i' = s.chan i' := rfl
@[simp] theorem Dev.setLane_duct_get (i : Nat) (x : Lane) (i' : Nat) : (s.setLane i x).duct i' = s.duct i' := rfl
@[simp] theorem Dev.setLane_gate_get (i : Nat) (x : Lane) (i' : Nat) : (s.setLane i x).gate i' = s.gate i' := rfl
@[simp] theorem Dev.setLane_pk_get (i : Nat) (x : Lane) (j : Nat) : (s.setLane i x).pk j = s.pk j := rfl
@[simp] theorem Dev.setLane_pv_get (i : Nat) (x : Lane) (d j : Nat) : (s.setLane i x).pv d j = s.pv d j := rfl
@[simp] theorem Dev.setLane_ak_get (i : Nat) (x : Lane) (j : Nat) : (s.setLane i x).ak j = s.ak j := rfl

@[simp] theorem Dev.setHead_mb_get (i : Nat) (x : Head) (i' : Nat) : (s.setHead i x).mb i' = s.mb i' := rfl
@[simp] theorem Dev.setHead_enc_get (i : Nat) (x : Head) (i' : Nat) : (s.setHead i x).enc i' = s.enc i' := rfl
@[simp] theorem Dev.setHead_axis_get (i : Nat) (x : Head) (i' : Nat) : (s.setHead i x).axis i' = s.axis i' := rfl
@[simp] theorem Dev.setHead_trig_get (i : Nat) (x : Head) (i' : Nat) : (s.setHead i x).trig i' = s.trig i' := rfl
@[simp] theorem Dev.setHead_fin_get (i : Nat) (x : Head) (i' : Nat) : (s.setHead i x).fin i' = s.fin i' := rfl
@[simp] theorem Dev.setHead_fout_get (i : Nat) (x : Head) (i' : Nat) : (s.setHead i x).fout i' = s.fout i' := rfl
@[simp] theorem Dev.setHead_lane_get (i : Nat) (x : Head) (i' : Nat) : (s.setHead i x).lane i' = s.lane i' := rfl
@[simp] theorem Dev.setHead_stream_get (i : Nat) (x : Head) (i' : Nat) : (s.setHead i x).stream i' = s.stream i' := rfl
@[simp] theorem Dev.setHead_tap_get (i : Nat) (x : Head) (i' : Nat) : (s.setHead i x).tap i' = s.tap i' := rfl
@[simp] theorem Dev.setHead_nib_get (i : Nat) (x : Head) (i' : Nat) : (s.setHead i x).nib i' = s.nib i' := rfl
@[simp] theorem Dev.setHead_slot_get (i : Nat) (x : Head) (i' : Nat) : (s.setHead i x).slot i' = s.slot i' := rfl
@[simp] theorem Dev.setHead_seqn_get (i : Nat) (x : Head) (i' : Nat) : (s.setHead i x).seqn i' = s.seqn i' := rfl
@[simp] theorem Dev.setHead_web_get (i : Nat) (x : Head) (i' : Nat) : (s.setHead i x).web i' = s.web i' := rfl
@[simp] theorem Dev.setHead_queue_get (i : Nat) (x : Head) (i' : Nat) : (s.setHead i x).queue i' = s.queue i' := rfl
@[simp] theorem Dev.setHead_chan_get (i : Nat) (x : Head) (i' : Nat) : (s.setHead i x).chan i' = s.chan i' := rfl
@[simp] theorem Dev.setHead_duct_get (i : Nat) (x : Head) (i' : Nat) : (s.setHead i x).duct i' = s.duct i' := rfl
@[simp] theorem Dev.setHead_gate_get (i : Nat) (x : Head) (i' : Nat) : (s.setHead i x).gate i' = s.gate i' := rfl
@[simp] theorem Dev.setHead_pk_get (i : Nat) (x : Head) (j : Nat) : (s.setHead i x).pk j = s.pk j := rfl
@[simp] theorem Dev.setHead_pv_get (i : Nat) (x : Head) (d j : Nat) : (s.setHead i x).pv d j = s.pv d j := rfl
@[simp] theorem Dev.setHead_ak_get (i : Nat) (x : Head) (j : Nat) : (s.setHead i x).ak j = s.ak j := rfl

@[simp] theorem Dev.setStream_mb_get (i : Nat) (x : Stream) (i' : Nat) : (s.setStream i x).mb i' = s.mb i' := rfl
@[simp] theorem Dev.setStream_enc_get (i : Nat) (x : Stream) (i' : Nat) : (s.setStream i x).enc i' = s.enc i' := rfl
@[simp] theorem Dev.setStream_axis_get (i : Nat) (x : Stream) (i' : Nat) : (s.setStream i x).axis i' = s.axis i' := rfl
@[simp] theorem Dev.setStream_trig_get (i : Nat) (x : Stream) (i' : Nat) : (s.setStream i x).trig i' = s.trig i' := rfl
@[simp] theorem Dev.setStream_fin_get (i : Nat) (x : Stream) (i' : Nat) : (s.setStream i x).fin i' = s.fin i' := rfl
@[simp] theorem Dev.setStream_fout_get (i : Nat) (x : Stream) (i' : Nat) : (s.setStream i x).fout i' = s.fout i' := rfl
@[simp] theorem Dev.setStream_lane_get (i : Nat) (x : Stream) (i' : Nat) : (s.setStream i x).lane i' = s.lane i' := rfl
@[simp] theorem Dev.setStream_head_get (i : Nat) (x : Stream) (i' : Nat) : (s.setStream i x).head i' = s.head i' := rfl
@[simp] theorem Dev.setStream_tap_get (i : Nat) (x : Stream) (i' : Nat) : (s.setStream i x).tap i' = s.tap i' := rfl
@[simp] theorem Dev.setStream_nib_get (i : Nat) (x : Stream) (i' : Nat) : (s.setStream i x).nib i' = s.nib i' := rfl
@[simp] theorem Dev.setStream_slot_get (i : Nat) (x : Stream) (i' : Nat) : (s.setStream i x).slot i' = s.slot i' := rfl
@[simp] theorem Dev.setStream_seqn_get (i : Nat) (x : Stream) (i' : Nat) : (s.setStream i x).seqn i' = s.seqn i' := rfl
@[simp] theorem Dev.setStream_web_get (i : Nat) (x : Stream) (i' : Nat) : (s.setStream i x).web i' = s.web i' := rfl
@[simp] theorem Dev.setStream_queue_get (i : Nat) (x : Stream) (i' : Nat) : (s.setStream i x).queue i' = s.queue i' := rfl
@[simp] theorem Dev.setStream_chan_get (i : Nat) (x : Stream) (i' : Nat) : (s.setStream i x).chan i' = s.chan i' := rfl
@[simp] theorem Dev.setStream_duct_get (i : Nat) (x : Stream) (i' : Nat) : (s.setStream i x).duct i' = s.duct i' := rfl
@[simp] theorem Dev.setStream_gate_get (i : Nat) (x : Stream) (i' : Nat) : (s.setStream i x).gate i' = s.gate i' := rfl
@[simp] theorem Dev.setStream_pk_get (i : Nat) (x : Stream) (j : Nat) : (s.setStream i x).pk j = s.pk j := rfl
@[simp] theorem Dev.setStream_pv_get (i : Nat) (x : Stream) (d j : Nat) : (s.setStream i x).pv d j = s.pv d j := rfl
@[simp] theorem Dev.setStream_ak_get (i : Nat) (x : Stream) (j : Nat) : (s.setStream i x).ak j = s.ak j := rfl

@[simp] theorem Dev.setTap_mb_get (i : Nat) (x : Tap) (i' : Nat) : (s.setTap i x).mb i' = s.mb i' := rfl
@[simp] theorem Dev.setTap_enc_get (i : Nat) (x : Tap) (i' : Nat) : (s.setTap i x).enc i' = s.enc i' := rfl
@[simp] theorem Dev.setTap_axis_get (i : Nat) (x : Tap) (i' : Nat) : (s.setTap i x).axis i' = s.axis i' := rfl
@[simp] theorem Dev.setTap_trig_get (i : Nat) (x : Tap) (i' : Nat) : (s.setTap i x).trig i' = s.trig i' := rfl
@[simp] theorem Dev.setTap_fin_get (i : Nat) (x : Tap) (i' : Nat) : (s.setTap i x).fin i' = s.fin i' := rfl
@[simp] theorem Dev.setTap_fout_get (i : Nat) (x : Tap) (i' : Nat) : (s.setTap i x).fout i' = s.fout i' := rfl
@[simp] theorem Dev.setTap_lane_get (i : Nat) (x : Tap) (i' : Nat) : (s.setTap i x).lane i' = s.lane i' := rfl
@[simp] theorem Dev.setTap_head_get (i : Nat) (x : Tap) (i' : Nat) : (s.setTap i x).head i' = s.head i' := rfl
@[simp] theorem Dev.setTap_stream_get (i : Nat) (x : Tap) (i' : Nat) : (s.setTap i x).stream i' = s.stream i' := rfl
@[simp] theorem Dev.setTap_nib_get (i : Nat) (x : Tap) (i' : Nat) : (s.setTap i x).nib i' = s.nib i' := rfl
@[simp] theorem Dev.setTap_slot_get (i : Nat) (x : Tap) (i' : Nat) : (s.setTap i x).slot i' = s.slot i' := rfl
@[simp] theorem Dev.setTap_seqn_get (i : Nat) (x : Tap) (i' : Nat) : (s.setTap i x).seqn i' = s.seqn i' := rfl
@[simp] theorem Dev.setTap_web_get (i : Nat) (x : Tap) (i' : Nat) : (s.setTap i x).web i' = s.web i' := rfl
@[simp] theorem Dev.setTap_queue_get (i : Nat) (x : Tap) (i' : Nat) : (s.setTap i x).queue i' = s.queue i' := rfl
@[simp] theorem Dev.setTap_chan_get (i : Nat) (x : Tap) (i' : Nat) : (s.setTap i x).chan i' = s.chan i' := rfl
@[simp] theorem Dev.setTap_duct_get (i : Nat) (x : Tap) (i' : Nat) : (s.setTap i x).duct i' = s.duct i' := rfl
@[simp] theorem Dev.setTap_gate_get (i : Nat) (x : Tap) (i' : Nat) : (s.setTap i x).gate i' = s.gate i' := rfl
@[simp] theorem Dev.setTap_pk_get (i : Nat) (x : Tap) (j : Nat) : (s.setTap i x).pk j = s.pk j := rfl
@[simp] theorem Dev.setTap_pv_get (i : Nat) (x : Tap) (d j : Nat) : (s.setTap i x).pv d j = s.pv d j := rfl
@[simp] theorem Dev.setTap_ak_get (i : Nat) (x : Tap) (j : Nat) : (s.setTap i x).ak j = s.ak j := rfl

@[simp] theorem Dev.setNib_mb_get (i : Nat) (x : Nib) (i' : Nat) : (s.setNib i x).mb i' = s.mb i' := rfl
@[simp] theorem Dev.setNib_enc_get (i : Nat) (x : Nib) (i' : Nat) : (s.setNib i x).enc i' = s.enc i' := rfl
@[simp] theorem Dev.setNib_axis_get (i : Nat) (x : Nib) (i' : Nat) : (s.setNib i x).axis i' = s.axis i' := rfl
@[simp] theorem Dev.setNib_trig_get (i : Nat) (x : Nib) (i' : Nat) : (s.setNib i x).trig i' = s.trig i' := rfl
@[simp] theorem Dev.setNib_fin_get (i : Nat) (x : Nib) (i' : Nat) : (s.setNib i x).fin i' = s.fin i' := rfl
@[simp] theorem Dev.setNib_fout_get (i : Nat) (x : Nib) (i' : Nat) : (s.setNib i x).fout i' = s.fout i' := rfl
@[simp] theorem Dev.setNib_lane_get (i : Nat) (x : Nib) (i' : Nat) : (s.setNib i x).lane i' = s.lane i' := rfl
@[simp] theorem Dev.setNib_head_get (i : Nat) (x : Nib) (i' : Nat) : (s.setNib i x).head i' = s.head i' := rfl
@[simp] theorem Dev.setNib_stream_get (i : Nat) (x : Nib) (i' : Nat) : (s.setNib i x).stream i' = s.stream i' := rfl
@[simp] theorem Dev.setNib_tap_get (i : Nat) (x : Nib) (i' : Nat) : (s.setNib i x).tap i' = s.tap i' := rfl
@[simp] theorem Dev.setNib_slot_get (i : Nat) (x : Nib) (i' : Nat) : (s.setNib i x).slot i' = s.slot i' := rfl
@[simp] theorem Dev.setNib_seqn_get (i : Nat) (x : Nib) (i' : Nat) : (s.setNib i x).seqn i' = s.seqn i' := rfl
@[simp] theorem Dev.setNib_web_get (i : Nat) (x : Nib) (i' : Nat) : (s.setNib i x).web i' = s.web i' := rfl
@[simp] theorem Dev.setNib_queue_get (i : Nat) (x : Nib) (i' : Nat) : (s.setNib i x).queue i' = s.queue i' := rfl
@[simp] theorem Dev.setNib_chan_get (i : Nat) (x : Nib) (i' : Nat) : (s.setNib i x).chan i' = s.chan i' := rfl
@[simp] theorem Dev.setNib_duct_get (i : Nat) (x : Nib) (i' : Nat) : (s.setNib i x).duct i' = s.duct i' := rfl
@[simp] theorem Dev.setNib_gate_get (i : Nat) (x : Nib) (i' : Nat) : (s.setNib i x).gate i' = s.gate i' := rfl
@[simp] theorem Dev.setNib_pk_get (i : Nat) (x : Nib) (j : Nat) : (s.setNib i x).pk j = s.pk j := rfl
@[simp] theorem Dev.setNib_pv_get (i : Nat) (x : Nib) (d j : Nat) : (s.setNib i x).pv d j = s.pv d j := rfl
@[simp] theorem Dev.setNib_ak_get (i : Nat) (x : Nib) (j : Nat) : (s.setNib i x).ak j = s.ak j := rfl

@[simp] theorem Dev.setSlot_mb_get (i : Nat) (x : Slot) (i' : Nat) : (s.setSlot i x).mb i' = s.mb i' := rfl
@[simp] theorem Dev.setSlot_enc_get (i : Nat) (x : Slot) (i' : Nat) : (s.setSlot i x).enc i' = s.enc i' := rfl
@[simp] theorem Dev.setSlot_axis_get (i : Nat) (x : Slot) (i' : Nat) : (s.setSlot i x).axis i' = s.axis i' := rfl
@[simp] theorem Dev.setSlot_trig_get (i : Nat) (x : Slot) (i' : Nat) : (s.setSlot i x).trig i' = s.trig i' := rfl
@[simp] theorem Dev.setSlot_fin_get (i : Nat) (x : Slot) (i' : Nat) : (s.setSlot i x).fin i' = s.fin i' := rfl
@[simp] theorem Dev.setSlot_fout_get (i : Nat) (x : Slot) (i' : Nat) : (s.setSlot i x).fout i' = s.fout i' := rfl
@[simp] theorem Dev.setSlot_lane_get (i : Nat) (x : Slot) (i' : Nat) : (s.setSlot i x).lane i' = s.lane i' := rfl
@[simp] theorem Dev.setSlot_head_get (i : Nat) (x : Slot) (i' : Nat) : (s.setSlot i x).head i' = s.head i' := rfl
@[simp] theorem Dev.setSlot_stream_get (i : Nat) (x : Slot) (i' : Nat) : (s.setSlot i x).stream i' = s.stream i' := rfl
@[simp] theorem Dev.setSlot_tap_get (i : Nat) (x : Slot) (i' : Nat) : (s.setSlot i x).tap i' = s.tap i' := rfl
@[simp] theorem Dev.setSlot_nib_get (i : Nat) (x : Slot) (i' : Nat) : (s.setSlot i x).nib i' = s.nib i' := rfl
@[simp] theorem Dev.setSlot_seqn_get (i : Nat) (x : Slot) (i' : Nat) : (s.setSlot i x).seqn i' = s.seqn i' := rfl
@[simp] theorem Dev.setSlot_web_get (i : Nat) (x : Slot) (i' : Nat) : (s.setSlot i x).web i' = s.web i' := rfl
@[simp] theorem Dev.setSlot_queue_get (i : Nat) (x : Slot) (i' : Nat) : (s.setSlot i x).queue i' = s.queue i' := rfl
@[simp] theorem Dev.setSlot_chan_get (i : Nat) (x : Slot) (i' : Nat) : (s.setSlot i x).chan i' = s.chan i' := rfl
@[simp] theorem Dev.setSlot_duct_get (i : Nat) (x : Slot) (i' : Nat) : (s.setSlot i x).duct i' = s.duct i' := rfl
@[simp] theorem Dev.setSlot_gate_get (i : Nat) (x : Slot) (i' : Nat) : (s.setSlot i x).gate i' = s.gate i' := rfl
@[simp] theorem Dev.setSlot_pk_get (i : Nat) (x : Slot) (j : Nat) : (s.setSlot i x).pk j = s.pk j := rfl
@[simp] theorem Dev.setSlot_pv_get (i : Nat) (x : Slot) (d j : Nat) : (s.setSlot i x).pv d j = s.pv d j := rfl
@[simp] theorem Dev.setSlot_ak_get (i : Nat) (x : Slot) (j : Nat) : (s.setSlot i x).ak j = s.ak j := rfl

@[simp] theorem Dev.setSeqn_mb_get (i : Nat) (x : Seqn) (i' : Nat) : (s.setSeqn i x).mb i' = s.mb i' := rfl
@[simp] theorem Dev.setSeqn_enc_get (i : Nat) (x : Seqn) (i' : Nat) : (s.setSeqn i x).enc i' = s.enc i' := rfl
@[simp] theorem Dev.setSeqn_axis_get (i : Nat) (x : Seqn) (i' : Nat) : (s.setSeqn i x).axis i' = s.axis i' := rfl
@[simp] theorem Dev.setSeqn_trig_get (i : Nat) (x : Seqn) (i' : Nat) : (s.setSeqn i x).trig i' = s.trig i' := rfl
@[simp] theorem Dev.setSeqn_fin_get (i : Nat) (x : Seqn) (i' : Nat) : (s.setSeqn i x).fin i' = s.fin i' := rfl
@[simp] theorem Dev.setSeqn_fout_get (i : Nat) (x : Seqn) (i' : Nat) : (s.setSeqn i x).fout i' = s.fout i' := rfl
@[simp] theorem Dev.setSeqn_lane_get (i : Nat) (x : Seqn) (i' : Nat) : (s.setSeqn i x).lane i' = s.lane i' := rfl
@[simp] theorem Dev.setSeqn_head_get (i : Nat) (x : Seqn) (i' : Nat) : (s.setSeqn i x).head i' = s.head i' := rfl
@[simp] theorem Dev.setSeqn_stream_get (i : Nat) (x : Seqn) (i' : Nat) : (s.setSeqn i x).stream i' = s.stream i' := rfl
@[simp] theorem Dev.setSeqn_tap_get (i : Nat) (x : Seqn) (i' : Nat) : (s.setSeqn i x).tap i' = s.tap i' := rfl
@[simp] theorem Dev.setSeqn_nib_get (i : Nat) (x : Seqn) (i' : Nat) : (s.setSeqn i x).nib i' = s.nib i' := rfl
@[simp] theorem Dev.setSeqn_slot_get (i : Nat) (x : Seqn) (i' : Nat) : (s.setSeqn i x).slot i' = s.slot i' := rfl
@[simp] theorem Dev.setSeqn_web_get (i : Nat) (x : Seqn) (i' : Nat) : (s.setSeqn i x).web i' = s.web i' := rfl
@[simp] theorem Dev.setSeqn_queue_get (i : Nat) (x : Seqn) (i' : Nat) : (s.setSeqn i x).queue i' = s.queue i' := rfl
@[simp] theorem Dev.setSeqn_chan_get (i : Nat) (x : Seqn) (i' : Nat) : (s.setSeqn i x).chan i' = s.chan i' := rfl
@[simp] theorem Dev.setSeqn_duct_get (i : Nat) (x : Seqn) (i' : Nat) : (s.setSeqn i x).duct i' = s.duct i' := rfl
@[simp] theorem Dev.setSeqn_gate_get (i : Nat) (x : Seqn) (i' : Nat) : (s.setSeqn i x).gate i' = s.gate i' := rfl
@[simp] theorem Dev.setSeqn_pk_get (i : Nat) (x : Seqn) (j : Nat) : (s.setSeqn i x).pk j = s.pk j := rfl
@[simp] theorem Dev.setSeqn_pv_get (i : Nat) (x : Seqn) (d j : Nat) : (s.setSeqn i x).pv d j = s.pv d j := rfl
@[simp] theorem Dev.setSeqn_ak_get (i : Nat) (x : Seqn) (j : Nat) : (s.setSeqn i x).ak j = s.ak j := rfl

@[simp] theorem Dev.setWeb_mb_get (i : Nat) (x : Web) (i' : Nat) : (s.setWeb i x).mb i' = s.mb i' := rfl
@[simp] theorem Dev.setWeb_enc_get (i : Nat) (x : Web) (i' : Nat) : (s.setWeb i x).enc i' = s.enc i' := rfl
@[simp] theorem Dev.setWeb_axis_get (i : Nat) (x : Web) (i' : Nat) : (s.setWeb i x).axis i' = s.axis i' := rfl
@[simp] theorem Dev.setWeb_trig_get (i : Nat) (x : Web) (i' : Nat) : (s.setWeb i x).trig i' = s.trig i' := rfl
@[simp] theorem Dev.setWeb_fin_get (i : Nat) (x : Web) (i' : Nat) : (s.setWeb i x).fin i' = s.fin i' := rfl
@[simp] theorem Dev.setWeb_fout_get (i : Nat) (x : Web) (i' : Nat) : (s.setWeb i x).fout i' = s.fout i' := rfl
@[simp] theorem Dev.setWeb_lane_get (i : Nat) (x : Web) (i' : Nat) : (s.setWeb i x).lane i' = s.lane i' := rfl
@[simp] theorem Dev.setWeb_head_get (i : Nat) (x : Web) (i' : Nat) : (s.setWeb i x).head i' = s.head i' := rfl
@[simp] theorem Dev.setWeb_stream_get (i : Nat) (x : Web) (i' : Nat) : (s.setWeb i x).stream i' = s.stream i' := rfl
@[simp] theorem Dev.setWeb_tap_get (i : Nat) (x : Web) (i' : Nat) : (s.setWeb i x).tap i' = s.tap i' := rfl
@[simp] theorem Dev.setWeb_nib_get (i : Nat) (x : Web) (i' : Nat) : (s.setWeb i x).nib i' = s.nib i' := rfl
@[simp] theorem Dev.setWeb_slot_get (i : Nat) (x : Web) (i' : Nat) : (s.setWeb i x).slot i' = s.slot i' := rfl
@[simp] theorem Dev.setWeb_seqn_get (i : Nat) (x : Web) (i' : Nat) : (s.setWeb i x).seqn i' = s.seqn i' := rfl
@[simp] theorem Dev.setWeb_queue_get (i : Nat) (x : Web) (i' : Nat) : (s.setWeb i x).queue i' = s.queue i' := rfl
@[simp] theorem Dev.setWeb_chan_get (i : Nat) (x : Web) (i' : Nat) : (s.setWeb i x).chan i' = s.chan i' := rfl
@[simp] theorem Dev.setWeb_duct_get (i : Nat) (x : Web) (i' : Nat) : (s.setWeb i x).duct i' = s.duct i' := rfl
@[simp] theorem Dev.setWeb_gate_get (i : Nat) (x : Web) (i' : Nat) : (s.setWeb i x).gate i' = s.gate i' := rfl
@[simp] theorem Dev.setWeb_pk_get (i : Nat) (x : Web) (j : Nat) : (s.setWeb i x).pk j = s.pk j := rfl
@[simp] theorem Dev.setWeb_pv_get (i : Nat) (x : Web) (d j : Nat) : (s.setWeb i x).pv d j = s.pv d j := rfl
@[simp] theorem Dev.setWeb_ak_get (i : Nat) (x : Web) (j : Nat) : (s.setWeb i x).ak j = s.ak j := rfl

@[simp] theorem Dev.setQueue_mb_get (i : Nat) (x : Queue) (i' : Nat) : (s.setQueue i x).mb i' = s.mb i' := rfl
@[simp] theorem Dev.setQueue_enc_get (i : Nat) (x : Queue) (i' : Nat) : (s.setQueue i x).enc i' = s.enc i' := rfl
@[simp] theorem Dev.setQueue_axis_get (i : Nat) (x : Queue) (i' : Nat) : (s.setQueue i x).axis i' = s.axis i' := rfl
@[simp] theorem Dev.setQueue_trig_get (i : Nat) (x : Queue) (i' : Nat) : (s.setQueue i x).trig i' = s.trig i' := rfl
@[simp] theorem Dev.setQueue_fin_get (i : Nat) (x : Queue) (i' : Nat) : (s.setQueue i x).fin i' = s.fin i' := rfl
@[simp] theorem Dev.setQueue_fout_get (i : Nat) (x : Queue) (i' : Nat) : (s.setQueue i x).fout i' = s.fout i' := rfl
@[simp] theorem Dev.setQueue_lane_get (i : Nat) (x : Queue) (i' : Nat) : (s.setQueue i x).lane i' = s.lane i' := rfl
@[simp] theorem Dev.setQueue_head_get (i : Nat) (x : Queue) (i' : Nat) : (s.setQueue i x).head i' = s.head i' := rfl
@[simp] theorem Dev.setQueue_stream_get (i : Nat) (x : Queue) (i' : Nat) : (s.setQueue i x).stream i' = s.stream i' := rfl
@[simp] theorem Dev.setQueue_tap_get (i : Nat) (x : Queue) (i' : Nat) : (s.setQueue i x).tap i' = s.tap i' := rfl
@[simp] theorem Dev.setQueue_nib_get (i : Nat) (x : Queue) (i' : Nat) : (s.setQueue i x).nib i' = s.nib i' := rfl
@[simp] theorem Dev.setQueue_slot_get (i : Nat) (x : Queue) (i' : Nat) : (s.setQueue i x).slot i' = s.slot i' := rfl
@[simp] theorem Dev.setQueue_seqn_get (i : Nat) (x : Queue) (i' : Nat) : (s.setQueue i x).seqn i' = s.seqn i' := rfl
@[simp] theorem Dev.setQueue_web_get (i : Nat) (x : Queue) (i' : Nat) : (s.setQueue i x).web i' = s.web i' := rfl
@[simp] theorem Dev.setQueue_chan_get (i : Nat) (x : Queue) (i' : Nat) : (s.setQueue i x).chan i' = s.chan i' := rfl
@[simp] theorem Dev.setQueue_duct_get (i : Nat) (x : Queue) (i' : Nat) : (s.setQueue i x).duct i' = s.duct i' := rfl
@[simp] theorem Dev.setQueue_gate_get (i : Nat) (x : Queue) (i' : Nat) : (s.setQueue i x).gate i' = s.gate i' := rfl
@[simp] theorem Dev.setQueue_pk_get (i : Nat) (x : Queue) (j : Nat) : (s.setQueue i x).pk j = s.pk j := rfl
@[simp] theorem Dev.setQueue_pv_get (i : Nat) (x : Queue) (d j : Nat) : (s.setQueue i x).pv d j = s.pv d j := rfl
@[simp] theorem Dev.setQueue_ak_get (i : Nat) (x : Queue) (j : Nat) : (s.setQueue i x).ak j = s.ak j := rfl

@[simp] theorem Dev.setChan_mb_get (i : Nat) (x : Chan) (i' : Nat) : (s.setChan i x).mb i' = s.mb i' := rfl
@[simp] theorem Dev.setChan_enc_get (i : Nat) (x : Chan) (i' : Nat) : (s.setChan i x).enc i' = s.enc i' := rfl
@[simp] theorem Dev.setChan_axis_get (i : Nat) (x : Chan) (i' : Nat) : (s.setChan i x).axis i' = s.axis i' := rfl
@[simp] theorem Dev.setChan_trig_get (i : Nat) (x : Chan) (i' : Nat) : (s.setChan i x).trig i' = s.trig i' := rfl
@[simp] theorem Dev.setChan_fin_get (i : Nat) (x : Chan) (i' : Nat) : (s.setChan i x).fin i' = s.fin i' := rfl
@[simp] theorem Dev.setChan_fout_get (i : Nat) (x : Chan) (i' : Nat) : (s.setChan i x).fout i' = s.fout i' := rfl
@[simp] theorem Dev.setChan_lane_get (i : Nat) (x : Chan) (i' : Nat) : (s.setChan i x).lane i' = s.lane i' := rfl
@[simp] theorem Dev.setChan_head_get (i : Nat) (x : Chan) (i' : Nat) : (s.setChan i x).head i' = s.head i' := rfl
@[simp] theorem Dev.setChan_stream_get (i : Nat) (x : Chan) (i' : Nat) : (s.setChan i x).stream i' = s.stream i' := rfl
@[simp] theorem Dev.setChan_tap_get (i : Nat) (x : Chan) (i' : Nat) : (s.setChan i x).tap i' = s.tap i' := rfl
@[simp] theorem Dev.setChan_nib_get (i : Nat) (x : Chan) (i' : Nat) : (s.setChan i x).nib i' = s.nib i' := rfl
@[simp] theorem Dev.setChan_slot_get (i : Nat) (x : Chan) (i' : Nat) : (s.setChan i x).slot i' = s.slot i' := rfl
@[simp] theorem Dev.setChan_seqn_get (i : Nat) (x : Chan) (i' : Nat) : (s.setChan i x).seqn i' = s.seqn i' := rfl
@[simp] theorem Dev.setChan_web_get (i : Nat) (x : Chan) (i' : Nat) : (s.setChan i x).web i' = s.web i' := rfl
@[simp] theorem Dev.setChan_queue_get (i : Nat) (x : Chan) (i' : Nat) : (s.setChan i x).queue i' = s.queue i' := rfl
@[simp] theorem Dev.setChan_duct_get (i : Nat) (x : Chan) (i' : Nat) : (s.setChan i x).duct i' = s.duct i' := rfl
@[simp] theorem Dev.setChan_gate_get (i : Nat) (x : Chan) (i' : Nat) : (s.setChan i x).gate i' = s.gate i' := rfl
@[simp] theorem Dev.setChan_pk_get (i : Nat) (x : Chan) (j : Nat) : (s.setChan i x).pk j = s.pk j := rfl
@[simp] theorem Dev.setChan_pv_get (i : Nat) (x : Chan) (d j : Nat) : (s.setChan i x).pv d j = s.pv d j := rfl
@[simp] theorem Dev.setChan_ak_get (i : Nat) (x : Chan) (j : Nat) : (s.setChan i x).ak j = s.ak j := rfl

@[simp] theorem Dev.setDuct_mb_get (i : Nat) (x : Dux) (i' : Nat) : (s.setDuct i x).mb i' = s.mb i' := rfl
@[simp] theorem Dev.setDuct_enc_get (i : Nat) (x : Dux) (i' : Nat) : (s.setDuct i x).enc i' = s.enc i' := rfl
@[simp] theorem Dev.setDuct_axis_get (i : Nat) (x : Dux) (i' : Nat) : (s.setDuct i x).axis i' = s.axis i' := rfl
@[simp] theorem Dev.setDuct_trig_get (i : Nat) (x : Dux) (i' : Nat) : (s.setDuct i x).trig i' = s.trig i' := rfl
@[simp] theorem Dev.setDuct_fin_get (i : Nat) (x : Dux) (i' : Nat) : (s.setDuct i x).fin i' = s.fin i' := rfl
@[simp] theorem Dev.setDuct_fout_get (i : Nat) (x : Dux) (i' : Nat) : (s.setDuct i x).fout i' = s.fout i' := rfl
@[simp] theorem Dev.setDuct_lane_get (i : Nat) (x : Dux) (i' : Nat) : (s.setDuct i x).lane i' = s.lane i' := rfl
@[simp] theorem Dev.setDuct_head_get (i : Nat) (x : Dux) (i' : Nat) : (s.setDuct i x).head i' = s.head i' := rfl
@[simp] theorem Dev.setDuct_stream_get (i : Nat) (x : Dux) (i' : Nat) : (s.setDuct i x).stream i' = s.stream i' := rfl
@[simp] theorem Dev.setDuct_tap_get (i : Nat) (x : Dux) (i' : Nat) : (s.setDuct i x).tap i' = s.tap i' := rfl
@[simp] theorem Dev.setDuct_nib_get (i : Nat) (x : Dux) (i' : Nat) : (s.setDuct i x).nib i' = s.nib i' := rfl
@[simp] theorem Dev.setDuct_slot_get (i : Nat) (x : Dux) (i' : Nat) : (s.setDuct i x).slot i' = s.slot i' := rfl
@[simp] theorem Dev.setDuct_seqn_get (i : Nat) (x : Dux) (i' : Nat) : (s.setDuct i x).seqn i' = s.seqn i' := rfl
@[simp] theorem Dev.setDuct_web_get (i : Nat) (x : Dux) (i' : Nat) : (s.setDuct i x).web i' = s.web i' := rfl
@[simp] theorem Dev.setDuct_queue_get (i : Nat) (x : Dux) (i' : Nat) : (s.setDuct i x).queue i' = s.queue i' := rfl
@[simp] theorem Dev.setDuct_chan_get (i : Nat) (x : Dux) (i' : Nat) : (s.setDuct i x).chan i' = s.chan i' := rfl
@[simp] theorem Dev.setDuct_gate_get (i : Nat) (x : Dux) (i' : Nat) : (s.setDuct i x).gate i' = s.gate i' := rfl
@[simp] theorem Dev.setDuct_pk_get (i : Nat) (x : Dux) (j : Nat) : (s.setDuct i x).pk j = s.pk j := rfl
@[simp] theorem Dev.setDuct_pv_get (i : Nat) (x : Dux) (d j : Nat) : (s.setDuct i x).pv d j = s.pv d j := rfl
@[simp] theorem Dev.setDuct_ak_get (i : Nat) (x : Dux) (j : Nat) : (s.setDuct i x).ak j = s.ak j := rfl

@[simp] theorem Dev.setGate_mb_get (i : Nat) (x : Gate) (i' : Nat) : (s.setGate i x).mb i' = s.mb i' := rfl
@[simp] theorem Dev.setGate_enc_get (i : Nat) (x : Gate) (i' : Nat) : (s.setGate i x).enc i' = s.enc i' := rfl
@[simp] theorem Dev.setGate_axis_get (i : Nat) (x : Gate) (i' : Nat) : (s.setGate i x).axis i' = s.axis i' := rfl
@[simp] theorem Dev.setGate_trig_get (i : Nat) (x : Gate) (i' : Nat) : (s.setGate i x).trig i' = s.trig i' := rfl
@[simp] theorem Dev.setGate_fin_get (i : Nat) (x : Gate) (i' : Nat) : (s.setGate i x).fin i' = s.fin i' := rfl
@[simp] theorem Dev.setGate_fout_get (i : Nat) (x : Gate) (i' : Nat) : (s.setGate i x).fout i' = s.fout i' := rfl
@[simp] theorem Dev.setGate_lane_get (i : Nat) (x : Gate) (i' : Nat) : (s.setGate i x).lane i' = s.lane i' := rfl
@[simp] theorem Dev.setGate_head_get (i : Nat) (x : Gate) (i' : Nat) : (s.setGate i x).head i' = s.head i' := rfl
@[simp] theorem Dev.setGate_stream_get (i : Nat) (x : Gate) (i' : Nat) : (s.setGate i x).stream i' = s.stream i' := rfl
@[simp] theorem Dev.setGate_tap_get (i : Nat) (x : Gate) (i' : Nat) : (s.setGate i x).tap i' = s.tap i' := rfl
@[simp] theorem Dev.setGate_nib_get (i : Nat) (x : Gate) (i' : Nat) : (s.setGate i x).nib i' = s.nib i' := rfl
@[simp] theorem Dev.setGate_slot_get (i : Nat) (x : Gate) (i' : Nat) : (s.setGate i x).slot i' = s.slot i' := rfl
@[simp] theorem Dev.setGate_seqn_get (i : Nat) (x : Gate) (i' : Nat) : (s.setGate i x).seqn i' = s.seqn i' := rfl
@[simp] theorem Dev.setGate_web_get (i : Nat) (x : Gate) (i' : Nat) : (s.setGate i x).web i' = s.web i' := rfl
@[simp] theorem Dev.setGate_queue_get (i : Nat) (x : Gate) (i' : Nat) : (s.setGate i x).queue i' = s.queue i' := rfl
@[simp] theorem Dev.setGate_chan_get (i : Nat) (x : Gate) (i' : Nat) : (s.setGate i x).chan i' = s.chan i' := rfl
@[simp] theorem Dev.setGate_duct_get (i : Nat) (x : Gate) (i' : Nat) : (s.setGate i x).duct i' = s.duct i' := rfl
@[simp] theorem Dev.setGate_pk_get (i : Nat) (x : Gate) (j : Nat) : (s.setGate i x).pk j = s.pk j := rfl
@[simp] theorem Dev.setGate_pv_get (i : Nat) (x : Gate) (d j : Nat) : (s.setGate i x).pv d j = s.pv d j := rfl
@[simp] theorem Dev.setGate_ak_get (i : Nat) (x : Gate) (j : Nat) : (s.setGate i x).ak j = s.ak j := rfl

@[simp] theorem Dev.setMb_mb_same (i j : Nat) (x : Mailbox) : (s.setMb i x).mb j = if j = i then x else s.mb j :=
  FMap.get_set _ _ _ _ _
@[simp] theorem Dev.setEnc_enc_same (i j : Nat) (x : Enc) : (s.setEnc i x).enc j = if j = i then x else s.enc j :=
  FMap.get_set _ _ _ _ _
@[simp] theorem Dev.setAxis_axis_same (i j : Nat) (x : Axis) : (s.setAxis i x).axis j = if j = i then x else s.axis j :=
  FMap.get_set _ _ _ _ _
@[simp] theorem Dev.setTrig_trig_same (i j : Nat) (x : Trig) : (s.setTrig i x).trig j = if j = i then x else s.trig j :=
  FMap.get_set _ _ _ _ _
@[simp] theorem Dev.setFin_fin_same (i j : Nat) (x : FieldIn) : (s.setFin i x).fin j = if j = i then x else s.fin j :=
  FMap.get_set _ _ _ _ _
@[simp] theorem Dev.setFout_fout_same (i j : Nat) (x : FieldOut) : (s.setFout i x).fout j = if j = i then x else s.fout j :=
  FMap.get_set _ _ _ _ _
@[simp] theorem Dev.setLane_lane_same (i j : Nat) (x : Lane) : (s.setLane i x).lane j = if j = i then x else s.lane j :=
  FMap.get_set _ _ _ _ _
@[simp] theorem Dev.setHead_head_same (i j : Nat) (x : Head) : (s.setHead i x).head j = if j = i then x else s.head j :=
  FMap.get_set _ _ _ _ _
@[simp] theorem Dev.setStream_stream_same (i j : Nat) (x : Stream) : (s.setStream i x).stream j = if j = i then x else s.stream j :=
  FMap.get_set _ _ _ _ _
@[simp] theorem Dev.setTap_tap_same (i j : Nat) (x : Tap) : (s.setTap i x).tap j = if j = i then x else s.tap j :=
  FMap.get_set _ _ _ _ _
@[simp] theorem Dev.setNib_nib_same (i j : Nat) (x : Nib) : (s.setNib i x).nib j = if j = i then x else s.nib j :=
  FMap.get_set _ _ _ _ _
@[simp] theorem Dev.setSlot_slot_same (i j : Nat) (x : Slot) : (s.setSlot i x).slot j = if j = i then x else s.slot j :=
  FMap.get_set _ _ _ _ _
@[simp] theorem Dev.setSeqn_seqn_same (i j : Nat) (x : Seqn) : (s.setSeqn i x).seqn j = if j = i then x else s.seqn j :=
  FMap.get_set _ _ _ _ _
@[simp] theorem Dev.setWeb_web_same (i j : Nat) (x : Web) : (s.setWeb i x).web j = if j = i then x else s.web j :=
  FMap.get_set _ _ _ _ _
@[simp] theorem Dev.setQueue_queue_same (i j : Nat) (x : Queue) : (s.setQueue i x).queue j = if j = i then x else s.queue j :=
  FMap.get_set _ _ _ _ _
@[simp] theorem Dev.setChan_chan_same (i j : Nat) (x : Chan) : (s.setChan i x).chan j = if j = i then x else s.chan j :=
  FMap.get_set _ _ _ _ _
@[simp] theorem Dev.setDuct_duct_same (i j : Nat) (x : Dux) : (s.setDuct i x).duct j = if j = i then x else s.duct j :=
  FMap.get_set _ _ _ _ _
@[simp] theorem Dev.setGate_gate_same (i j : Nat) (x : Gate) : (s.setGate i x).gate j = if j = i then x else s.gate j :=
  FMap.get_set _ _ _ _ _
@[simp] theorem Dev.setK_pk (k v j : Nat) : (s.setK k v).pk j = if j = k then v else s.pk j := by
  unfold Dev.setK Dev.pk
  by_cases h : j = k
  · subst h; simp
  · simp only [h, if_false]; exact FMap.get_set_ne _ _ _ _ _ _ h
@[simp] theorem Dev.setA_ak (k v j : Nat) : (s.setA k v).ak j = if j = k then v else s.ak j := by
  unfold Dev.setA Dev.ak
  by_cases h : j = k
  · subst h; simp
  · simp only [h, if_false]; exact FMap.get_set_ne _ _ _ _ _ _ h
theorem Dev.setK_pv (k v id i : Nat) : (s.setK k v).pv id i = if pkey id i 0 = k then v else s.pv id i := Dev.setK_pk _ _ _ _
theorem Dev.setP_pv (a b v id i : Nat) : (s.setP a b v).pv id i = if pkey id i 0 = pkey a b 0 then v else s.pv id i := Dev.setK_pk _ _ _ _
@[simp] theorem Dev.setP_pv_same (a b v : Nat) : (s.setP a b v).pv a b = v := by simp [Dev.setP_pv]
@[simp] theorem Dev.emit_out (o : Output) : (s.emit o).out = o :: s.out := rfl
@[simp] theorem Dev.at'_now (t : Nat) : (s.at' t).now = Nat.max s.now t := rfl

/-! ## A command on the device alone -/

/-- A command that works on the device alone answers a next state with the queue and the stored words as they were. -/
theorem State.onDev_next (s : State) (f : Dev → Dev) : s.onDev f = .next { s with dev := f s.dev } := rfl

end Sys2Proof.Machine
end

