-- ==== Sys2Proof/Laws/Nib.lean ====
section
/-! SUPPORT. What a nib instruction does once its word is reached; lanes written and read back. -/
namespace Sys2Proof.Machine

/-- What the end of an instruction leaves: the nib alone, gone on behind its word. -/
theorem Dev.nibAfter_go (s : Dev) (n : Nat) (p : Prog) (x : Nib) (h : StaysInCode x p) :
    s.nibAfter n p (.go x) = s.setNib n (x.advance x.onward.1 x.onward.2) := by
  unfold StaysInCode Nib.onward at h
  unfold Dev.nibAfter Nib.onward
  simp only
  rw [if_neg]
  rintro ⟨h1, h2⟩
  exact h.elim h1 (fun h => absurd h (Nat.not_lt.mpr h2))

/-- Once its word is reached, an instruction runs its body on the nib with one instruction more counted. -/
theorem Dev.nibRun_eq {s : Dev} {n cls op : Nat} {f : NibF} {p : Prog} (h : AtWord s n cls op f p)
    (body : Dev → Nib → Dev × NibRes) :
    s.nibRun n cls op f body =
      (body s { s.nib n with icount := (s.nib n).icount + 1, lastInstr := s.now }).1.nibAfter n p
        (body s { s.nib n with icount := (s.nib n).icount + 1, lastInstr := s.now }).2 := by
  unfold Dev.nibRun
  have h1 := h.inside
  have h2 := h.budget
  simp only [h.ready, h.prog, h.clean, h.word, if_true, ne_eq, not_true_eq_false, if_false,
    Bool.false_eq_true, Nat.not_le.mpr h1, Nat.not_le.mpr h2]

/-- A register instruction changes its nib alone, and goes on. -/
theorem Dev.nibReg_eq {s : Dev} {n cls op : Nat} {f : NibF} {p : Prog} (h : AtWord s n cls op f p) (g : Nib → Nib)
    (hg : ∀ x, (g x).loops = x.loops ∧ (g x).pc = x.pc) (hp : StaysInCode (s.nib n) p) :
    s.nibReg n cls op f g =
      s.setNib n ((g { s.nib n with icount := (s.nib n).icount + 1, lastInstr := s.now }).advance
        (s.nib n).onward.1 (s.nib n).onward.2) := by
  unfold Dev.nibReg
  rw [Dev.nibRun_eq h]
  simp only
  have e : (g { s.nib n with icount := (s.nib n).icount + 1, lastInstr := s.now }).onward = (s.nib n).onward := by
    unfold Nib.onward
    rw [(hg _).1, (hg _).2]
  have hp' : StaysInCode (g { s.nib n with icount := (s.nib n).icount + 1, lastInstr := s.now }) p := by
    unfold StaysInCode at *
    rw [e, (hg _).1]
    exact hp
  rw [Dev.nibAfter_go _ _ _ _ hp', e]

/-! ## Registers -/

theorem Nib.setS_s (x : Nib) (d : Nat) (v : W32) (r : Nat) (hd : d < 32) :
    (x.setS d v).s r = if r = d ∧ d ≠ 0 then v else x.s r := by
  unfold Nib.setS Nib.s
  by_cases h : d = 0
  · subst h; simp
  · simp only [h, if_false]
    by_cases hr : r = d
    · subst hr; simp [h, hd]
    · simp [hr, FMap.get_set]

@[simp] theorem Nib.setS_loops (x : Nib) (d : Nat) (v : W32) : (x.setS d v).loops = x.loops := by
  unfold Nib.setS; split <;> rfl
@[simp] theorem Nib.setS_pc (x : Nib) (d : Nat) (v : W32) : (x.setS d v).pc = x.pc := by
  unfold Nib.setS; split <;> rfl

end Sys2Proof.Machine
end

