-- ==== Sys2Proof/Laws/Lanes.lean ====
section
/-! SUPPORT. Lanes of a vector register: what reading a lane after `putV` gives, and that other registers stay. -/
namespace Sys2Proof.Machine

/-- The number whose digits of `w` bits are `l`. -/
def packLanes (w : Nat) (l : List Nat) : Nat := l.foldr (fun x a => x % 2 ^ w + 2 ^ w * a) 0

theorem packLanes_lt (w : Nat) (l : List Nat) : packLanes w l < 2 ^ (w * l.length) := by
  induction l with
  | nil => simp [packLanes]
  | cons x r ih =>
    have h1 : x % 2 ^ w < 2 ^ w := Nat.mod_lt _ (Nat.two_pow_pos w)
    have h2 : packLanes w (x :: r) = x % 2 ^ w + 2 ^ w * packLanes w r := rfl
    rw [h2, List.length_cons, Nat.mul_succ, Nat.pow_add, Nat.mul_comm (2 ^ (w * r.length))]
    calc x % 2 ^ w + 2 ^ w * packLanes w r < 2 ^ w + 2 ^ w * packLanes w r := by omega
      _ = 2 ^ w * (packLanes w r + 1) := by rw [Nat.mul_succ]; omega
      _ ≤ 2 ^ w * 2 ^ (w * r.length) := Nat.mul_le_mul_left _ ih

theorem packLanes_digit (w : Nat) (l : List Nat) (i : Nat) :
    packLanes w l / 2 ^ (w * i) % 2 ^ w = (l[i]?.getD 0) % 2 ^ w := by
  induction l generalizing i with
  | nil => simp [packLanes]
  | cons x r ih =>
    have h1 : x % 2 ^ w < 2 ^ w := Nat.mod_lt _ (Nat.two_pow_pos w)
    have h2 : packLanes w (x :: r) = x % 2 ^ w + 2 ^ w * packLanes w r := rfl
    rw [h2]
    cases i with
    | zero => simp
    | succ i =>
      rw [Nat.mul_succ, Nat.pow_add, Nat.mul_comm (2 ^ (w * i)), ← Nat.div_div_eq_div_mul,
        Nat.add_mul_div_left _ _ (Nat.two_pow_pos w), Nat.div_eq_of_lt h1, Nat.zero_add, ih]
      simp

theorem ofLanes_toNat (w : Nat) (l : List Nat) (h : w * l.length ≤ 1024) : (ofLanes w l).toNat = packLanes w l := by
  unfold ofLanes
  rw [BitVec.toNat_ofNat]
  exact Nat.mod_eq_of_lt (Nat.lt_of_lt_of_le (packLanes_lt w l) (Nat.pow_le_pow_right (by decide) h))

theorem lanes_length (w : Nat) (v : BitVec 1024) : (lanes w v).length = 1024 / w := by simp [lanes]

theorem lanes_get (w : Nat) (v : BitVec 1024) (i : Nat) (h : i < 1024 / w) :
    (lanes w v)[i]? = some (v.toNat / 2 ^ (w * i) % 2 ^ w) := by
  simp [lanes, h]

theorem width_mul (w : Nat) : w * (1024 / w) ≤ 1024 := Nat.mul_div_le 1024 w

/-- A lane after `putV`: the new value where PRED enables it, the old one elsewhere; other registers stay. -/
theorem Nib.putV_lane (x : Nib) (f : NibF) (w : Nat) (l : List Nat) (hl : l.length = 1024 / w) (r i : Nat)
    (hi : i < 1024 / w) :
    (x.putV f w l).lane w r i =
      if r = f.dst.val ∧ x.laneOn f w i = true then (l[i]?.getD 0) % 2 ^ w else x.lane w r i := by
  unfold Nib.lane Nib.vr Nib.putV
  simp only [FMap.get_set]
  by_cases hr : r = f.dst.val
  · subst hr
    simp only [if_true, true_and]
    have hlen : ((l.zip (lanes w (x.vr f.dst.val))).zipIdx.map
        (fun p => if x.laneOn f w p.2 then p.1.1 else p.1.2)).length = 1024 / w := by
      simp [List.length_zip, hl, lanes_length]
    rw [ofLanes_toNat _ _ (by rw [hlen]; exact width_mul w), packLanes_digit]
    have hz : (l.zip (lanes w (x.vr f.dst.val)))[i]? =
        some (l[i]'(hl ▸ hi), (lanes w (x.vr f.dst.val))[i]'(by rw [lanes_length]; exact hi)) := by
      rw [List.getElem?_eq_getElem (by simp [List.length_zip, hl, lanes_length, hi])]
      simp
    rw [List.getElem?_map, List.getElem?_zipIdx, hz]
    have hg : (lanes w (x.vr f.dst.val))[i]'(by rw [lanes_length]; exact hi) =
        (x.vr f.dst.val).toNat / 2 ^ (w * i) % 2 ^ w := by
      have := lanes_get w (x.vr f.dst.val) i hi
      rw [List.getElem?_eq_getElem (by rw [lanes_length]; exact hi)] at this
      exact Option.some.inj this
    simp only [Option.map_some, Option.getD_some, Nat.zero_add, hg]
    by_cases ho : x.laneOn f w i = true
    · simp [ho, List.getElem?_eq_getElem (show i < l.length from hl ▸ hi)]
    · simp only [ho, if_false, Bool.false_eq_true]
      exact Nat.mod_mod _ _
  · simp [hr]

theorem Nib.putV_vr (x : Nib) (f : NibF) (w : Nat) (l : List Nat) (r : Nat) (hr : r ≠ f.dst.val) :
    (x.putV f w l).vr r = x.vr r := by
  unfold Nib.vr Nib.putV
  simp [FMap.get_set, hr]

/-- `putV` changes the vector registers alone. -/
theorem Nib.putV_frame (x : Nib) (f : NibF) (w : Nat) (l : List Nat) :
    x.putV f w l = { x with v := (x.putV f w l).v } := rfl

@[simp] theorem Nib.putV_loops (x : Nib) (f : NibF) (w : Nat) (l : List Nat) : (x.putV f w l).loops = x.loops := rfl
@[simp] theorem Nib.putV_pc (x : Nib) (f : NibF) (w : Nat) (l : List Nat) : (x.putV f w l).pc = x.pc := rfl

/-! ## Accumulators -/

theorem Nib.setA_ar (x : Nib) (b e : Nat) (v : Int) (c i : Nat) :
    (x.setA b e v).ar c i = if 64 * c + i = 64 * b + e then v else x.ar c i := by
  unfold Nib.ar Nib.setA
  exact FMap.get_set _ _ _ _ _

end Sys2Proof.Machine
end

