-- ==== Sys2Proof/Laws/Mailbox.lean ====
section
/-! SUPPORT. What the end of a mailbox command does: the final status and the response, the signal, one trace entry, and
nothing else. -/
namespace Sys2Proof.Machine

/-- `u` is `d` but for an interrupt or a response sent, and what traces it: no mailbox differs. -/
structure SameBut (d u : Dev) : Prop where
  mbs : u.mbs = d.mbs
  rest : u = { d with
    mbs := u.mbs, int0 := u.int0, int1 := u.int1, out := u.out
    quill := { d.quill with pend0 := u.quill.pend0, pend1 := u.quill.pend1 }
    sec := { d.sec with trace := u.sec.trace, traceNo := u.sec.traceNo } }

theorem SameBut.refl (d : Dev) : SameBut d d := ⟨rfl, rfl⟩

theorem SameBut.trans {a b c : Dev} (h : SameBut a b) (k : SameBut b c) : SameBut a c := by
  refine ⟨k.mbs.trans h.mbs, ?_⟩
  have h2 := h.rest
  have k2 := k.rest
  rw [h2] at k2
  exact k2

theorem Dev.message0_same (s : Dev) (v : Nat) : SameBut s (s.message0 v) := by
  unfold Dev.message0; split <;> exact ⟨rfl, rfl⟩

theorem Dev.message1_same (s : Dev) (v : Nat) : SameBut s (s.message1 v) := by
  unfold Dev.message1; split <;> exact ⟨rfl, rfl⟩

theorem Dev.raise0_same (s : Dev) (src : Nat) : SameBut s (s.raise0 src) := by
  unfold Dev.raise0
  split
  · exact .refl s
  · exact SameBut.trans (b := { s with int0 := s.int0.set false src true }) ⟨rfl, rfl⟩ (Dev.message0_same _ _)

theorem Dev.raise1_same (s : Dev) (src : Nat) : SameBut s (s.raise1 src) := by
  unfold Dev.raise1
  split
  · exact .refl s
  · exact SameBut.trans (b := { s with int1 := s.int1.set false src true }) ⟨rfl, rfl⟩ (Dev.message1_same _ _)

/-- A cause bit raised reads 1; no other cause bit changes. -/
theorem Dev.raise0_int0 (s : Dev) (src j : Nat) : (s.raise0 src).int0.get false j = (decide (j = src) || s.int0.get false j) := by
  unfold Dev.raise0
  split
  · next h => by_cases e : j = src <;> simp_all
  · unfold Dev.message0
    split <;> (by_cases e : j = src <;> simp [e, FMap.get_set])

theorem Dev.raise1_int1 (s : Dev) (src j : Nat) : (s.raise1 src).int1.get false j = (decide (j = src) || s.int1.get false j) := by
  unfold Dev.raise1
  split
  · next h => by_cases e : j = src <;> simp_all
  · unfold Dev.message1
    split <;> (by_cases e : j = src <;> simp [e, FMap.get_set])

theorem Dev.signalMb_same (s : Dev) (m : Nat) : SameBut s (s.signalMb m) := by
  unfold Dev.signalMb
  split
  · exact Dev.raise0_same _ _
  · split
    · exact Dev.raise1_same _ _
    · exact ⟨rfl, rfl⟩

theorem Dev.addTrace_same (s : Dev) (k n : Nat) : SameBut s (s.addTrace k n) := ⟨rfl, rfl⟩

theorem SameBut.mb {d u : Dev} (h : SameBut d u) (m : Nat) : u.mb m = d.mb m := by
  unfold Dev.mb; rw [h.mbs]

/-- A command that waits or runs ends: its mailbox holds the status and the response, and beside that only the signal and
the trace entry are new (R316, R317, R318). -/
theorem Dev.finish_ends {s : Dev} {m : Nat} (c detail value : Nat) (eff : Bool) (pay : Bytes)
    (h : (s.mb m).st = .queued ∨ (s.mb m).st = .running) :
    Ended (s.finish m c detail value eff pay) m ((s.mb m).request m) c eff pay detail value
      ∧ OnlyAnswers s (s.finish m c detail value eff pay) m := by
  have e : s.finish m c detail value eff pay =
      ((s.setMb m { s.mb m with
        rsp := Mem.ofBytes (rspHeader ((s.mb m).request m) pay.length detail c value ++ pay)
        st := .complete, effect := eff, code := c, wait := .none, deadline := none }).signalMb m).addTrace 1
          ((s.mb m).request m).op := by
    unfold Dev.finish
    rcases h with h | h <;> simp only [h]
  rw [e]
  have k := (Dev.signalMb_same (s.setMb m { s.mb m with
        rsp := Mem.ofBytes (rspHeader ((s.mb m).request m) pay.length detail c value ++ pay)
        st := .complete, effect := eff, code := c, wait := .none, deadline := none }) m).trans
    (Dev.addTrace_same _ 1 ((s.mb m).request m).op)
  have hm := fun j => k.mb j
  have self : ∀ x : Mailbox, (s.setMb m x).mb m = x := fun x => by simp [Dev.mb, Dev.setMb]
  refine ⟨⟨?_, ?_, ?_, ?_, ?_⟩, ?_, ?_, ?_, ?_, ?_⟩
  any_goals rw [hm]
  any_goals rw [self]
  · exact k.rest
  · intro j hj
    rw [hm]
    simp [Dev.mb, Dev.setMb, FMap.get_set, hj]

/-- A command that may run runs. -/
theorem Dev.cmd_runs {s : Dev} {m op : Nat} {r : Req} (h : MayRun s m op r) (k : Dev → Req → Dev) : s.cmd m op k = k s r := by
  unfold Dev.cmd Dev.command
  simp [h.queued, h.request, h.opcode, h.order, h.served]

/-- A command that may run still may at another instant. -/
theorem MayRun.at' {s : Dev} {m op : Nat} {r : Req} (h : MayRun s m op r) (t : Nat) : MayRun (s.at' t) m op r :=
  ⟨h.queued, h.request, h.opcode, h.order, h.served⟩

/-- A meaning that ends its command on a device whose mailboxes are those of `d`. -/
theorem answers_finish {i : Instr} {s : State} {d : Dev} {m : Nat} {r : Req} {c : Nat} {eff : Bool} {pay : Bytes} {value : Nat}
    (he : exec i s = .next { s with dev := d.finish m c 0 value eff pay }) (hq : (d.mb m).st = .queued ∨ (d.mb m).st = .running)
    (hr : (d.mb m).request m = r) : Answers i s d m r c eff pay value := by
  refine ⟨_, he, ?_⟩
  rw [← hr]
  exact Dev.finish_ends c 0 value eff pay hq

end Sys2Proof.Machine
end

