-- ==== Sys2Proof/Laws/Memory.lean ====
section
/-! SUPPORT. What the operations on the stored words do, and that each keeps their canonical form. -/
namespace Sys2Proof.Machine

@[simp] theorem State.putWord_storedWord (s : State) (k : Nat) (c : Bytes) (j : Nat) :
    (s.putWord k c).storedWord j = if j = k then c else s.storedWord j := by
  simp [State.putWord, State.storedWord, FMap.get_set]

@[simp] theorem State.putWord_dev (s : State) (k : Nat) (c : Bytes) : (s.putWord k c).dev = s.dev := rfl
@[simp] theorem State.putWord_pending (s : State) (k : Nat) (c : Bytes) : (s.putWord k c).pending = s.pending := rfl

theorem State.putWord_wf (s : State) (k : Nat) (c : Bytes) (h : Memory.wf s.sram = true) :
    Memory.wf (s.putWord k c).sram = true := FMap.wf_set _ _ _ _ h

/-- The scrubber's read writes no other word, and changes neither the queue nor, but by what it reports, the device. -/
theorem State.scrubSram_other (s : State) (k : Nat) (err : Bytes) (corr bad : Dev → Dev) (j : Nat) (h : j ≠ k) :
    (s.scrubSram k err corr bad).storedWord j = s.storedWord j := by
  unfold State.scrubSram
  split
  · rfl
  · dsimp only
    split <;> simp [State.storedWord, State.putWord, FMap.get_set, h]

theorem State.scrubSram_wf (s : State) (k : Nat) (err : Bytes) (corr bad : Dev → Dev) (h : Memory.wf s.sram = true) :
    Memory.wf (s.scrubSram k err corr bad).sram = true := by
  unfold State.scrubSram
  split
  · exact h
  · dsimp only
    split <;> exact FMap.wf_set _ _ _ _ h

theorem State.scrubSram_pending (s : State) (k : Nat) (err : Bytes) (corr bad : Dev → Dev) :
    (s.scrubSram k err corr bad).pending = s.pending := by
  unfold State.scrubSram
  split
  · rfl
  · dsimp only
    split <;> rfl

theorem State.debugWrite_wf (s : State) (loc : MemLoc) (d : Bytes) (h : Memory.wf s.sram = true) :
    Memory.wf (s.debugWrite loc d).sram = true := by
  unfold State.debugWrite
  split
  · exact h
  · exact FMap.wf_set _ _ _ _ h
  · split
    · exact FMap.wf_set _ _ _ _ h
    · exact h

theorem State.debugWrite_pending (s : State) (loc : MemLoc) (d : Bytes) : (s.debugWrite loc d).pending = s.pending := by
  unfold State.debugWrite
  split
  · rfl
  · rfl
  · split <;> rfl

theorem State.cold_wf (s : State) (c : Nat) : Memory.wf (s.cold c).sram = true := rfl

theorem reset_memory_wf : Memory.wf State.reset.sram = true := rfl

end Sys2Proof.Machine
end

