-- ==== Sys2Proof/Tests/Slice0.lean ====
section
/-! SUPPORT. Tests of the model on small states, and for every statement with hypotheses a state that meets them. -/
namespace Sys2Proof.Tests

set_option Elab.async false

open Sys2Proof Sys2Proof.Machine

/-! ## States of a few fields -/

/-- The device released from reset, READY, with the service port attached. -/
def d0 : Dev := { Dev.reset with rst := { Rst.reset with ready := true, coldPending := false, attached := true, vbus := true } }

/-- The same with the parameter values listed in force: identification, instance, value. -/
def dev (l : List (Nat × Nat × Nat)) : Dev := l.foldl (fun d e => d.setP e.1 e.2.1 e.2.2) d0

def on (d : Dev) : State := ⟨[], .empty, d⟩

/-! ## Nibs -/

/-- Fields: DST 2, SRCA 3, SRCB 1, no predicate. -/
def fw (ew : Fin 4) (imm : W32) : NibF := ⟨2, 3, 1, ew, 0, imm⟩

/-- A program whose code is the words `ws`: BUDGET 1000, IMAGE_MAX 4096, RECORD_MAX 1. -/
def progOf (ws : List Nat) : Prog :=
  ⟨List.replicate 28 0 ++ le 4 1000 ++ le 4 4096 ++ le 4 1 ++ List.replicate 88 0, (ws.map (le 8)).flatten, [], []⟩

/-- Tile 9 of sequence 0, frame 0's only one, of 16 columns and `h` lines. -/
def tile9 (h : Nat) (st : TileSt) : Tile where
  no := 9
  q := 0
  seq := 0
  slot := 0
  load := 0
  frame := 0
  x0 := 0
  y0 := 0
  coreW := 16
  coreH := h
  stamp0 := 0
  stamps := []
  budget := 0
  desc := []
  input := []
  pages := 1
  page0 := 0
  st := st
  since := 0
  failed := []
  replays := 0
  result := none
  dropped := false
  poison := false
  lastOfFrame := true
  released := 0

/-- Nib 5 runs tile 9 on those words, `g` being what else it holds. -/
def nibDev (ws : List Nat) (g : Nib → Nib) : Dev :=
  let d := (dev [(P.nibState, 5, E.nibState.BUSY)]).setNib 5
    (g { Nib.reset with prog := some (progOf ws), running := true, bufA := some 9 })
  { d with tiles := [tile9 16 (.inNib 5)] }

/-- The word of CLASS `cls` and OP `op` stands at the start, a NOP behind it. -/
def nibOn (cls op : Nat) (f : NibF) : Dev := nibDev [nibWord cls op f, 0] id

def nibProg (cls op : Nat) (f : NibF) : Prog := progOf [nibWord cls op f, 0]

/-- What `AtWord` and `StaysInCode` ask, to be evaluated. -/
def poised (s : Dev) (n cls op : Nat) (f : NibF) (p : Prog) : Bool :=
  s.nibReady n && decide ((s.nib n).prog = some p) && decide ((s.nib n).pc < p.words)
    && !(s.nib n).poison.get false ((128 + 8 * (s.nib n).pc) / 32) && decide (p.word (s.nib n).pc = nibWord cls op f)
    && decide ((s.nib n).icount < s.budgetOf (s.nib n) p)

theorem atWord_of {s : Dev} {n cls op : Nat} {f : NibF} {p : Prog} (h : poised s n cls op f p = true) :
    AtWord s n cls op f p := by
  simp only [poised, Bool.and_eq_true, decide_eq_true_eq, Bool.not_eq_true'] at h
  obtain ⟨⟨⟨⟨⟨h1, h2⟩, h3⟩, h4⟩, h5⟩, h6⟩ := h
  exact ⟨h1, h2, h3, h4, h5, h6⟩

theorem stays_of {x : Nib} {p : Prog} (h : (decide (x.onward.1 = x.loops) || decide (x.onward.2 < p.words)) = true) :
    StaysInCode x p := by
  simpa [StaysInCode] using h

/-- Nib 5 stands before the word on the small state, and goes on inside the code. -/
def Stands (cls op : Nat) (f : NibF) : Prop :=
  AtWord (nibOn cls op f) 5 cls op f (nibProg cls op f) ∧ StaysInCode ((nibOn cls op f).nib 5) (nibProg cls op f)

theorem stands_of {cls op : Nat} {f : NibF}
    (h : (poised (nibOn cls op f) 5 cls op f (nibProg cls op f)
      && (decide (((nibOn cls op f).nib 5).onward.1 = ((nibOn cls op f).nib 5).loops)
        || decide (((nibOn cls op f).nib 5).onward.2 < (nibProg cls op f).words))) = true) : Stands cls op f :=
  ⟨atWord_of (Bool.and_eq_true_iff.mp h).1, stays_of (Bool.and_eq_true_iff.mp h).2⟩

theorem all_of {α : Type} {l : List α} {p : α → Bool} {P : α → Prop} (hp : ∀ x, p x = true → P x)
    (h : l.all p = true) : ∀ x ∈ l, P x :=
  fun x hx => hp x (List.all_eq_true.mp h x hx)

theorem witness_scalarInstructions : ∀ op ∈ List.range 14, Stands 1 op (fw 0 7) :=
  all_of (fun _ => stands_of) (by decide +kernel)


theorem witness_laneArithmetic :
    (∀ e ∈ [0, 1], ∀ op ∈ List.range' 1 21, Stands 2 op (fw e 0x1F)) ∧ (∀ e ∈ [0, 1], Stands 3 1 (fw e 0xCF)) :=
  ⟨all_of (fun _ h => all_of (fun _ => stands_of) h) (by decide +kernel), all_of (fun _ => stands_of) (by decide +kernel)⟩

theorem witness_accumulators : (∀ op ∈ [2, 3, 4], Stands 3 op (fw 0 0)) ∧ Stands 3 5 (fw 1 0)
    ∧ (∀ op ∈ [1, 2, 3], Stands 4 op (fw 0 39)) :=
  ⟨all_of (fun _ => stands_of) (by decide +kernel), stands_of (by decide +kernel),
    all_of (fun _ => stands_of) (by decide +kernel)⟩

/-- A lane that would pass the limit of 40 bits, and one that stays: the two clauses about ACC_SAT. -/
def accFull : Dev := nibDev [nibWord 3 2 (fw 0 0), 0] (fun x =>
  { x with acc := x.acc.set 0 128 (2 ^ 39 - 1), v := (x.v.set 0 1 1#1024).set 0 3 1#1024 })

theorem witness_accumulators_limit :
    AtWord accFull 5 3 2 (fw 0 0) (nibProg 3 2 (fw 0 0))
    ∧ held 40 ((accFull.nib 5).ar 2 0 + ofTwos 16 ((accFull.nib 5).lane 16 3 0) * ofTwos 16 ((accFull.nib 5).lane 16 1 0))
        ≠ (accFull.nib 5).ar 2 0 + ofTwos 16 ((accFull.nib 5).lane 16 3 0) * ofTwos 16 ((accFull.nib 5).lane 16 1 0)
    ∧ held 40 ((accFull.nib 5).ar 2 1 + 0) = (accFull.nib 5).ar 2 1 + 0 :=
  ⟨atWord_of (by decide +kernel), by decide +kernel⟩

theorem witness_bfloat16 : ∀ op ∈ [1, 2, 3, 4], Stands 5 op (fw 2 0x7F) :=
  all_of (fun _ => stands_of) (by decide +kernel)

/-- The corners of R173: NaN, infinity, a subnormal, and a product beyond the range. -/
theorem witness_bfloat16_corners :
    bfOf 0x7FC0 = .nan ∧ bfOf 0xFF80 = .inf true ∧ (0x007F : Nat) / 128 % 256 = 0 ∧ bfMul 0x007F 0x3F80 / 128 % 256 = 0
    ∧ (∃ m p, bfOf 0x7F7F = .fin false m p ∧ 2 ^ 428 ≤ m * m * 2 ^ (p + p + 300).toNat) :=
  ⟨by decide +kernel, by decide +kernel, by decide +kernel, by decide +kernel, 255, 120, by decide +kernel, by decide +kernel⟩

theorem witness_laneMoves : (∀ e ∈ [0, 1], ∀ op ∈ List.range' 1 11, Stands 6 op (fw e 0xFFFFFFC0))
    ∧ (∀ i ∈ [0, 1], ∀ op ∈ [0xC, 0xD, 0xE], Stands 6 op (fw 0 i)) :=
  ⟨all_of (fun _ h => all_of (fun _ => stands_of) h) (by decide +kernel),
    all_of (fun _ h => all_of (fun _ => stands_of) h) (by decide +kernel)⟩

theorem witness_reductions : ∀ op ∈ List.range' 1 6, Stands 7 op (fw 0 0) :=
  all_of (fun _ => stands_of) (by decide +kernel)

/-- The fields of a load or store of `len` bytes that ends at address `top`. -/
def upTo (top len : Nat) : NibF := fw 0 (BitVec.ofNat 32 (top - len))

/-- The device before it, and its nib. -/
def memOn (cls op top len : Nat) : Dev := nibOn cls op (upTo top len)

/-- Loads whose last byte is the last of the local store, and stores there: OP and length. -/
theorem witness_localLoads : (∀ c ∈ [(1, 128), (3, 4), (5, 2), (6, 2), (7, 8)], Stands 8 c.1 (upTo 0x80000 c.2))
    ∧ (∀ c ∈ [(1, 128), (3, 4), (5, 2), (6, 2), (7, 8)], ∀ k < c.2,
      ((memOn 8 c.1 0x80000 c.2).nib 5).loadable (memAddr ((memOn 8 c.1 0x80000 c.2).nib 5) (upTo 0x80000 c.2) + k) = true)
    ∧ ∀ c ∈ [(1, 128), (3, 4), (5, 2), (6, 2), (7, 8)], ReadsClean ((memOn 8 c.1 0x80000 c.2).nib 5) []
      (memAddr ((memOn 8 c.1 0x80000 c.2).nib 5) (upTo 0x80000 c.2)) c.2 :=
  ⟨all_of (fun _ => stands_of) (by decide +kernel), by decide +kernel, by unfold ReadsClean; decide +kernel⟩

theorem witness_localStores : (∀ c ∈ [(2, 128), (4, 4), (8, 8)], Stands 8 c.1 (upTo 0x80000 c.2))
    ∧ (∀ c ∈ [(2, 128), (4, 4), (8, 8)], ∀ k < c.2,
      ((memOn 8 c.1 0x80000 c.2).nib 5).storable (memAddr ((memOn 8 c.1 0x80000 c.2).nib 5) (upTo 0x80000 c.2) + k) = true
      ∧ ((memOn 8 c.1 0x80000 c.2).nib 5).poison.get false
        ((memAddr ((memOn 8 c.1 0x80000 c.2).nib 5) (upTo 0x80000 c.2) + k) / 32) = false) :=
  ⟨all_of (fun _ => stands_of) (by decide +kernel), by decide +kernel⟩

/-- Register s3, which SRCA names, holds `v`. -/
def withS3 (v : W32) (x : Nib) : Nib := { x with sreg := x.sreg.set 0 3 v }

/-- The word at the start of four, s3 as given and s1 = 1. -/
def branchOn (op : Nat) (f : NibF) (v : W32) : Dev := nibDev [nibWord 0 op f, 0, 0, 0] (fun x =>
  { withS3 v x with sreg := (withS3 v x).sreg.set 0 1 1 })

def branchProg (op : Nat) (f : NibF) : Prog := progOf [nibWord 0 op f, 0, 0, 0]

/-- Each condition not met, and met with the target the last word of the code. -/
theorem witness_branches :
    (∀ c ∈ [(BrCond.eq, 0), (.ne, 1), (.lt, 1), (.ge, 0), (.ltu, 1), (.geu, 0)],
      AtWord (branchOn c.1.op (fw 0 3) (BitVec.ofNat 32 c.2)) 5 0 c.1.op (fw 0 3) (branchProg c.1.op (fw 0 3)))
    ∧ (∀ c ∈ [(BrCond.eq, 0), (.ne, 1), (.lt, 1), (.ge, 0), (.ltu, 1), (.geu, 0)],
      c.1.holds (((branchOn c.1.op (fw 0 3) (BitVec.ofNat 32 c.2)).nib 5).s 3)
        (((branchOn c.1.op (fw 0 3) (BitVec.ofNat 32 c.2)).nib 5).s 1) = false)
    ∧ (∀ c ∈ [(BrCond.eq, 1), (.ne, 0), (.lt, 2 ^ 32 - 1), (.ge, 1), (.ltu, 0), (.geu, 2 ^ 32 - 1)],
      AtWord (branchOn c.1.op (fw 0 3) (BitVec.ofNat 32 c.2)) 5 0 c.1.op (fw 0 3) (branchProg c.1.op (fw 0 3)))
    ∧ (∀ c ∈ [(BrCond.eq, 1), (.ne, 0), (.lt, 2 ^ 32 - 1), (.ge, 1), (.ltu, 0), (.geu, 2 ^ 32 - 1)],
      c.1.holds (((branchOn c.1.op (fw 0 3) (BitVec.ofNat 32 c.2)).nib 5).s 3)
        (((branchOn c.1.op (fw 0 3) (BitVec.ofNat 32 c.2)).nib 5).s 1) = true
      ∧ MayBranch ((branchOn c.1.op (fw 0 3) (BitVec.ofNat 32 c.2)).nib 5) (branchProg c.1.op (fw 0 3)) (0 + 3)) :=
  ⟨all_of (fun _ => atWord_of) (by decide +kernel), by decide +kernel, all_of (fun _ => atWord_of) (by decide +kernel),
    by unfold MayBranch; decide +kernel⟩

/-- NOP; LOOP with a count and without one; the ends of loops: none open, away from the last word, at it with two
iterations left and with one. -/
theorem witness_controlForms : Stands 0 0 (fw 0 0)
    ∧ AtWord (branchOn 8 (fw 0 1) 5) 5 0 8 (fw 0 1) (branchProg 8 (fw 0 1))
    ∧ ((branchOn 8 (fw 0 1) 5).nib 5).loops.length < 4 ∧ ((branchOn 8 (fw 0 1) 5).nib 5).s 3 ≠ 0
    ∧ AtWord (branchOn 8 (fw 0 1) 0) 5 0 8 (fw 0 1) (branchProg 8 (fw 0 1))
    ∧ ((branchOn 8 (fw 0 1) 0).nib 5).s 3 = 0
    ∧ (endLoops ((branchOn 8 (fw 0 1) 0).nib 5).loops (0 + 2 + 1)).2 < (branchProg 8 (fw 0 1)).words :=
  ⟨stands_of (by decide +kernel), atWord_of (by decide +kernel), by decide +kernel, by decide +kernel,
    atWord_of (by decide +kernel), by decide +kernel, by decide +kernel⟩

/-- A NOP at word 1 with the loop stack given. -/
def loopDev (l : List LoopEnt) : Dev := nibDev [0, 0, 0, 0] (fun x => { x with pc := 1, loops := l })

theorem witness_loopEnds :
    (∀ l ∈ [[], [⟨1, 2, 1⟩], [⟨1, 1, 2⟩], [⟨1, 1, 1⟩]], AtWord (loopDev l) 5 0 0 ⟨0, 0, 0, 0, 0, 0⟩ (progOf [0, 0, 0, 0]))
    ∧ ∀ l ∈ [[], [⟨1, 2, 1⟩], [⟨1, 1, 2⟩], [⟨1, 1, 1⟩]], StaysInCode ((loopDev l).nib 5) (progOf [0, 0, 0, 0]) :=
  ⟨all_of (fun _ => atWord_of) (by decide +kernel), all_of (fun _ => stays_of) (by decide +kernel)⟩

/-- Pool loads up to the last byte of the pool, clean and open. -/
theorem witness_poolLoads : (∀ c ∈ [(1, 128), (2, 4)], Stands 9 c.1 (upTo 63488 c.2))
    ∧ ∀ c ∈ [(1, 128), (2, 4)], memAddr ((memOn 9 c.1 63488 c.2).nib 5) (upTo 63488 c.2) + c.2 ≤ 63488
      ∧ ∀ k < c.2,
        (memOn 9 c.1 63488 c.2).nibSt (4 * (5 / 4) + (memAddr ((memOn 9 c.1 63488 c.2).nib 5) (upTo 63488 c.2) + k) / 15872)
          ≠ E.nibState.FENCED
        ∧ ((memOn 9 c.1 63488 c.2).nib (4 * (5 / 4) + (memAddr ((memOn 9 c.1 63488 c.2).nib 5) (upTo 63488 c.2) + k) / 15872)).poison.get
          false ((0x10000 + (memAddr ((memOn 9 c.1 63488 c.2).nib 5) (upTo 63488 c.2) + k) % 15872) / 32) = false :=
  ⟨all_of (fun _ => stands_of) (by decide +kernel), by decide +kernel⟩

/-- The nib's records and edge values at their limits: RECORD_MAX is 1, two edge values are kept. -/
def fullOn (op : Nat) : Dev := nibDev [nibWord 10 op (fw 0 0), 0] (fun x =>
  { x with recs := [List.replicate 32 0], wouts := [(true, 0), (false, 1)] })

/-- Nib 5's quad is registered for web 0, and tile 9 is web 0's. -/
def registeredOn (op : Nat) : Dev :=
  let d := nibOn 10 op (fw 0 0)
  { (d.setP P.merQuadIndex 0 1).setP P.merQuadWeb 0 0 with tiles := d.tiles.map (fun t => { t with q := 64 }) }

theorem witness_recordsAndEdges : (∀ op ∈ [1, 2, 3], Stands 10 op (fw 0 0))
    ∧ ((nibOn 10 1 (fw 0 0)).nib 5).recs.length < (nibProg 10 1 (fw 0 0)).recordMax
    ∧ (nibProg 10 1 (fw 0 0)).recordMax ≤ ((fullOn 1).nib 5).recs.length
    ∧ (∀ op ∈ [2, 3], (((nibOn 10 op (fw 0 0)).nib 5).cur.bind (nibOn 10 op (fw 0 0)).tile).isSome = true)
    ∧ 2 ≤ ((fullOn 2).nib 5).wouts.length
    ∧ ((registeredOn 2).inRegQuad 5 && (registeredOn 2).isRegSeq 64) = true :=
  ⟨all_of (fun _ => stands_of) (by decide +kernel), by decide +kernel, by decide +kernel, by decide +kernel, by decide +kernel, by decide +kernel⟩

/-- TDONE with an image of IMAGE_MAX bytes. -/
theorem witness_tileEnd : AtWord (nibDev [nibWord 10 4 (fw 0 0)] (withS3 4096)) 5 10 4 (fw 0 0) (progOf [nibWord 10 4 (fw 0 0)])
    ∧ ((nibDev [nibWord 10 4 (fw 0 0)] (withS3 4096)).nib 5).cur = some 9
    ∧ ((nibDev [nibWord 10 4 (fw 0 0)] (withS3 4096)).tile 9).isSome = true
    ∧ (((nibDev [nibWord 10 4 (fw 0 0)] (withS3 4096)).nib 5).s 3).toNat
        ≤ ((nibDev [nibWord 10 4 (fw 0 0)] (withS3 4096)).nib 5).imageMax
    ∧ ∀ w, ((nibDev [nibWord 10 4 (fw 0 0)] (withS3 4096)).nib 5).poison.get false w = false :=
  ⟨atWord_of (by decide +kernel), by decide +kernel, by decide +kernel, by decide +kernel, fun _ => rfl⟩

/-- Where each fault is raised: one byte past what the program may load or store, a target before and behind the code, a
LOOP body entered from outside, a fifth loop, a budget used up. -/
theorem witness_nibFaults :
    (∀ c ∈ [(1, 128), (3, 4), (5, 2), (6, 2), (7, 8)], Stands 8 c.1 (upTo 0x80001 c.2))
    ∧ (∀ c ∈ [(1, 128), (3, 4), (5, 2), (6, 2), (7, 8)], ∃ k < c.2,
      ((memOn 8 c.1 0x80001 c.2).nib 5).loadable (memAddr ((memOn 8 c.1 0x80001 c.2).nib 5) (upTo 0x80001 c.2) + k) = false)
    ∧ (∀ c ∈ [(2, 128), (4, 4), (8, 8)], Stands 8 c.1 (upTo 0x80001 c.2))
    ∧ (∀ c ∈ [(2, 128), (4, 4), (8, 8)], ∃ k < c.2,
      ((memOn 8 c.1 0x80001 c.2).nib 5).storable (memAddr ((memOn 8 c.1 0x80001 c.2).nib 5) (upTo 0x80001 c.2) + k) = false)
    ∧ ((memOn 8 2 0x80001 128).nib 5).enabled (upTo 0x80001 128) 63 = true
    ∧ AtWord (nibDev [nibWord 10 4 (fw 0 0)] (withS3 4097)) 5 10 4 (fw 0 0) (progOf [nibWord 10 4 (fw 0 0)])
    ∧ (∀ i ∈ [4, 0xFFFFFFFF], AtWord (branchOn 2 (fw 0 i) 0) 5 0 2 (fw 0 i) (branchProg 2 (fw 0 i)))
    ∧ AtWord (branchOn 8 (fw 0 1) 0) 5 0 8 (fw 0 1) (branchProg 8 (fw 0 1))
    ∧ (progOf [nibWord 0 2 (fw 0 2), nibWord 0 8 (fw 0 1), 0, 0]).intoBody 0 2 = true
    ∧ AtWord (nibDev [nibWord 0 2 (fw 0 2), nibWord 0 8 (fw 0 1), 0, 0] (fun x => { x with sreg := x.sreg.set 0 1 1 })) 5 0 2
        (fw 0 2) (progOf [nibWord 0 2 (fw 0 2), nibWord 0 8 (fw 0 1), 0, 0])
    ∧ AtWord (nibDev [nibWord 0 8 (fw 0 1), 0, 0] (fun x => { x with loops := List.replicate 4 ⟨0, 2, 1⟩ })) 5 0 8 (fw 0 1)
        (progOf [nibWord 0 8 (fw 0 1), 0, 0])
    ∧ (nibDev [0] (fun x => { x with icount := 1000 })).nibReady 5 = true
    ∧ (nibDev [0] (fun x => { x with icount := 1000 })).budgetOf ((nibDev [0] (fun x => { x with icount := 1000 })).nib 5)
        (progOf [0]) ≤ 1000
    ∧ ((nibDev [0] id).nib 5).cur = some 9 :=
  ⟨all_of (fun _ => stands_of) (by decide +kernel), by decide +kernel, all_of (fun _ => stands_of) (by decide +kernel),
    by decide +kernel, by decide +kernel, atWord_of (by decide +kernel), all_of (fun _ => atWord_of) (by decide +kernel),
    atWord_of (by decide +kernel), by decide +kernel, atWord_of (by decide +kernel), atWord_of (by decide +kernel),
    by decide +kernel, by decide +kernel, by decide +kernel⟩

/-- A well-formed instruction that a word spells; a word that the container check accepts; a nib that does not run, and
one before another word. -/
theorem witness_nibWords : decodeNib 5 0 (nibWord 2 1 (fw 1 0)) = some (.vadd 5 (fw 1 0))
    ∧ opInstr 2 1 5 (fw 1 0) 0 = some (.vadd 5 (fw 1 0)) ∧ (Instr.vadd 5 (fw 1 0)).wf = true
    ∧ wordOk true (nibWord 9 1 (fw 0 0)) = true ∧ wordOk false (nibWord 9 1 (fw 0 0)) = false
    ∧ nibOp (.vadd 5 (fw 1 0)) = some (5, 2, 1, fw 1 0)
    ∧ d0.nibReady 5 = false ∧ (nibDev [0] id).nibReady 5 = true ∧ (progOf [0]).word 0 ≠ nibWord 2 1 (fw 1 0) :=
  ⟨by decide +kernel, by decide +kernel, by decide +kernel, by decide +kernel, by decide +kernel, by decide +kernel,
    by decide +kernel, by decide +kernel, by decide +kernel⟩


/-! ## Mailboxes -/

/-- A request window: HEADER with TAG 7, the payload. -/
def window (op : Nat) (pay : Bytes) : Bytes := le 2 op ++ le 2 7 ++ le 2 pay.length ++ le 2 0 ++ le 8 0 ++ pay

/-- The request that such a window in mailbox `m` holds. -/
def rq (m op : Nat) (pay : Bytes) : Req := parseReq m ((Mem.ofBytes (window op pay)).read 0 256)

/-- `d` with the command in mailbox `m`, accepted and waiting. -/
def asked (d : Dev) (m op : Nat) (pay : Bytes) : Dev :=
  d.setMb m { Mailbox.reset with snap := Mem.ofBytes (window op pay), st := .queued, tag := 7 }

theorem runs_of {d : Dev} {m op : Nat} {r : Req}
    (h : (decide ((d.mb m).st = .queued) && decide ((d.mb m).request m = r) && decide (r.op = op) && d.mayRun m
      && decide ((d.sec.scribeHalted && decide (m < 16)) = false)) = true) : MayRun d m op r := by
  simp only [Bool.and_eq_true, decide_eq_true_eq] at h
  obtain ⟨⟨⟨⟨h1, h2⟩, h3⟩, h4⟩, h5⟩ := h
  exact ⟨h1, h2, h3, h4, h5⟩

/-- The entry of a parameter batch, and a batch with one entry. -/
def entry (id inst v : Nat) : Bytes := le 2 id ++ le 2 inst ++ le 4 0 ++ le 8 v
def batch (l : List Bytes) : Bytes := List.replicate 16 0 ++ l.flatten

/-! ## Registers and windows -/


/-- The upper half of the register at 0x1000 is latched. -/
def latched : Dev := { d0 with latch := d0.latch.set none (latchKey .pf0 0x1004) (some 5) }

/-- Cause words of either function, the halves of 64-bit registers with and without a latched value, accesses that are too
short or lie askew, the last vector register, both sides of P3. -/
theorem witness_registerAccesses : d0.pcieOff = false ∧ wideReg .pf0 0x1000 = true ∧ wideReg .pf0 0x1004 = false
    ∧ latched.latch.get none (latchKey .pf0 0x1004) = some 5 ∧ d0.latch.get none (latchKey .pf0 0x1004) = none
    ∧ latched.pcieOff = false
    ∧ 0x1000 % 8 = 0 ∧ ¬(8 = 8 ∧ 0x1004 % 8 = 0) ∧ ¬(2 = 4 ∧ 0x1004 % 4 = 0)
    ∧ intWord0 0x1030 = some (304, 2) ∧ intWord1 0x1008 = some (4, 11)
    ∧ (0x15C0 = 0x1100 + 4 * 304) ∧ d0.inP E.pwrState.P3 = false ∧ (dev [(P.pwrState, 0, E.pwrState.P3)]).inP E.pwrState.P3 = true
    ∧ (dev [(P.pwrState, 0, E.pwrState.P3)]).pcieOff = false := by
  refine ⟨?_, ?_, ?_, ?_, ?_, ?_, ?_, ?_, ?_, ?_, ?_, ?_, ?_, ?_, ?_⟩ <;> decide +kernel

theorem witness_causesAndCounts : d0.pcieOff = false ∧ intWord0 0x1000 = some (0, 32) ∧ intWord0 0x1030 = some (304, 2) ∧
    ((paramRow P.qEvents).any (fun r => decide (r.acc = .w1c) && decide (127 < r.inst))
      && mayWrite .pf0 P.qEvents 127) = true
    ∧ ((paramRow P.laneFecCorrCount).any (fun r => decide (r.acc = .rc) && decide (31 < r.inst))
      && mayRead .pf0 P.laneFecCorrCount) = true := by
  refine ⟨?_, ?_, ?_, ?_, ?_⟩ <;> decide +kernel

/-- A window that may be written and one whose command waits; 64 bytes at the window's end. -/
theorem witness_requestWindow : (d0.mb (windowOf .pf1 3)).st = .idle ∧ ((asked d0 19 1 []).mb (windowOf .pf1 3)).st = .queued
    ∧ [1, 2, 4, 8, 16, 32, 64].contains 64 = true ∧ 192 % 64 = 0 ∧ 192 < 256 ∧ d0.inP E.pwrState.P3 = false := by
  refine ⟨?_, ?_, ?_, ?_, ?_, ?_⟩ <;> decide +kernel

/-- A window with NOP, one whose LENGTH is 241, without READY, and one that waits. -/
def rung (w : Bytes) : Dev := d0.setMb 0 { Mailbox.reset with req := Mem.ofBytes w }

theorem witness_doorbells : headerOk (windowReq (rung (window 1 [])) (windowOf .pf0 0)) = true
    ∧ headerOk (windowReq (rung (window 1 (List.replicate 241 0))) (windowOf .pf0 0)) = false
    ∧ (rung (window 1 [])).rst.ready = true ∧ Dev.reset.rst.ready = false ∧ d0.rst.loader = false
    ∧ ((rung (window 1 [])).mb 0).st = .idle ∧ ((asked d0 0 1 []).mb 0).st = .queued := by
  refine ⟨?_, ?_, ?_, ?_, ?_, ?_, ?_⟩ <;> decide +kernel

/-- NOP on the service port; a command whose time is up, not committed and committed. -/
theorem witness_usbAndTimeouts : d0.rst.attached = true ∧ d0.rst.dfu = false ∧ d0.rst.coldPending = false
    ∧ (window 1 [] ++ List.replicate 241 0).length = 257
    ∧ headerOk (parseReq 20 ((Mem.ofBytes ((window 1 [] ++ List.replicate 241 0).take 256)).read 0 256)) = true
    ∧ (d0.mb 20).st = .idle
    ∧ ∀ e ∈ [true, false],
      ((d0.setMb 0 { Mailbox.reset with st := .running, effect := e, deadline := some 5 }).mb 0).deadline = some 5
      ∧ ((d0.setMb 0 { Mailbox.reset with st := .running, effect := e, deadline := some 5 }).mb 0).st = .running := by
  refine ⟨?_, ?_, ?_, ?_, ?_, ?_, ?_⟩ <;> decide +kernel

/-- The mailboxes for which the statement about times names no count. -/
theorem witness_usbAndTimeouts_port : ((d0.setMb 20 { Mailbox.reset with st := .queued, deadline := some 5 }).mb 20).st = .queued
    ∧ 5 ≤ Nat.max d0.now 5 := by decide +kernel

/-- A NOP in the first and last mailbox of each function and on the service port; TB_GET; PARAM_INFO of a parameter that
is defined and of one that is not. -/
theorem witness_queries : (∀ m ∈ [0, 15, 16, 19, 20], MayRun (asked d0 m 1 []) m 1 (rq m 1 []))
    ∧ MayRun (asked d0 0 2 []) 0 2 (rq 0 2 [])
    ∧ MayRun (asked d0 0 0x12 (le 8 P.nibHangUs)) 0 0x12 (rq 0 0x12 (le 8 P.nibHangUs))
    ∧ (paramRow (fld (rq 0 0x12 (le 8 P.nibHangUs)).pay 0 2)).isSome = true
    ∧ MayRun (asked d0 0 0x12 (le 8 0xFFFF)) 0 0x12 (rq 0 0x12 (le 8 0xFFFF))
    ∧ paramRow (fld (rq 0 0x12 (le 8 0xFFFF)).pay 0 2) = none :=
  ⟨all_of (fun _ => runs_of) (by decide +kernel), runs_of (by decide +kernel), runs_of (by decide +kernel), by decide +kernel,
    runs_of (by decide +kernel), by decide +kernel⟩

/-- A read of one parameter inline, the same from host memory, and one of a parameter that does not exist. -/
def getPay (id : Nat) : Bytes := batch [entry id 0 0]
def getHostPay : Bytes := [0, 1] ++ le 2 1 ++ le 4 0 ++ le 8 0x1000

theorem witness_paramGets : MayRun (asked d0 0 0x10 (getPay P.nibHangUs)) 0 0x10 (rq 0 0x10 (getPay P.nibHangUs))
    ∧ parsePreface (rq 0 0x10 (getPay P.nibHangUs)) false = some ⟨none, false, 1, 0⟩
    ∧ (⟨none, false, 1, 0⟩ : Preface).entries (rq 0 0x10 (getPay P.nibHangUs)).pay none = some [⟨P.nibHangUs, 0, 0, 0, 0⟩]
    ∧ firstBad [⟨P.nibHangUs, 0, 0, 0, 0⟩] (entryCode .pf0 false) = none
    ∧ (paramRow P.nibHangUs).any (fun r => r.acc != .rc) = true
    ∧ MayRun (asked d0 0 0x10 getHostPay) 0 0x10 (rq 0 0x10 getHostPay)
    ∧ parsePreface (rq 0 0x10 getHostPay) false = some ⟨none, true, 1, 0x1000⟩
    ∧ firstBad [⟨P.nibHangUs, 0, 0, 0, 0⟩, ⟨0xFFFF, 0, 0, 0, 0⟩] (entryCode .pf0 false) = some (1, C.badParam) :=
  ⟨runs_of (by decide +kernel), by decide +kernel, by decide +kernel, by decide +kernel, by decide +kernel,
    runs_of (by decide +kernel), by decide +kernel, by decide +kernel⟩

/-- A write of each timing parameter with its default; the same with a value out of its range. -/
def setPay (id v : Nat) : Bytes := batch [entry id 0 v]

theorem witness_paramSets :
    (∀ id ∈ [P.modeQuietParkUs, P.ctlTimeoutDefaultUs, P.nibHangUs, P.nibFaultWindowMs, P.ephTileTimeoutUs],
      MayRun (asked d0 0 0x11 (setPay id (paramDefault id 0))) 0 0x11 (rq 0 0x11 (setPay id (paramDefault id 0))))
    ∧ (∀ id ∈ [P.modeQuietParkUs, P.ctlTimeoutDefaultUs, P.nibHangUs, P.nibFaultWindowMs, P.ephTileTimeoutUs],
      parsePreface (rq 0 0x11 (setPay id (paramDefault id 0))) true = some ⟨none, false, 1, 0⟩
      ∧ entriesAt (rq 0 0x11 (setPay id (paramDefault id 0))).pay 16 1 = [⟨id, 0, 0, 0, paramDefault id 0⟩]
      ∧ (paramRow id).any (fun r => r.accepts (paramDefault id 0)) = true
      ∧ ((d0.at' 0).setBatch .pf0 none [⟨id, 0, 0, 0, paramDefault id 0⟩]).2 = none)
    ∧ ((d0.at' 0).setBatch .pf0 none [⟨P.nibHangUs, 0, 0, 0, 2 ^ 40⟩]).2 = some (0, C.badValue)
    ∧ 0 ≤ d0.memFree ∧ d0.calKeys.length ≤ 252 ∧ ∀ k, (d0.slot k).pending = none :=
  ⟨all_of (fun _ => runs_of) (by decide +kernel), by decide +kernel, by decide +kernel, by decide +kernel, by decide +kernel,
    fun _ => rfl⟩

/-! ## Lanes -/

/-- Lane 0 a link of its own in the phase given, its state `st`; `g` is what else the lane holds. -/
def laneDev (st ph : Nat) (g : Lane → Lane) : Dev :=
  (dev [(P.laneMode, 0, E.laneMode.LINK), (P.laneState, 0, st)]).setLane 0 (g { Lane.reset with phase := ph })

/-- A training frame's control field with ID 9 and its CRC, the same with a wrong CRC, and another ID; frames that carry
them and one without a control field; lane 0 alone, and with lane 1 in one link of which it is not the last to train. -/
def trainF : Nat := 0x9000000000000059
def frameOf (field : Nat) : List (Fin 4) := (frameSymbols 0 field).map (Fin.ofNat 4)

theorem witness_trainingFrames : (∀ f ∈ [trainF, trainF - 1], frameField ((frameOf f).map Fin.val) = some f)
    ∧ fieldCrcOk trainF = true ∧ bits trainF 60 4 = 9 ∧ fieldCrcOk (trainF - 1) = false ∧ frameField [] = none
    ∧ (∀ c ∈ [(E.laneState.ABSENT, 0), (E.laneState.TRAINING, 1)], (laneDev c.1 c.2 id).pv P.laneMode 0 = E.laneMode.LINK
      ∧ (laneDev c.1 c.2 id).tileUnlocked 0 = false
      ∧ (laneDev c.1 c.2 id).loopOf ((laneDev c.1 c.2 id).linkBase 0) = E.laneLoop.NONE)
    ∧ (laneDev E.laneState.ABSENT 0 id).pv P.laneState 0 = E.laneState.ABSENT
    ∧ (laneDev E.laneState.TRAINING 1 id).pv P.laneState 0 ≠ E.laneState.ABSENT
    ∧ ((laneDev E.laneState.TRAINING 1 id).lane 0).phase = 1
    ∧ (laneDev E.laneState.TRAINING 1 id).linkBase 0 = 0 ∧ linkOf (laneDev E.laneState.TRAINING 1 id) 0 = [0]
    ∧ ((laneDev E.laneState.TRAINING 1 (fun x => { x with good := 15 })).lane 0).good + 1 = 16
    ∧ ((laneDev E.laneState.TRAINING 1 (fun x => { x with good := 14 })).lane 0).good + 1 < 16 := by
  refine ⟨?_, ?_, ?_, ?_, ?_, ?_, ?_, ?_, ?_, ?_, ?_, ?_, ?_⟩ <;> decide +kernel

/-- A timeout to the picosecond in each phase that has one, at attempts 7 and 8; the end of a backoff; a probe. -/
theorem witness_bringUpTimers : (∀ ph ∈ [1, 3, 4, 5], ((laneDev E.laneState.TRAINING ph id).lane 0).phase = ph
      ∧ ((laneDev E.laneState.TRAINING ph id).lane 0).since
        + (laneDev E.laneState.TRAINING ph id).laneTime 0 (phaseTimeout ph) ≤ phaseTimeout ph)
    ∧ ((laneDev E.laneState.TRAINING 1 id).setP P.laneAttempt 0 7).pv P.laneAttempt 0 < 8
    ∧ 8 ≤ ((laneDev E.laneState.TRAINING 1 id).setP P.laneAttempt 0 8).pv P.laneAttempt 0
    ∧ (laneDev E.laneState.BACKOFF 0 id).pv P.laneState 0 = E.laneState.BACKOFF
    ∧ ((laneDev E.laneState.BACKOFF 0 id).lane 0).since + (laneDev E.laneState.BACKOFF 0 id).laneTime 0
        (ms (2 ^ ((laneDev E.laneState.BACKOFF 0 id).pv P.laneAttempt 0 - 1))) ≤ ms 1
    ∧ (laneDev E.laneState.ABSENT 0 id).pv P.laneState 0 = E.laneState.ABSENT
    ∧ ((laneDev E.laneState.ABSENT 0 id).lane 0).since + (laneDev E.laneState.ABSENT 0 id).laneTime 0 (ms 250) ≤ ms 250 := by
  refine ⟨?_, ?_, ?_, ?_, ?_, ?_, ?_⟩ <;> decide +kernel

/-- Thirty payload bytes of an ALIGN block with its CRC. -/
def alignBody : Bytes := [0x1E, 0xE1, 0x4B, 0x96] ++ List.replicate 26 0

/-- A lane that is UP. -/
def upLane (g : Lane → Lane) : Dev := laneDev E.laneState.UP 6 g

theorem witness_blocksReceived : ((upLane id).lane 0).phase = 6 ∧ ((upLane id).lane ((upLane id).linkBase 0)).phase = 6
    ∧ (upLane id).pv P.laneState 0 ≠ E.laneState.WAIT_LOCK ∧ (upLane id).loopOf ((upLane id).linkBase 0) = E.laneLoop.NONE
    ∧ slice (alignBody ++ le 2 (crc16 alignBody)) 0 4 = [0x1E, 0xE1, 0x4B, 0x96]
    ∧ fld (alignBody ++ le 2 (crc16 alignBody)) 30 2 = crc16 (slice (alignBody ++ le 2 (crc16 alignBody)) 0 30)
    ∧ ((upLane (fun x => { x with ctl := [alignBody ++ le 2 (crc16 alignBody)] })).lane 0).ctl
        = (alignBody ++ le 2 (crc16 alignBody)) :: []
    ∧ [0x00, 0x2D, 0x33, 0x66].contains (fld (List.replicate 32 (0xFF : Byte)) 0 1) = false
    ∧ slice (List.replicate 32 (0xFF : Byte)) 0 4 ≠ [0x1E, 0xE1, 0x4B, 0x96] := by
  refine ⟨?_, ?_, ?_, ?_, ?_, ?_, ?_, ?_, ?_⟩ <;> decide +kernel

/-- The symbols of the codeword of zeros, which decodes, and the same with 16 symbols of the code wrong, which does not. -/
def goodCode : List (Fin 4) := List.replicate 2720 0
def badCode : List (Fin 4) := List.replicate 2640 0 ++ (List.replicate 16 [0, 0, 0, 0, 1]).flatten

set_option maxRecDepth 100000 in
theorem rs10_of : (rs10Decode (List.replicate 544 0)).isSome = true
    ∧ rs10Decode (List.replicate 528 0 ++ List.replicate 16 1) = none := by
  unfold rs10Decode
  have h : rs10Syndromes (List.replicate 544 0) = List.replicate 30 0 := by
    rw [← List.append_nil (List.replicate 544 0), rs10Syndromes_zeros]; decide +kernel
  rw [h, rs10Syndromes_zeros]
  exact ⟨by decide +kernel, by decide +kernel⟩

set_option maxRecDepth 100000 in
theorem codeSymbols_of :
    (chunks 10 ((goodCode.map Fin.val).map grayBits).flatten 544).map ofBitsMsb = List.replicate 544 0
    ∧ (chunks 10 ((badCode.map Fin.val).map grayBits).flatten 544).map ofBitsMsb
        = List.replicate 528 0 ++ List.replicate 16 1 := by
  refine ⟨?_, ?_⟩ <;> decide +kernel

theorem witness_blocksReceived_codewords (c : Coder) : (decodeBlocks 0 false c (goodCode.map Fin.val)).2.isSome = true
    ∧ (decodeBlocks 0 false c (badCode.map Fin.val)).2 = none ∧ ((upLane id).lane 0).rxPre = false := by
  obtain ⟨x, hx⟩ := Option.isSome_iff_exists.mp rs10_of.1
  refine ⟨?_, ?_, by decide +kernel⟩
  · unfold decodeBlocks
    simp only [Bool.false_eq_true, if_false, codeSymbols_of.1, hx, Option.isSome_some]
  · unfold decodeBlocks
    simp only [Bool.false_eq_true, if_false, codeSymbols_of.2, rs10_of.2]

/-- A request of the head at rest, and one that is 1 ms old; a drift check after 10 ms that finds nothing, one that finds
another value, one with more than the threshold's symbols corrected. -/
theorem witness_retrains : (upLane id).linkUp 0 = true
    ∧ ((upLane id).lane 0).upPower = 0 ∧ ((upLane id).lane 0).downPower = 0 ∧ ((upLane id).lane 0).phase = 6
    ∧ ((upLane id).head 0).upRetrain = none
    ∧ (((upLane id).setHead 0 { Head.reset with upRetrain := some 0 }).head 0).upRetrain = some 0
    ∧ 0 + ((upLane id).setHead 0 { Head.reset with upRetrain := some 0 }).laneTime 0 (ms 1) ≤ ms 1
    ∧ (upLane id).pv P.laneState 0 ≠ E.laneState.RETRAIN
    ∧ ((upLane id).lane 0).driftAt + (upLane id).laneTime ((upLane id).linkBase 0) (ms 10) ≤ ms 10
    ∧ codeDrift [3, 0] [3, 0] ≤ (upLane id).pv P.laneEqDriftGuard 0
    ∧ (upLane id).pv P.laneEqDriftGuard 0 < codeDrift [3, 0] [15, 0]
    ∧ recentCorr ((upLane id).at' 0) 0 ≤ (upLane id).pv P.laneFecRetrainThresh 0
    ∧ (upLane id).pv P.laneFecRetrainThresh 0 < recentCorr (upLane (fun x => { x with corr := [(2 ^ 32, 0)] })) 0
    ∧ (laneDev E.laneState.RETRAIN 6 id).pv P.laneState 0 = E.laneState.RETRAIN := by
  refine ⟨?_, ?_, ?_, ?_, ?_, ?_, ?_, ?_, ?_, ?_, ?_, ?_, ?_, ?_⟩ <;> decide +kernel

theorem witness_linkDowns : (upLane id).linkUp 0 = true ∧ (upLane id).linkBase 0 = 0
    ∧ ((upLane id).lane 0).downPower = 0
    ∧ 64 ≤ ((upLane (fun x => { x with bad := 64 })).lane 0).bad
    ∧ ((upLane id).lane 0).alignAt + 3 * (upLane id).laneTime 0 20480000 ≤ 61440000
    ∧ (((upLane id).at' 0).linkLost 0).linkLanes 0 = [0] := by
  refine ⟨?_, ?_, ?_, ?_, ?_, ?_⟩ <;> decide +kernel

/-- Lane 0's link idle since its start, with an idle time set and no stream bound to it but FREE ones. -/
def idleDev : Dev :=
  (((laneDev E.laneState.UP 6 id).setP P.laneIdleEiUs 0 100).setP P.trigMode 0 E.trigMode.FREE).setP P.trigMode 1 E.trigMode.FREE

theorem witness_idleAndDelay : idleDev.pv P.laneState (idleDev.linkBase 0) = E.laneState.UP ∧ idleDev.linkUp 0 = true
    ∧ idleDev.pv P.laneIdleEiUs 0 ≠ 0
    ∧ (∀ st ∈ idleDev.streamsOf 0, trigExpects (idleDev.pv P.trigMode st) = false ∧ idleDev.pv P.trigMode st ≠ E.trigMode.TIME)
    ∧ (idleDev.head 0).waiting = [] ∧ (idleDev.head 0).upRetrain = none
    ∧ (idleDev.head 0).lastUp + us (idleDev.pv P.laneIdleEiUs 0) ≤ us 100
    ∧ (idleDev.lane 0).upPower = 0 ∧ idleDev.loopOf 0 = E.laneLoop.NONE ∧ (idleDev.lane 0).phase = 6
    ∧ (idleDev.head 0).probeAt + idleDev.laneTime 0 (ms 1) ≤ ms 1
    ∧ ((idleDev.setHead 0 { Head.reset with probe := some (3, 0) }).head 0).probe = some (3, 0) := by
  refine ⟨?_, ?_, ?_, ?_, ?_, ?_, ?_, ?_, ?_, ?_, ?_, ?_⟩ <;> decide +kernel

/-- A tile that waits for its PLL, the PCI Express edge among them; a tile that is locked, with and without links. -/
theorem witness_pllLocks :
    (∀ k ∈ [0, 4], ({ d0.rst with unlocked := d0.rst.unlocked.set false k true } : Rst).unlocked.get false k = true)
    ∧ d0.rst.unlocked.get false 3 = false ∧ d0.linksOf 3 = [] ∧ (laneDev E.laneState.UP 6 id).linksOf 0 ≠ [] := by
  refine ⟨?_, ?_, ?_, ?_⟩ <;> decide +kernel

/-- A packet of a type with its checks, and the same with the header check and with the CRC-32C spoilt. -/
def pktOf (ty : Nat) (f pay : Bytes) : Bytes := mkPkt ty 0 f 5 9 pay
def badHdr : Bytes := (pktOf 0x42 [] []).set 22 0xFF
def badCrc : Bytes := (pktOf 0x42 [] []).set 24 0xFF

theorem goodPkt_of {d : Dev} {h ty : Nat} {pkt : Bytes}
    (g : (d.linkUp h && decide (d.loopOf h = E.laneLoop.NONE) && (parsePkt pkt).hdrOk && (parsePkt pkt).crcOk && decide ((parsePkt pkt).ty = ty)
      && decide ((d.head h).seqs.get none (parsePkt pkt).chan = none
        ∨ (d.head h).seqs.get none (parsePkt pkt).chan = some (parsePkt pkt).seq)) = true) : GoodPkt d h ty pkt := by
  simp only [Bool.and_eq_true, decide_eq_true_eq] at g
  obtain ⟨⟨⟨⟨⟨h1, h2⟩, h3⟩, h4⟩, h5⟩, h6⟩ := g
  exact ⟨h1, h2, h3, h4, h5, h6⟩

/-- The first packet of a link, and the SEQ that was expected; an unknown type. -/
theorem witness_headPackets : (parsePkt badHdr).hdrOk = false ∧ (parsePkt badCrc).hdrOk = true ∧ (parsePkt badCrc).crcOk = false
    ∧ GoodPkt idleDev 0 0x42 (pktOf 0x42 [1, 2, 3, 4] [])
    ∧ GoodPkt (idleDev.setHead 0 { Head.reset with seqs := Head.reset.seqs.set none 0 (some 5) }) 0 0x42 (pktOf 0x42 [1, 2, 3, 4] [])
    ∧ GoodPkt idleDev 0 0x41 (pktOf 0x41 [] (List.replicate 64 1)) ∧ GoodPkt idleDev 0 0x7F (pktOf 0x7F [] [])
    ∧ [0x01, 0x02, 0x03, 0x40, 0x41, 0x42].contains (parsePkt (pktOf 0x7F [] [])).ty = false
    ∧ (∀ l ∈ [E.laneLoop.NEP, E.laneLoop.NES], ((idleDev.setP P.modeWord 0 (2 ^ M.loop)).setP P.laneLoop 0 l).linkUp 0 = true
      ∧ ((idleDev.setP P.modeWord 0 (2 ^ M.loop)).setP P.laneLoop 0 l).loopOf 0 = l) ∧ (parsePkt (pktOf 0x42 [1, 2, 3, 4] [])).ty ≠ 0x01 :=
  ⟨by decide +kernel, by decide +kernel, by decide +kernel, goodPkt_of (by decide +kernel), goodPkt_of (by decide +kernel),
    goodPkt_of (by decide +kernel), goodPkt_of (by decide +kernel), by decide +kernel, by decide +kernel, by decide +kernel⟩

/-- Mailbox 3's command awaits the ACK of TAG 9 from head 0, which has answered TAG 8. -/
def awaiting (resends : Nat) : Dev :=
  (idleDev.setHead 0 { Head.reset with waiting := [⟨9, 0x80, [], 3, resends, 0, 0, 0⟩], done := [8] }).setMb 3
    { Mailbox.reset with st := .running, effect := true, wait := .ack 0 9 }

theorem witness_awaitedMessages : (∀ r ∈ [0, 1, 2, 3], GoodPkt (awaiting 0) 0 0x40 (pktOf 0x40 [0, r, 9, 0] []))
    ∧ (∀ r ∈ [0, 1, 2, 3], fld (parsePkt (pktOf 0x40 [0, r, 9, 0] [])).f 1 1 ≤ 3
      ∧ ((awaiting 0).head 0).waiting.find? (fun x => x.tag == fld (parsePkt (pktOf 0x40 [0, r, 9, 0] [])).f 2 2)
        = some ⟨9, 0x80, [], 3, 0, 0, 0, 0⟩)
    ∧ ((awaiting 0).mb 3).wait = .ack 0 9 ∧ ((awaiting 0).mb 3).st = .running
    ∧ ((awaiting 0).head 0).waiting.find? (fun x => x.tag == fld (parsePkt (pktOf 0x40 [0, 0, 8, 0] [])).f 2 2) = none
    ∧ ((awaiting 0).head 0).done.contains (fld (parsePkt (pktOf 0x40 [0, 0, 8, 0] [])).f 2 2) = true
    ∧ GoodPkt (awaiting 0) 0 0x40 (pktOf 0x40 [0, 0, 8, 0] [])
    ∧ (∀ n ∈ [2, 3], ((awaiting n).head 0).waiting.find? (fun x => x.tag == 9) = some ⟨9, 0x80, [], 3, n, 0, 0, 0⟩)
    ∧ 0 + us ((awaiting 0).pv P.headAckTimeoutUs 0) ≤ us ((awaiting 0).pv P.headAckTimeoutUs 0) :=
  ⟨all_of (fun _ => goodPkt_of) (by decide +kernel), by decide +kernel, by decide +kernel, by decide +kernel, by decide +kernel,
    by decide +kernel, goodPkt_of (by decide +kernel), by decide +kernel, by decide +kernel⟩

theorem witness_awaitedMessages_slots : ∀ j, ((awaiting 3).mb j).wait ≠ .slotFree 0 := by
  intro j
  have h : (awaiting 3).mbs.cells = [(3, { Mailbox.reset with st := .running, effect := true, wait := .ack 0 9 })] := by
    decide +kernel
  unfold Dev.mb FMap.get
  rw [h]
  unfold FMap.lookup FMap.lookup
  split <;> decide

/-! ## Quill and the queues -/

/-- A descriptor: one element of 32 bytes, LIMIT as given. -/
def descBytes (limit : Nat) : Bytes :=
  le 8 0 ++ le 8 0x1000 ++ le 8 limit ++ le 5 0 ++ le 2 32 ++ [0] ++ le 2 1 ++ le 2 1 ++ le 2 1 ++ le 2 0 ++ List.replicate 24 0

/-- Channel `c` in a state, with Bus Master Enable. -/
def chanDev (c st : Nat) (g : Chan → Chan) : Dev :=
  let d := d0.setChan c (g { Chan.reset with state := st })
  { d with quill := { d.quill with bme0 := true } }

/-- DMA_START and DMA_STOP with CHANNEL 63 and 64; a channel in each state; the reads of a descriptor that is good at its
limit and bad one byte below it; LINK words. -/
theorem witness_channels :
    (∀ c ∈ [63, 64], MayRun (asked d0 0 0x50 (le 8 c ++ le 8 64)) 0 0x50 (rq 0 0x50 (le 8 c ++ le 8 64)))
    ∧ MayRun (asked d0 0 0x51 (le 8 63)) 0 0x51 (rq 0 0x51 (le 8 63))
    ∧ MayRun (asked d0 0 0x51 (le 8 64)) 0 0x51 (rq 0 0x51 (le 8 64))
    ∧ d0.imageBad 63 = false ∧ fld (rq 0 0x50 (le 8 63 ++ le 8 64)).pay 0 1 ≤ 63
    ∧ (∀ st ∈ [chRun, chTail, chStopping, chHeld, chIdle, chStopped, chFetchErr], ((chanDev 63 st id).chan 63).state = st)
    ∧ (chanDev 63 chRun id).chanBusy 63 = false ∧ (chanDev 63 chHeld id).chanBusy 63 = false
    ∧ ((chanDev 63 chHeld id).chan 63).desc = none
    ∧ ((chanDev 63 chHeld (fun x => { x with desc := some ⟨64, descBytes 32, 0⟩ })).chan 63).desc.isSome = true
    ∧ (chanDev 63 chRun (fun x => { x with desc := some ⟨64, descBytes 32, 0⟩ })).chanBusy 63 = true
    ∧ Moves (chanDev 63 chRun id) 63 chRun ∧ Moves (chanDev 63 chStopping id) 63 chStopping
    ∧ (⟨64, slice (descBytes 32) 0 64, 0⟩ : Desc).badCode true = none
    ∧ (⟨64, slice (descBytes 31) 0 64, 0⟩ : Desc).badCode true = some 1
    ∧ d0.pcieOff = false ∧ d0.inP E.pwrState.P3 = false :=
  ⟨all_of (fun _ => runs_of) (by decide +kernel), runs_of (by decide +kernel), runs_of (by decide +kernel), by decide +kernel,
    by decide +kernel, by decide +kernel, by decide +kernel, by decide +kernel, by decide +kernel, by decide +kernel,
    by decide +kernel, by unfold Moves; decide +kernel,
    by unfold Moves; decide +kernel, by decide +kernel, by decide +kernel, by decide +kernel, by decide +kernel⟩

/-- Channel `c` in RUN fills the descriptor of 32 bytes at 64, and what else it holds. -/
def fillDev (c : Nat) (g : Chan → Chan) : Dev :=
  chanDev c chRun (fun x => g { x with phase := .fill, desc := some ⟨64, descBytes 32, 0⟩ })

/-- A record begun, none begun, an IMAGE channel of stream 0, and a host read of 32 bytes for Q104. -/
theorem witness_channelData :
    (∀ rest ∈ [List.replicate 32 0, []],
      (((fillDev 0 (fun x => { x with rest := rest })).at' 0).accrue 0).mayMove 0 = true
      ∧ (fillDev 0 (fun x => { x with rest := rest })).pv P.quillForm 0 = E.quillForm.PACK)
    ∧ (fillDev 0 id).pv P.quillRate 0 = 0 ∧ (fillDev 0 id).mode M.survey = false ∧ 0 < (fillDev 0 id).pv P.quillMps 0
    ∧ 32 ≤ Nat.min ((fillDev 0 id).pv P.quillMps 0) (Nat.min ((⟨64, descBytes 32, 0⟩ : Desc).elem - 0) 32)
    ∧ ((fillDev 0 id).queue ((fillDev 0 id).pv P.quillSrc 0 - 0x100)).cutOff = false
    ∧ ((((fillDev 0 id).setP P.quillForm 0 E.quillForm.IMAGE).at' 0).accrue 0).mayMove 0 = true
    ∧ ((fillDev 0 id).setP P.quillSrc 0 0).pv P.quillSrc 0 < 68
    ∧ ((((fillDev 0 id).setStream 0 { Stream.reset with ring := [.fin 0 []] }).ringNext 0) = some (.fin 0 []))
    ∧ ((fillDev 0 id).chan 0).truncated = false ∧ ((fillDev 0 id).chan 0).state = chRun
    ∧ (((fillDev 48 id).at' 0).accrue 48).mayMove 48 = true ∧ ((fillDev 48 id).chan 48).feed = []
    ∧ ((fillDev 48 id).chan 48).desc = some ⟨64, descBytes 32, 0⟩
    ∧ (⟨64, descBytes 32, 0⟩ : Desc).total = 32 ∧ 32 ≤ Nat.min (fillDev 48 id).quill.mrrs (⟨64, descBytes 32, 0⟩ : Desc).elem
    ∧ ((fillDev 48 id).queue 104).owed = 0 ∧ ((fillDev 48 id).queue 104).discard = false
    ∧ ((fillDev 48 id).queue 104).openLen = 0 ∧ 0 < (fillDev 48 id).qLimit 104 ∧ 0 < (fillDev 48 id).qFree 104 := by
  refine ⟨?_, ?_, ?_, ?_, ?_, ?_, ?_, ?_, ?_, ?_, ?_, ?_, ?_, ?_, ?_, ?_, ?_, ?_, ?_, ?_, ?_⟩ <;> decide +kernel

theorem witness_masteringAndVectors : (15 : Fin 256).val ≤ 15 ∧ (chanDev 0 chRun id).quill.bme0 = true ∧ d0.quill.bme0 = false
    ∧ ((chanDev 0 chHeld id).chan 0).heldFrom ≠ chStopping
    ∧ ({ d0.quill with pend0 := d0.quill.pend0.set false 3 true } : Quill).pend0.get false 3 = true := by
  refine ⟨?_, ?_, ?_, ?_, ?_⟩ <;> decide +kernel

/-- Queue `q` of two words, holding `n`. -/
def queueDev (q n : Nat) (g : Queue → Queue) : Dev :=
  (dev [(P.qSizeLog2, q, 1)]).setQueue q
    (g { Queue.reset with words := List.replicate n ⟨List.replicate 32 0, true, false, false, 0⟩, wp := n })

/-- Room for exactly one item, for none, an item longer than the queue; a WAIT queue that is full; a discarded item; a read
of a whole item, of an empty queue, and of a torn one; flushes of Q119 and of Q120. -/
theorem witness_queueWords :
    ((queueDev 68 1 id).queue 68).owed = 0 ∧ ((queueDev 68 1 id).queue 68).discard = false ∧ qPolicy 68 = .drop
    ∧ qPolicy 104 = .wait ∧ qPolicy 67 = .reserve ∧ ((queueDev 68 1 id).queue 68).openLen = 0
    ∧ (queueDev 68 1 id).qLimit 68 = 2 ∧ (queueDev 68 1 id).qFree 68 = 1 ∧ (queueDev 68 2 id).qFree 68 = 0
    ∧ (queueDev 104 2 id).qFree 104 = 0 ∧ 0 < (queueDev 104 2 id).qLimit 104
    ∧ ((queueDev 68 0 (fun x => { x with discard := true })).queue 68).discard = true
    ∧ (queueDev 68 1 id).qReadable 68 = true ∧ (queueDev 68 0 id).qReadable 68 = false
    ∧ ((queueDev 68 0 (fun x => { x with tornDue := true })).queue 68).tornDue = true
    ∧ ((queueDev 68 1 id).queue 68).tornDue = false ∧ ((queueDev 68 1 id).queue 68).words ≠ []
    ∧ (readWord ⟨List.replicate 32 0, true, false, false, 0⟩ ([1, 1] ++ List.replicate 33 0)).2 = .uncorrectable
    ∧ (queueDev 68 1 id).poison.get false (bankKey ((queueDev 68 1 id).wordOf (.queue 68) 0).1
        ((queueDev 68 1 id).wordOf (.queue 68) 0).2) = false := by
  refine ⟨?_, ?_, ?_, ?_, ?_, ?_, ?_, ?_, ?_, ?_, ?_, ?_, ?_, ?_, ?_, ?_, ?_, ?_, ?_⟩ <;> decide +kernel

theorem witness_queueFlush : MayRun (asked d0 0 0x52 (le 8 119)) 0 0x52 (rq 0 0x52 (le 8 119))
    ∧ MayRun (asked d0 0 0x52 (le 8 120)) 0 0x52 (rq 0 0x52 (le 8 120))
    ∧ fld (rq 0 0x52 (le 8 119)).pay 0 1 = 119 ∧ fld (rq 0 0x52 (le 8 120)).pay 0 1 = 120 :=
  ⟨runs_of (by decide +kernel), runs_of (by decide +kernel), by decide +kernel, by decide +kernel⟩


/-! ## Memory -/

/-- A scrubber that stands still and one that runs; a word without error, with one bad byte, with two; a poisoned word. -/
theorem witness_scrubReads : (dev [(P.memScrubPeriodS, 0, 0)]).pv P.memScrubPeriodS 0 = 0 ∧ d0.pv P.memScrubPeriodS 0 ≠ 0
    ∧ rsRead (scrubbedWord (on d0) (bankKey 0 262143) (List.replicate 35 0)) = .good
    ∧ rsRead (scrubbedWord (on d0) (bankKey 0 262143) (1 :: List.replicate 34 0)) = .corrected 34 1
    ∧ rsRead (scrubbedWord (on d0) (privKey 524287) (1 :: List.replicate 34 0)) = .corrected 34 1
    ∧ rsRead (scrubbedWord (on d0) (bankKey 0 262143) ([1, 1] ++ List.replicate 33 0)) = .uncorrectable
    ∧ (d0.poison.set false (bankKey 15 0) true).get false (bankKey 15 0) = true ∧ d0.poison.get false (bankKey 15 0) = false := by
  refine ⟨?_, ?_, ?_, ?_, ?_, ?_, ?_, ?_⟩ <;> decide +kernel

/-! ## Streams, webs and heads -/

/-- Stream 0, and what else it holds. -/
def streamDev (l : List (Nat × Nat × Nat)) (g : Stream → Stream) : Dev := (dev l).setStream 0 (g Stream.reset)

/-- A web of stream 0 alone. -/
def webDev : Dev := dev [(P.ligMember, 0, 0), (P.trigMode, 0, E.trigMode.POSITION), (P.trigRearm, 0, E.trigRearm.NONE)]

/-- STREAM_START of stream 0 idle, running, with a crop beyond its line, and with a ring that no plate memory holds; its
stop; the same of web 0. -/
theorem witness_streamsAndWebs :
    (∀ d ∈ [d0, streamDev [] (fun x => { x with running := true }), dev [(P.plateCropX0, 0, 8192)],
        dev [(P.plateRingLines, 0, 65536)]],
      MayRun (asked d 0 0x30 (le 8 1)) 0 0x30 (rq 0 0x30 (le 8 1)))
    ∧ streamsIn (rq 0 0x30 (le 8 1)) = [0] ∧ websIn (rq 0 0x32 (le 8 1)) = [0]
    ∧ (d0.stream 0).running = false ∧ ((streamDev [] (fun x => { x with running := true })).stream 0).running = true
    ∧ d0.startOk 0 = true ∧ (dev [(P.plateCropX0, 0, 8192)]).startOk 0 = false
    ∧ (d0.plateNeed 0 : Int) ≤ d0.memFree + ((d0.stream 0).mem : Nat)
    ∧ (dev [(P.plateRingLines, 0, 65536)]).startOk 0 = true
    ∧ (dev [(P.plateRingLines, 0, 65536)]).memFree + ((d0.stream 0).mem : Nat)
        < ((dev [(P.plateRingLines, 0, 65536)]).plateNeed 0 : Int)
    ∧ MayRun (asked d0 0 0x31 (le 8 1)) 0 0x31 (rq 0 0x31 (le 8 1))
    ∧ MayRun (asked (streamDev [] (fun x => { x with running := true })) 0 0x31 (le 8 1)) 0 0x31 (rq 0 0x31 (le 8 1))
    ∧ MayRun (asked (webDev.setWeb 0 { Web.reset with running := true }) 0 0x33 (le 8 1)) 0 0x33 (rq 0 0x33 (le 8 1))
    ∧ ((webDev.setWeb 0 { Web.reset with running := true }).web 0).running = true
    ∧ (∀ c ∈ [(0x32, 1), (0x32, 16), (0x33, 1), (0x33, 16)],
      MayRun (asked webDev 0 c.1 (le 8 c.2)) 0 c.1 (rq 0 c.1 (le 8 c.2)))
    ∧ webDev.webOk 0 = true ∧ d0.webOk 0 = false ∧ (webDev.web 0).running = false
    ∧ (webDev.webNeed 0 : Int) ≤ webDev.memFree + ((webDev.web 0).mem : Nat)
    ∧ (webDev.web 0).points = [] ∧ (webDev.web 0).ending = 0 :=
  ⟨all_of (fun _ => runs_of) (by decide +kernel), by decide +kernel, by decide +kernel, by decide +kernel, by decide +kernel,
    by decide +kernel, by decide +kernel, by decide +kernel, by decide +kernel, by decide +kernel, runs_of (by decide +kernel),
    runs_of (by decide +kernel), runs_of (by decide +kernel), by decide +kernel,
    all_of (fun _ => runs_of) (by decide +kernel), by decide +kernel, by decide +kernel, by decide +kernel, by decide +kernel,
    by decide +kernel, by decide +kernel⟩

/-- A stream with a triggered line due, which a stop must wait for. -/
theorem witness_streamsAndWebs_stop :
    (∀ g ∈ [(fun (x : Stream) => { x with running := true, expect := [⟨1, 0, 0, 0, false⟩] })],
      let d := streamDev [(P.trigMode, 0, E.trigMode.POSITION), (P.plateFrameMode, 0, E.plateFrameMode.LINES)] g
      trigExpects (d.pv P.trigMode 0) = true ∧ (d.stream 0).held = false ∧ (d.at' 0).linesDue 0 = true)
    ∧ ((((asked d0 0 0x31 (le 8 1)).at' 0).await 0 (.streams 1) true).stream 0).running = false := by
  refine ⟨?_, ?_⟩ <;> decide +kernel

/-- EXPOSE_SET of stream 0 with SET 1 and no values, NEXT or FROM `frame`; head 0 absent, and up with `n` sets pending;
stream 0's frame 1 is the next. -/
def exposePay (apply frame : Nat) : Bytes := le 8 1 ++ le 2 1 ++ le 1 apply ++ le 1 0 ++ le 4 frame ++ List.replicate 8 0
def expMsg : Msg := ⟨1, 0x81, [], 5, 0, 0, 1, 1⟩
def upDev (n : Nat) : Dev :=
  ((((idleDev.setP P.headState 0 E.headState.UP).setP P.trigMode 0 E.trigMode.POSITION).setP P.plateFrameMode 0
    E.plateFrameMode.LINES).setHead 0 { Head.reset with waiting := List.replicate n expMsg }).setStream 0 { Stream.reset with running := true, frameNo := 1 }

theorem exposeArgs_of {d : Dev} {r : Req} (h : (decide (streamsIn r ≠ []) && (streamsIn r).all (fun i => d.headOf i == headIn d r)
    && decide (fld r.pay 8 2 ≠ 0) && decide (fld r.pay 10 1 ≤ 1) && decide (fld r.pay 11 1 = 0)
    && (decide (fld r.pay 10 1 ≠ 1) || (streamsIn r).all (fun i => decide (d.pv P.trigMode i ≠ E.trigMode.FREE)))) = true) :
    ExposeArgs d r := by
  simp only [Bool.and_eq_true, Bool.or_eq_true, decide_eq_true_eq, List.all_eq_true, beq_iff_eq] at h
  obtain ⟨⟨⟨⟨⟨h1, h2⟩, h3⟩, h4⟩, h5⟩, h6⟩ := h
  exact ⟨h1, h2, h3, h4, .inl h5, fun ha i hi => .inr ((h6.resolve_left (fun h => h ha)) i hi)⟩

/-- An EXPOSE_SET NEXT; FROM a frame that has begun, one that is the next, and one after it. -/
theorem witness_headCommands_expose :
    (∀ c ∈ [(0, 0), (1, 0), (1, 1), (1, 2)], ExposeArgs (upDev 3) (rq 0 0x34 (exposePay c.1 c.2)))
    ∧ (∀ c ∈ [(0, 0), (1, 0), (1, 1), (1, 2)],
      MayRun (asked (upDev 3) 0 0x34 (exposePay c.1 c.2)) 0 0x34 (rq 0 0x34 (exposePay c.1 c.2)))
    ∧ MayRun (asked d0 0 0x34 (exposePay 0 0)) 0 0x34 (rq 0 0x34 (exposePay 0 0)) ∧ ExposeArgs d0 (rq 0 0x34 (exposePay 0 0))
    ∧ ¬ ExposeArgs d0 (rq 0 0x34 (le 8 0)) ∧ headIn d0 (rq 0 0x34 (exposePay 0 0)) = 0
    ∧ d0.headUp 0 = false ∧ (upDev 3).headUp (headIn (upDev 3) (rq 0 0x34 (exposePay 0 0))) = true
    ∧ (∃ i ∈ streamsIn (rq 0 0x34 (exposePay 1 0)), (upDev 3).begun 0 i = true)
    ∧ (∀ i ∈ streamsIn (rq 0 0x34 (exposePay 1 1)), (upDev 3).begun 1 i = false)
    ∧ (∀ i ∈ streamsIn (rq 0 0x34 (exposePay 1 2)), (upDev 3).begun 2 i = false)
    ∧ ¬ ExposeWaits (upDev 3) (rq 0 0x34 (exposePay 1 1)) ∧ ExposeWaits (upDev 3) (rq 0 0x34 (exposePay 1 2))
    ∧ ExposeWaits (upDev 4) (rq 0 0x34 (exposePay 0 0)) :=
  ⟨all_of (fun _ => exposeArgs_of) (by decide +kernel), all_of (fun _ => runs_of) (by decide +kernel), runs_of (by decide +kernel),
    exposeArgs_of (by decide +kernel), fun h => absurd h.some (by decide +kernel), by decide +kernel, by decide +kernel,
    by decide +kernel, by decide +kernel, by decide +kernel, by decide +kernel, by unfold ExposeWaits; decide +kernel,
    by unfold ExposeWaits; decide +kernel, by unfold ExposeWaits; decide +kernel⟩

theorem witness_headCommands :
    (((upDev 4).setMb 0 { Mailbox.reset with st := .running, wait := .slotFree 0 }).mb 0).wait = .slotFree 0
    ∧ (((upDev 4).setMb 0 { Mailbox.reset with st := .running, wait := .slotFree 0 }).mb 0).st = .running
    ∧ (upDev 4).headUp 0 = true ∧ d0.headUp 31 = false
    ∧ (∀ c ∈ [(0x35, 0), (0x35, 31), (0x35, 32), (0x36, 0), (0x36, 31), (0x36, 32)],
      MayRun (asked (upDev 0) 0 c.1 (le 4 c.2 ++ le 8 0)) 0 c.1 (rq 0 c.1 (le 4 c.2 ++ le 8 0))) :=
  ⟨by decide +kernel, by decide +kernel, by decide +kernel, by decide +kernel, all_of (fun _ => runs_of) (by decide +kernel)⟩

/-- The deferred set of a command whose place is free again. -/
def deferred : Dev := (asked (upDev 3) 0 0x34 (exposePay 0 0)).setMb 0
  { (asked (upDev 3) 0 0x34 (exposePay 0 0)).mb 0 with st := .running, wait := .slotFree 0 }

theorem witness_headCommands_deferred : (deferred.mb 0).request 0 = rq 0 0x34 (exposePay 0 0) ∧ (deferred.mb 0).wait = .slotFree 0
    ∧ (deferred.mb 0).st = .running ∧ deferred.headUp 0 = true ∧ headIn deferred (rq 0 0x34 (exposePay 0 0)) = 0
    ∧ ExposeArgs deferred (rq 0 0x34 (exposePay 0 0)) ∧ ¬ ExposeWaits deferred (rq 0 0x34 (exposePay 0 0)) :=
  ⟨by decide +kernel, by decide +kernel, by decide +kernel, by decide +kernel, by decide +kernel, exposeArgs_of (by decide +kernel),
    by unfold ExposeWaits; decide +kernel⟩

/-- A defect table of one entry for stream 63, a flat table, one entry too many. -/
def tablePay (flat n : Nat) : Bytes := [63, BitVec.ofNat 8 flat, 0, 0] ++ le 4 n ++ le 8 0x1000

theorem witness_tableLoads : (∀ n ∈ [1, 4194304, 4194305], MayRun (asked d0 0 0x40 (tablePay 0 n)) 0 0x40 (rq 0 0x40 (tablePay 0 n)))
    ∧ MayRun (asked d0 0 0x40 [64, 0, 0, 0]) 0 0x40 (rq 0 0x40 [64, 0, 0, 0])
    ∧ d0.source 0 0 4 (some (le 4 5)) [] = (d0, .bytes (le 4 5)) ∧ d0.source 0 0 4 none [] = (d0, .code C.busError)
    ∧ d0.source 1 0 4 none [] = (d0, .wait)
    ∧ (d0.cfgOf 63).tableOk false (entriesOf 1 (slice (le 4 5) 0 4)) = true
    ∧ (d0.cfgOf 63).tableOk true (entriesOf 1 (slice (le 4 5) 0 4)) = false ∧ (d0.stream 63).running = false
    ∧ ((d0.setStream 63 { Stream.reset with running := true }).stream 63).running = true
    ∧ ((d0.setStream 63 { Stream.reset with pendDefect := some [5] }).plateNeed 63 : Int) ≤ d0.memFree + 0
    ∧ (dev [(P.plateRingLines, 63, 65536)]).memFree + 0 < ((dev [(P.plateRingLines, 63, 65536)]).plateNeed 63 : Int) :=
  ⟨all_of (fun _ => runs_of) (by decide +kernel), runs_of (by decide +kernel), by decide +kernel, by decide +kernel,
    by decide +kernel, by decide +kernel, by decide +kernel, by decide +kernel, by decide +kernel, by decide +kernel,
    by decide +kernel⟩

/-- A frame in progress, and a packet's fields: FRAME, LINE, OFFSET, EXPSET, FORMAT. -/
def frm (no lines mode : Nat) (taps : List FTap) : Frame where
  no := no
  flags := 0
  lines := lines
  missing := 0
  outLines := 0
  firstStamp := 0
  lastStamp := 0
  lastAt := 0
  exp := 0
  tbFirst := 0
  stamps := []
  entered := false
  legal := false
  recFlags := 0
  acquire := false
  closed := false
  started := true
  cfg := { d0.cfgOf 0 with mode := mode }
  taps := taps
  prevs := []
  stats := none
  statWait := []
  group := []
  prevFirst := none

def pixF (frame line fmt : Nat) : Bytes := le 4 frame ++ le 4 line ++ le 4 0 ++ le 2 0 ++ le 1 fmt

/-- Stream 0 runs behind head 0, with a frame open. -/
def rxDev (mode : Nat) (g : Stream → Stream) : Dev :=
  (idleDev.setP P.plateFrameMode 0 mode).setStream 0 (g { Stream.reset with running := true, frames := [frm 0 1 mode []] })

theorem forStream_of {d : Dev} {h ty st : Nat} {pkt : Bytes} (g : GoodPkt d h ty pkt)
    (k : (decide (d.streamOn h (parsePkt pkt).chan = some st) && (d.stream st).running) = true) : ForStream d h ty pkt st := by
  simp only [Bool.and_eq_true, decide_eq_true_eq] at k
  exact ⟨g, k.1, k.2⟩

/-- A PIXEL packet for channel 0 with the flags given: LINE 5, TAG 9, eight bytes. -/
def pixPkt (flags frame line fmt : Nat) : Bytes := mkPkt 1 flags (pixF frame line fmt) 0 9 (List.replicate 8 0)
def linePkt (fmt : Nat) : Bytes := pixPkt 8 0 5 fmt
def begun : Asm := ⟨0, 5, 9, 0, [], 0, 0, 0, 0, 0, none, 0, 0, []⟩

/-- Stream 0 runs with a LINES frame open, and with a line in assembly, or waits for triggers. -/
def linesDev : Dev := rxDev E.plateFrameMode.LINES id
def gathers : Dev := rxDev E.plateFrameMode.LINES (fun x => { x with asm := some begun })
def awaits : Dev := linesDev.setP P.trigMode 0 E.trigMode.POSITION

theorem formOk_of {p : Pkt} {area : Bool} {n : Nat} (h : (decide (p.lineScan = !area) && decide (p.format % 32 = n)
    && decide (p.format / 32 ≤ 1)) = true) : FormOk p area n := by
  simp only [Bool.and_eq_true, decide_eq_true_eq] at h
  exact ⟨h.1.1, h.1.2, h.2⟩

theorem not_formOk_of {p : Pkt} {area : Bool} {n : Nat} (h : (decide (p.lineScan ≠ !area) || decide (p.format % 32 ≠ n)
    || decide (1 < p.format / 32)) = true) : ¬ FormOk p area n := by
  simp only [Bool.or_eq_true, decide_eq_true_eq] at h
  rintro ⟨h1, h2, h3⟩
  rcases h with (h | h) | h
  · exact h h1
  · exact h h2
  · omega

/-- Pixels of the line that gathers, its last and one before, of the stream's form and of another; of an unbound channel. -/
theorem witness_linesReceived_pixel :
    ForStream gathers 0 1 (linePkt 12) 0 ∧ ForStream gathers 0 1 (linePkt 13) 0 ∧ ForStream gathers 0 1 (pixPkt 24 0 5 12) 0
    ∧ FormOk (parsePkt (linePkt 12)) false (gathers.pv P.plateInBits 0)
    ∧ FormOk (parsePkt (pixPkt 24 0 5 12)) false (gathers.pv P.plateInBits 0)
    ∧ ¬ FormOk (parsePkt (linePkt 13)) false (gathers.pv P.plateInBits 0)
    ∧ (gathers.pv P.plateFrameMode 0 == E.plateFrameMode.AREA) = false
    ∧ (gathers.stream 0).asm = some begun ∧ (gathers.stream 0).openFrame.isSome = true
    ∧ begun.takes (parsePkt (linePkt 12)) = true ∧ (parsePkt (linePkt 12)).headLate = false
    ∧ (parsePkt (linePkt 12)).last = false ∧ (parsePkt (pixPkt 24 0 5 12)).last = true
    ∧ begun.takes (parsePkt (pixPkt 24 0 5 12)) = true
    ∧ begun.takes (parsePkt (pixPkt 8 0 6 12)) = false
    ∧ GoodPkt idleDev 0 1 (mkPkt 1 7 (pixF 0 0 12) 0 0 []) ∧ idleDev.streamOn 0 7 = none :=
  ⟨forStream_of (goodPkt_of (by decide +kernel)) (by decide +kernel), forStream_of (goodPkt_of (by decide +kernel)) (by decide +kernel),
    forStream_of (goodPkt_of (by decide +kernel)) (by decide +kernel), formOk_of (by decide +kernel), formOk_of (by decide +kernel),
    not_formOk_of (by decide +kernel), by decide +kernel, by decide +kernel, by decide +kernel, by decide +kernel,
    by decide +kernel, by decide +kernel, by decide +kernel, by decide +kernel, by decide +kernel,
    goodPkt_of (by decide +kernel), by decide +kernel⟩

/-- The first packet of a line: line-scan data or not, with a frame for the line in its form or another, and with no
trigger that the line answers. -/
theorem witness_linesReceived_first :
    ForStream linesDev 0 1 (linePkt 12) 0 ∧ ForStream linesDev 0 1 (pixPkt 0 0 5 12) 0 ∧ ForStream awaits 0 1 (linePkt 12) 0
    ∧ (linesDev.stream 0).asm = none ∧ (parsePkt (pixPkt 0 0 5 12)).lineScan = false ∧ (parsePkt (linePkt 12)).lineScan = true
    ∧ (((heard (linesDev.at' 0) 0 (linePkt 12)).beginLine 0 (parsePkt (linePkt 12)) false).stream 0).asm.isSome = true
    ∧ ((((heard (linesDev.at' 0) 0 (linePkt 12)).beginLine 0 (parsePkt (linePkt 12)) false).stream 0).openFrame.any
        (fun g => g.cfg.inBits == 12 && g.cfg.mode != E.plateFrameMode.AREA)) = true
    ∧ FormOk (parsePkt (linePkt 12)) false 12 ∧ ¬ FormOk (parsePkt (linePkt 13)) false 12
    ∧ (((heard (awaits.at' 0) 0 (linePkt 12)).beginLine 0 (parsePkt (linePkt 12)) false).stream 0).asm = none
    ∧ (awaits.stream 0).openFrame.isSome = true ∧ awaits.pv P.plateInBits 0 = 12 :=
  ⟨forStream_of (goodPkt_of (by decide +kernel)) (by decide +kernel), forStream_of (goodPkt_of (by decide +kernel)) (by decide +kernel),
    forStream_of (goodPkt_of (by decide +kernel)) (by decide +kernel), by decide +kernel, by decide +kernel, by decide +kernel,
    by decide +kernel, by decide +kernel, formOk_of (by decide +kernel), not_formOk_of (by decide +kernel), by decide +kernel,
    by decide +kernel, by decide +kernel⟩

/-- AREA data of the open frame: a line within it, one already passed, one beyond its height for the first time and again,
one of another frame, and a packet of another form. -/
theorem witness_linesReceived_areaData :
    (∀ c ∈ [(0, 0, 12), (0, 1, 12), (0, 65535, 12), (1, 1, 12), (0, 1, 13)],
      GoodPkt (rxDev E.plateFrameMode.AREA id) 0 1 (pixPkt 0 c.1 c.2.1 c.2.2))
    ∧ (∀ c ∈ [(0, 0, 12), (0, 1, 12), (0, 65535, 12), (1, 1, 12)], FormOk (parsePkt (pixPkt 0 c.1 c.2.1 c.2.2)) true
      ((rxDev E.plateFrameMode.AREA id).pv P.plateInBits 0))
    ∧ ¬ FormOk (parsePkt (pixPkt 0 0 1 13)) true ((rxDev E.plateFrameMode.AREA id).pv P.plateInBits 0)
    ∧ (rxDev E.plateFrameMode.AREA id).streamOn 0 (parsePkt (pixPkt 0 0 1 12)).chan = some 0
    ∧ ((rxDev E.plateFrameMode.AREA id).stream 0).openFrame = some (frm 0 1 E.plateFrameMode.AREA [])
    ∧ 1 < (frm 0 1 E.plateFrameMode.AREA []).cfg.height ∧ (frm 0 1 E.plateFrameMode.AREA []).cfg.height ≤ 65535
    ∧ ((rxDev E.plateFrameMode.AREA id).stream 0).lastLine ≠ some 65535
    ∧ ((rxDev E.plateFrameMode.AREA (fun x => { x with lastLine := some 65535 })).stream 0).lastLine = some 65535 :=
  ⟨all_of (fun _ => goodPkt_of) (by decide +kernel), all_of (fun _ => formOk_of) (by decide +kernel), not_formOk_of (by decide +kernel),
    by decide +kernel, by decide +kernel, by decide +kernel, by decide +kernel, by decide +kernel, by decide +kernel⟩

/-- An AREA frame of one line, which it has. -/
def fullArea : Frame := { frm 0 1 E.plateFrameMode.AREA [] with cfg := { d0.cfgOf 0 with mode := E.plateFrameMode.AREA, height := 1 } }

/-- AREA frames: FRAME_START and FRAME_END of the open one, of another, with none open. -/
theorem witness_linesReceived_area :
    (∀ ty ∈ [2, 3], GoodPkt (rxDev E.plateFrameMode.AREA id) 0 ty (mkPkt ty 0 (pixF 0 0 12) 0 0 []))
    ∧ ForStream (rxDev E.plateFrameMode.AREA id) 0 2 (mkPkt 2 0 (pixF 0 0 12) 0 0 []) 0
    ∧ ForStream (rxDev E.plateFrameMode.AREA id) 0 3 (mkPkt 3 0 (pixF 0 0 12) 0 0 []) 0
    ∧ ForStream (rxDev E.plateFrameMode.AREA (fun x => { x with frames := [] })) 0 2 (mkPkt 2 0 (pixF 0 0 12) 0 0 []) 0
    ∧ ((rxDev E.plateFrameMode.AREA id).stream 0).openFrame = some (frm 0 1 E.plateFrameMode.AREA [])
    ∧ ((rxDev E.plateFrameMode.AREA (fun x => { x with frames := [] })).stream 0).openFrame = none
    ∧ (rxDev E.plateFrameMode.AREA id).dueValue 0 P.plateFrameMode = E.plateFrameMode.AREA
    ∧ linesDev.dueValue 0 P.plateFrameMode ≠ E.plateFrameMode.AREA
    ∧ ((rxDev E.plateFrameMode.AREA id).stream 0).held = false ∧ ((rxDev E.plateFrameMode.AREA id).stream 0).ending = 0
    ∧ ((rxDev E.plateFrameMode.AREA id).stream 0).holdAt = none
    ∧ ((rxDev E.plateFrameMode.AREA (fun x => { x with frames := [fullArea] })).stream 0).openFrame = some fullArea
    ∧ (((rxDev E.plateFrameMode.AREA (fun x => { x with frames := [fullArea] })).completeArea 0 none 0).stream 0).openFrame = none
    ∧ (parsePkt (mkPkt 3 0 (pixF 1 0 12) 0 0 [])).frame ≠ 0 :=
  ⟨all_of (fun _ => goodPkt_of) (by decide +kernel), forStream_of (goodPkt_of (by decide +kernel)) (by decide +kernel),
    forStream_of (goodPkt_of (by decide +kernel)) (by decide +kernel), forStream_of (goodPkt_of (by decide +kernel)) (by decide +kernel),
    by decide +kernel, by decide +kernel, by decide +kernel, by decide +kernel, by decide +kernel, by decide +kernel,
    by decide +kernel, by decide +kernel, by decide +kernel, by decide +kernel⟩

/-- An expected line to the picosecond of its time; a frame that HOLD ends, with and without a line due; a tap's decision. -/
theorem witness_linesReceived_timers :
    ((rxDev E.plateFrameMode.LINES (fun x => { x with expect := [⟨1, 0, 0, 0, false⟩] })).stream 0).expect = [⟨1, 0, 0, 0, false⟩]
    ∧ trigExpects E.trigMode.POSITION = true ∧ trigExpects E.trigMode.INPUT = true
    ∧ 0 + us (idleDev.pv P.plateLineTimeoutUs 0) ≤ us 1000 ∧ us 1000 - 1 < 0 + us (idleDev.pv P.plateLineTimeoutUs 0)
    ∧ ((rxDev E.plateFrameMode.LINES (fun x => { x with ending := 1 })).at' 0).linesDue 0 = false
    ∧ ((rxDev E.plateFrameMode.LINES (fun x => { x with ending := 2, asm := some begun })).at' 0).linesDue 0 = true
    ∧ ((rxDev E.plateFrameMode.LINES (fun x => { x with frames := [frm 0 1 1 [⟨0, 0, false, 0, [], [], 0⟩]] })).stream
        (d0.pv P.plateTapStream 0)).frames = [frm 0 1 1 [⟨0, 0, false, 0, [], [], 0⟩]]
    ∧ 0 < (frm 0 1 1 []).lines ∧ d0.flight = [] := by
  refine ⟨?_, ?_, ?_, ?_, ?_, ?_, ?_, ?_, ?_, ?_⟩ <;> decide +kernel

/-! ## Span and encoders -/

def spanDev (role st : Nat) : Dev := dev [(P.modeWord, 0, 2 ^ M.span), (P.spanRole, 0, role), (P.spanState, 0, st)]

/-- A sync frame of device `id`, and the same with its check spoilt; slots of PROBE and ECHO. -/
def syncOf (id : Nat) : Bytes :=
  let b := le 1 0xA5 ++ le 1 1 ++ le 1 id ++ List.replicate 89 0
  b ++ le 4 (crc32c b)
def slotOf (ty num : Nat) : Bytes :=
  let b := le 1 ty ++ le 1 3 ++ le 2 num ++ List.replicate 10 0
  b ++ le 2 (crc16 b)

/-- The same with other span state. -/
def spanWith (role st : Nat) (g : Span → Span) : Dev := { spanDev role st with span := g (spanDev role st).span }

/-- A leader whose frame is back and 1 µs old, and one that sent it less than 1 µs ago; frames that are damaged, of no sync
TYPE, its own on either port, of a better leader, of a worse one, for a follower; at hop 31. -/
theorem witness_spanRing : (spanDev 2 E.spanState.LEADING).spanLeading = true ∧ (spanDev 1 E.spanState.LOCKED).spanLeading = false
    ∧ (∀ st ∈ [E.spanState.LEADING, E.spanState.LOCKED], (spanDev 1 st).mode M.span = true) ∧ d0.mode M.span = false
    ∧ (spanWith 2 E.spanState.LEADING (fun x => { x with sentAt := some 0, returned := true })).span.sentAt = some 0
    ∧ (spanWith 2 E.spanState.LEADING (fun x => { x with frameOpen := x.frameOpen.set none 1 (some true) })).span.frameOpen.get none 1
        = some true
    ∧ slice (syncOf 7) 0 96 = syncOf 7 ∧ fld (syncOf 7) 0 1 = 0xA5 ∧ fld (syncOf 7) 92 4 = crc32c ((syncOf 7).take 92)
    ∧ fld ((syncOf 7).set 5 9) 92 4 ≠ crc32c (((syncOf 7).set 5 9).take 92) ∧ fld ((syncOf 7).set 5 9) 1 1 ≠ 31
    ∧ fld (List.replicate 92 (0 : Byte) ++ le 4 (crc32c (List.replicate 92 0))) 0 1 ≠ 0xA5
    ∧ (spanDev 1 E.spanState.LOCKED).span.spare = none
    ∧ fld (syncOf 7) 2 1 ≠ (spanDev 2 E.spanState.LEADING).pv P.spanMemberId 0
    ∧ fld (syncOf (d0.pv P.spanMemberId 0)) 2 1 = (spanDev 2 E.spanState.LEADING).pv P.spanMemberId 0
    ∧ fld (syncOf (d0.pv P.spanMemberId 0)) 0 1 = 0xA5
    ∧ fld (syncOf (d0.pv P.spanMemberId 0)) 92 4 = crc32c ((syncOf (d0.pv P.spanMemberId 0)).take 92)
    ∧ (spanDev 2 E.spanState.LEADING).betterLeader (syncOf 7) = false
    ∧ (∃ p ∈ [0, 1, 2, 3, 4, 5, 6, 7], ((spanDev 2 E.spanState.LEADING).setP P.spanPriority 0 p).betterLeader
        ((le 1 0xA5 ++ le 1 1 ++ le 1 7 ++ le 1 9 ++ List.replicate 88 0)
          ++ le 4 (crc32c (le 1 0xA5 ++ le 1 1 ++ le 1 7 ++ le 1 9 ++ List.replicate 88 0))) = true) := by
  refine ⟨?_, ?_, ?_, ?_, ?_, ?_, ?_, ?_, ?_, ?_, ?_, ?_, ?_, ?_, ?_, ?_, ?_, ?_, ?_⟩ <;> decide +kernel

/-- A frame that is new and one that is not, with the primary copy seen lately, long ago and not at all; hops below 31 and
at 31; a probe and its echo; a turn for a slot; a silence to the picosecond; the clock's sources. -/
theorem witness_spanRing_copies : (spanDev 1 E.spanState.LOCKED).newFrame (syncOf 7) = true
    ∧ (spanWith 1 E.spanState.LOCKED (fun x => { x with last := some (syncInfo (syncOf 7)), leader := some (7, 0) })).newFrame (syncOf 7) = false
    ∧ (spanDev 1 E.spanState.LOCKED).span.primaryAt = none ∧ (spanDev 1 E.spanState.LOCKED).span.primaryBad = false
    ∧ (spanWith 1 E.spanState.LOCKED (fun x => { x with primaryAt := some 0 })).span.primaryAt = some 0
    ∧ (spanWith 1 E.spanState.LOCKED (fun x => { x with primaryAt := some 0 })).now ≤ 0 + us 1
    ∧ (syncOf 7).length = 96 ∧ fld (syncOf 7) 1 1 < 31 ∧ fld ((syncOf 7).set 1 31) 1 1 = 31
    ∧ (∀ ty ∈ [0x11, 0x12], fld (slice (slotOf ty 0) 0 16) 14 2 = crc16 ((slice (slotOf ty 0) 0 16).take 14)
      ∧ fld (slice (slotOf ty 0) 0 16) 0 1 = ty ∧ fld (slice (slotOf ty 0) 0 16) 2 2 = 0)
    ∧ (spanWith 1 E.spanState.LOCKED (fun x => { x with probes := x.probes.set none 1 (some (0, 0)) })).span.probes.get none 1 = some (0, 0)
    ∧ (d0.span.hops.get (0, 0) 0).1 < 15
    ∧ (spanDev 1 E.spanState.LOCKED).span.slots.get [] 0 = [] ∧ (spanDev 1 E.spanState.LOCKED).span.probeAt.get none 0 = none
    ∧ ((spanWith 1 E.spanState.LOCKED (fun x => { x with frameOpen := x.frameOpen.set none 0 (some true) })).at' (us 1)).slotTurn 0 = true
    ∧ (spanDev 1 E.spanState.LOCKED).span.lastValid + us ((spanDev 1 E.spanState.LOCKED).pv P.spanLossUs 0) ≤ us 100000
    ∧ (spanDev E.spanRole.FOLLOWER E.spanState.LOCKED).pv P.spanRole 0 = E.spanRole.FOLLOWER
    ∧ (spanDev E.spanRole.LEADER E.spanState.SEARCH).pv P.spanRole 0 ≠ E.spanRole.FOLLOWER
    ∧ (spanDev E.spanRole.LEADER E.spanState.SEARCH).spanLeading = false
    ∧ (dev [(P.rstRefSel, 0, 3), (P.spanRefSrc, 0, E.spanRefSrc.PORT_A)]).pv P.spanRefSrc 0 ≠ E.spanRefSrc.MEMS := by
  refine ⟨?_, ?_, ?_, ?_, ?_, ?_, ?_, ?_, ?_, ?_, ?_, ?_, ?_, ?_, ?_, ?_, ?_, ?_, ?_, ?_⟩ <;> decide +kernel

/-- Encoder 0 with the standard given. -/
def encDev (std : Nat) (g : Enc → Enc) : Dev := (dev [(P.posEncStandard, 0, std)]).setEnc 0 (g Enc.reset)

/-- A step of A and one of B at the end of the filter time, both inputs within one interval and one interval apart, none; a
rising Z edge; an open wire on each standard; flags whose condition has ended. -/
theorem witness_encoders :
    (encDev E.posEncStandard.RS422 id).pv P.posEncStandard 0 ≠ E.posEncStandard.OFF
    ∧ (encDev E.posEncStandard.OFF id).pv P.posEncStandard 0 = E.posEncStandard.OFF
    ∧ (∀ c ∈ [(true, false), (false, true), (true, true), (false, false)],
      decoderIn (encDev 1 id) 0 c.1 c.2 0 5000000 = ((c.1, 0), (c.2, 5000000)))
    ∧ ((encDev 1 id).enc 0).a = false ∧ ((encDev 1 id).enc 0).b = false
    ∧ 0 + 1000 * (encDev 1 id).pv P.posEncFilterNs 0 < 5000000
    ∧ Nat.max 0 0 ≤ Nat.min 0 0 + 1000 * (encDev 1 id).pv P.posEncFilterNs 0
    ∧ quadStep false false true false ≠ 0 ∧ ((encDev 1 id).enc 0).d1 = 0
    ∧ 20000 ≤ Nat.max 20000 0 - ((encDev 1 (fun x => { x with d1 := 1 })).enc 0).t1
    ∧ (true != bit ((encDev 1 id).pv P.posEncInvert 0) 2) = true ∧ ((encDev 1 id).enc 0).z = false
    ∧ ((encDev 1 (fun x => { x with zAt := some 0 })).enc 0).zAt = some 0
    ∧ ((encDev 1 id).setP P.posEncZPeriod 0 4).pv P.posEncZPeriod 0 ≠ 0
    ∧ (∀ st ∈ [E.posEncStandard.RS422, E.posEncStandard.HTL], (encDev st id).encLos 0 = false)
    ∧ (encDev E.posEncStandard.TTL id).pv P.posEncStandard 0 = E.posEncStandard.TTL
    ∧ ((encDev 1 (fun x => { x with fastEnd := some 0, losEnd := some 0 })).enc 0).losEnd = some 0 := by
  refine ⟨?_, ?_, ?_, ?_, ?_, ?_, ?_, ?_, ?_, ?_, ?_, ?_, ?_, ?_, ?_, ?_, ?_⟩ <;> decide +kernel


/-! ## Axes, triggers, field inputs and outputs -/

/-- Axis 0 of encoder 0, stream 0's POSITION generator on it with a pitch of one count. -/
def axDev (l : List (Nat × Nat × Nat)) (v : Int) : Dev :=
  ((dev ([(P.posEncStandard, 0, 1), (P.posAxisMembers, 0, 1), (P.trigMode, 0, E.trigMode.POSITION), (P.trigPitch, 0, 65536),
    (P.trigRearm, 0, E.trigRearm.NONE)] ++ l)).setAxis 0 { Axis.reset with v := v, spanOk := true }).setStream 0
      { Stream.reset with running := true }

/-- SLIP set with its event cleared; a span axis that follows; a point before and within the lead; too close to the last. -/
theorem witness_axesAndTriggers :
    (axDev [(P.posAxisStatus, 0, 2 ^ slipBit)] 0).axisBit 0 slipBit = true ∧ bit ((axDev [] 0).pv P.posAxisEvents 0) slipBit = false
    ∧ ((axDev [] 0).axis 0).spanOk = true ∧ (∀ e ∈ (axDev [] 0).members 0, (axDev [] 0).encLos e = false)
    ∧ (axDev [] 0).axisDead 0 = false ∧ (axDev [] 0).follows 0 = false
    ∧ (axDev [] 0).axisBit 0 slipBit = false
    ∧ (axDev [(P.modeWord, 0, 2 ^ M.span), (P.spanAxisMask, 0, 1)] 0).follows 0 = true
    ∧ (axDev [(P.modeWord, 0, 2 ^ M.span), (P.spanAxisMask, 0, 1)] 0).spanLocked = false
    ∧ (axDev [] 65536).trigLive 0 = true ∧ (axDev [] 65536).pv P.trigMode 0 = E.trigMode.POSITION
    ∧ (axDev [] 65536).axisStops ((axDev [] 65536).at' 0 |>.nextGrid 0).1 = false
    ∧ ((axDev [] 65536).at' 0).nextPoint 0 = some 65536
    ∧ ((axDev [] 65536).at' 0).holdPlaced 0 65536 = false ∧ ((axDev [] 65536).at' 0).nextGrid 0 = (0, 0, 65536)
    ∧ ((axDev [] 65536).at' 0).pointAt 0 65536 = some 15258789
    ∧ Nat.max (axDev [] 65536).now 0 + 1000 * (axDev [] 65536).pv P.trigLeadNs 0 < 15258789
    ∧ ((axDev [] 1000000).at' 0).pointAt 0 65536 = some 1000000
    ∧ 1000000 ≤ Nat.max (axDev [] 1000000).now 0 + 1000 * (axDev [] 1000000).pv P.trigLeadNs 0
    ∧ (axDev [] 0).loopOf ((axDev [] 0).headOf 0) ≠ E.laneLoop.FAR ∧ ((axDev [] 1000000).trig 0).lastTarget = none
    ∧ (((axDev [(P.trigMinIntervalNs, 0, 1001)] 1000000).setTrig 0 { Trig.reset with lastTarget := some 0 }).trig 0).lastTarget = some 0
    ∧ 1000000 < 0 + 1000 * (axDev [(P.trigMinIntervalNs, 0, 1001)] 0).pv P.trigMinIntervalNs 0
    ∧ (axDev [] 0).trigLive 1 = false := by
  refine ⟨?_, ?_, ?_, ?_, ?_, ?_, ?_, ?_, ?_, ?_, ?_, ?_, ?_, ?_, ?_, ?_, ?_, ?_, ?_, ?_, ?_, ?_⟩ <;> decide +kernel

/-- The same axis on a follower that has locked, by the leader's last frame; a check that is due and one that is not. -/
def followDev : Dev :=
  let d := axDev [(P.modeWord, 0, 2 ^ M.span), (P.spanAxisMask, 0, 1), (P.spanState, 0, E.spanState.LOCKED)] 0
  { d with span := { d.span with last := some (syncInfo (syncOf 7)) } }

theorem witness_axesAndTriggers_span : followDev.follows 0 = true ∧ followDev.span.last = some (syncInfo (syncOf 7))
    ∧ followDev.spanLocked = true ∧ (followDev.axis 0).spanDead = false ∧ ((axDev [] 0).at' 0).rates 0 = (0, 0)
    ∧ ((axDev [(P.trigMode, 0, E.trigMode.TIME)] 0).trigLive 0 && (axDev [(P.trigMode, 0, E.trigMode.INPUT)] 0).trigLive 0) = true
    ∧ (∀ m ∈ [E.trigMode.POSITION, E.trigMode.TIME],
      ((d0.setTrig 0 { Trig.reset with checks := [(5, 0, 0, m)] }).trig 0).checks = [(5, 0, 0, m)]) := by
  refine ⟨?_, ?_, ?_, ?_, ?_, ?_, ?_⟩ <;> decide +kernel

/-- Output `o`, what it does and what else it holds, with VFIELD in range. -/
def foDev (l : List (Nat × Nat × Nat)) (g : FieldOut → FieldOut) : Dev :=
  let d := dev l
  ({ d with rst := { d.rst with vfieldOk := true, vfieldMv := 24000 } }).setFout 0 (g FieldOut.reset)

/-- Stream 0's axis behind marker output 0, which passed the point -65536 last, on a device whose VFIELD is in range. -/
def markDev (l : List (Nat × Nat × Nat)) : Dev :=
  let d := axDev ((P.foFunction, 0, E.foFunction.MARKER) :: l) 0
  ({ d with rst := { d.rst with vfieldOk := true, vfieldMv := 24000 } }).setFout 0
    { FieldOut.reset with high := some (-65536), kept := .released }

theorem witness_fieldInputsAndOutputs : (d0.fin 0).level = false
    ∧ 0 + us (d0.pv P.fiDebounceUs 0) ≤ us 1000 ∧ 0 < us 1000
    ∧ d0.pv P.fiEvent 0 = E.fiEvent.NONE ∧ (dev [(P.fiEvent, 0, E.fiEvent.BOTH)]).pv P.fiEvent 0 = E.fiEvent.BOTH
    ∧ d0.inP E.pwrState.P4 = false ∧ (∀ st < 64, (dev [(P.fiEvent, 0, E.fiEvent.BOTH)]).pv P.trigMode st ≠ E.trigMode.INPUT)
    ∧ (dev [(P.fiEvent, 0, E.fiEvent.BOTH), (P.duxHevSrc, 0, 72)]).listened 72 = true
    ∧ (∀ l ∈ [[], [(P.modeWord, 0, 2 ^ M.hold)]], (markDev l).axisStops ((markDev l).pv P.foSource 0) = false
      ∧ (((markDev l).at' 0).markerPassed 0).isSome = true ∧ (markDev l).foLive 0 = true)
    ∧ (markDev []).foHeld = false ∧ (markDev [(P.modeWord, 0, 2 ^ M.hold)]).foHeld = true
    ∧ (foDev [(P.foFunction, 0, E.foFunction.STROBE), (P.trigMode, 0, E.trigMode.TIME)] id).pv P.foFunction 0 = E.foFunction.STROBE
    ∧ (foDev [(P.foFunction, 0, E.foFunction.STROBE), (P.trigMode, 0, E.trigMode.TIME)] id).pv P.trigMode
        ((foDev [(P.foFunction, 0, E.foFunction.STROBE)] id).pv P.foSource 0) ≠ E.trigMode.FREE
    ∧ (foDev [] (fun x => { x with due := [5], kept := .released })).foLive 0 = true
    ∧ ((foDev [] (fun x => { x with due := [5], kept := .released })).fout 0).due = [5]
    ∧ ((foDev [] (fun x => { x with pulse := some 5 })).fout 0).pulse = some 5
    ∧ ((foDev [] (fun x => { x with kept := .holding })).fout 0).kept = .holding
    ∧ ((foDev [] (fun x => { x with kept := .holding })).fout 0).holdEnd ≤ ((foDev [] id).at' 0).rt
    ∧ (foDev [] id).rst.vfieldOk = true ∧ 5000 ≤ (foDev [] id).rst.vfieldMv
    ∧ (8999 < 9000 ∨ 33000 < 8999) ∧ d0.rst.vfieldOk = false ∧ ((foDev [] id).fout 0).shut = false
    ∧ (foDev [] id).isComplement 0 = false := by
  refine ⟨?_, ?_, ?_, ?_, ?_, ?_, ?_, ?_, ?_, ?_, ?_, ?_, ?_, ?_, ?_, ?_, ?_, ?_, ?_, ?_, ?_, ?_, ?_, ?_⟩ <;> decide +kernel

/-! ## Meridian -/

/-- The seal in a state, the adjustment pin, and what else Meridian holds. -/
def sealDev (st : Nat) (g : Mer → Mer) : Dev :=
  let d := dev [(P.merSealState, 0, st)]
  { d with mer := g d.mer }

/-- Each seal state before each edge of SEAL_ADJ_N; the trail with room for two entries and for one. -/
theorem witness_meridianSeal_pin : d0.mer.sealPin = false
    ∧ (sealDev E.merSealState.UNSEALED id).seal = E.merSealState.UNSEALED
    ∧ (sealDev E.merSealState.SEALED id).sealClosed = true ∧ (sealDev E.merSealState.ADJUSTING id).sealClosed = false
    ∧ (sealDev E.merSealState.SEALED (fun x => { x with audit := List.replicate 1918 [] })).auditFree = 2
    ∧ (sealDev E.merSealState.SEALED (fun x => { x with audit := List.replicate 1919 [] })).auditFree < 2
    ∧ (sealDev E.merSealState.ADJUSTING (fun x => { x with sealPin := true })).adjusting = true
    ∧ (sealDev E.merSealState.SEALED (fun x => { x with sealPin := true })).adjusting = false
    ∧ sealHeld d0 0 (ms 10) ∧ ¬ sealHeld d0 0 (ms 10 - 1) := by
  refine ⟨?_, ?_, ?_, ?_, ?_, ?_, ?_, ?_, ?_, ?_⟩ <;> first | decide +kernel | (unfold sealHeld; decide +kernel)

/-- A length channel's mode, LEGAL in force, and a record in progress; one axis that follows, one with every slot taken. -/
def lenDev (m : Nat) (o : Option OpenLen) : Dev :=
  (dev [(P.merLenMode, 0, m), (P.modeWord, 0, 2 ^ M.legal)]).setOpen 0 o

theorem witness_meridianSeal_length : d0.mer.lenLevel.get false 0 = false
    ∧ (∀ m ∈ [E.merLenMode.OFF, E.merLenMode.INTERVAL, E.merLenMode.SHEET, E.merLenMode.COIL], (lenDev m none).pv P.merLenMode 0 = m)
    ∧ (true == ((lenDev 1 none).pv P.merLenPolarity 0 == E.merLenPolarity.HIGH)) = true
    ∧ ((lenDev 1 (some ⟨5, 0⟩)).openLenOf 0).isSome = true ∧ (lenDev 1 none).openLenOf 0 = none
    ∧ (lenDev 1 none).mode M.legal = true ∧ (lenDev 1 none).follows ((lenDev 1 none).pv P.merLenAxis 0) = false
    ∧ (lenDev 1 none).mer.starved.get false 0 = false ∧ d0.mer.erased = false ∧ d0.slotFree = true
    ∧ (lenDev 1 none).mer.due = [] ∧ (lenDev 1 (some ⟨5, 0⟩)).mer.due = [] ∧ (∀ c, d0.mer.lenRaw.get none c = none)
    ∧ (dev [(P.modeWord, 0, 2 ^ M.span), (P.spanAxisMask, 0, 1)]).follows (d0.pv P.merLenAxis 0) = true
    ∧ d0.pv P.merRecordSeq 0 < 2 ^ 32 ∧ d0.mer.records.get [] ((d0.pv P.merRecordSeq 0 + 2 ^ 32 - 1) % 2 ^ 32 % 1280) = []
    ∧ 0 + us (d0.pv P.merLenDebounceUs 0) ≤ us 1000000 ∧ 0 < us (d0.pv P.merLenDebounceUs 0)
    ∧ (dev [(P.merRecordSeq, 0, 1280)]).slotFree = false ∧ (dev [(P.merRecordSeq, 0, 1280)]).mer.erased = false
    ∧ (dev [(P.merRecordSeq, 0, 1280)]).mer.records.get [] ((1280 + 2 ^ 32 - 1) % 2 ^ 32 % 1280) = [] := by
  refine ⟨?_, ?_, ?_, ?_, ?_, ?_, ?_, ?_, ?_, ?_, ?_, ?_, fun _ => rfl, ?_, ?_, ?_, ?_, ?_, ?_, ?_, ?_⟩ <;> decide +kernel

/-- A registered quad whose nibs hold a program of the registered digest, and one whose nibs hold none. -/
def quadDev : Dev :=
  let p : Prog := ⟨[], [], [], []⟩
  let d := dev ((P.merQuadIndex, 0, 0) :: (List.range 4).map (fun i => (P.merQuadDigest, i, fld (sha256 []) (8 * i) 8)))
  (List.range 4).foldl (fun d i => d.setNib i { Nib.reset with prog := some p }) d

theorem witness_meridianSeal_quad : quadDev.quadRegistered = true ∧ d0.quadRegistered = false
    ∧ (∀ i < 4, quadDev.nibDigest (quadDev.pv P.merQuadIndex 0) i = quadDev.regDigest)
    ∧ (∃ i < 4, (dev [(P.merQuadIndex, 0, 0)]).nibDigest 0 i ≠ (dev [(P.merQuadIndex, 0, 0)]).regDigest)
    ∧ (dev [(P.merQuadIndex, 0, 0)]).quadRegistered = true
    ∧ (∀ n ∈ quadNibs (quadDev.pv P.merQuadIndex 0), quadDev.nibSt n ≠ E.nibState.LOADING)
    ∧ (∀ n ∈ quadNibs 0, (dev [(P.merQuadIndex, 0, 0)]).nibSt n ≠ E.nibState.LOADING)
    ∧ (∃ n ∈ quadNibs 0, (quadDev.setP P.nibState 3 E.nibState.LOADING).nibSt n = E.nibState.LOADING)
    ∧ d0.mer.attestAt + secs 1 ≤ secs 1 := by
  refine ⟨?_, ?_, ?_, ?_, ?_, ?_, ?_, ?_, ?_⟩ <;> decide +kernel

/-- An adjustment of a sealed parameter and of another, with an instance and a value in and out of range; a record read. -/
def adjPay (id inst v : Nat) : Bytes := le 2 id ++ le 2 inst ++ le 4 0 ++ le 8 v

theorem witness_meridianCommands :
    (∀ c ∈ [(P.posAxisScaleNum, 0, 1), (P.posAxisScaleNum, 3, 1), (P.posAxisScaleNum, 4, 1), (P.nibHangUs, 0, 1), (0xFFFF, 0, 0)],
      MayRun (asked d0 16 0x61 (adjPay c.1 c.2.1 c.2.2)) 16 0x61 (rq 16 0x61 (adjPay c.1 c.2.1 c.2.2)))
    ∧ adjustIds.contains P.posAxisScaleNum = true ∧ adjustIds.contains P.nibHangUs = false
    ∧ (paramRow P.posAxisScaleNum).any (fun r => decide (r.inst = 4) && r.accepts 1) = true
    ∧ d0.sealCode 1 = C.ok ∧ (sealDev E.merSealState.SEALED id).sealCode 1 ≠ C.ok
    ∧ (d0.setP P.posAxisScaleNum 0 1).calKeys.length ≤ 252
    ∧ (∀ op ∈ [0x60, 0x66], MayRun (asked d0 16 op (List.replicate 8 0)) 16 op (rq 16 op (List.replicate 8 0)))
    ∧ (∀ q ∈ [23, 24], MayRun (asked d0 16 0x62 (le 16 q ++ List.replicate 32 0)) 16 0x62 (rq 16 0x62 (le 16 q ++ List.replicate 32 0)))
    ∧ MayRun (asked d0 0 0x67 (List.replicate 96 0)) 0 0x67 (rq 0 0x67 (List.replicate 96 0)) :=
  ⟨all_of (fun _ => runs_of) (by decide +kernel), by decide +kernel, by decide +kernel, by decide +kernel, by decide +kernel,
    by decide +kernel, by decide +kernel, all_of (fun _ => runs_of) (by decide +kernel), all_of (fun _ => runs_of) (by decide +kernel),
    runs_of (by decide +kernel)⟩

/-- Records 0 and 1 stored: both, the last alone, none; an acknowledgement of what is stored and of what is not. -/
def recDev : Dev :=
  let d := dev [(P.merRecordSeq, 0, 2)]
  { d with mer := { d.mer with records := (d.mer.records.set [] 0 (List.replicate 64 0)).set [] 1 (le 4 0 ++ le 4 1 ++ List.replicate 56 0) } }

theorem witness_meridianRecords : (recDev.recordAt 0).isSome = true ∧ (recDev.recordAt 1).isSome = true ∧ recDev.recordAt 2 = none
    ∧ (∀ n ∈ [0, 1, 2], MayRun (asked recDev 0 0x64 (le 8 n)) 0 0x64 (rq 0 0x64 (le 8 n)))
    ∧ (∀ n ∈ [0, 1, 2], MayRun (asked recDev 0 0x65 (le 8 n)) 0 0x65 (rq 0 0x65 (le 8 n)))
    ∧ 0 < ofTwos 32 (recDev.pv P.merRecordSeq 0 + 2 ^ 32 - 1) ∧ ofTwos 32 (recDev.pv P.merRecordSeq 0 + 2 ^ 32 - 2) ≤ 0
    ∧ 0 ≤ ofTwos 32 (1 + 2 ^ 32 - recDev.mer.acked) :=
  ⟨by decide +kernel, by decide +kernel, by decide +kernel, all_of (fun _ => runs_of) (by decide +kernel),
    all_of (fun _ => runs_of) (by decide +kernel), by decide +kernel, by decide +kernel, by decide +kernel⟩


/-! ## Nibs, tiles and programs -/

/-- Nib 5 in a state with a program, and what else it holds; the tiles in flight. -/
def lifeDev (l : List (Nat × Nat × Nat)) (g : Nib → Nib) (ts : List Tile) : Dev :=
  { (dev ([(P.nibState, 5, E.nibState.IDLE), (P.nibSlot, 5, 0)] ++ l)).setNib 5
      (g { Nib.reset with prog := some (progOf [0]), slot := 0 }) with tiles := ts }

def tileOf (st : TileSt) : Tile := tile9 1 st

/-- Program of slot 0 with POOL_SPLIT. -/
def splitProg : Prog := ⟨List.replicate 6 0 ++ le 2 1, [], [], []⟩

/-- A tile dispatched and not; a nib that reloads and not, alone and with its quad, the same load and another; LOADING; a
march test; a park. -/
theorem witness_nibLifecycle :
    (∀ st ∈ [E.nibState.IDLE, E.nibState.PARKED], (lifeDev [(P.nibState, 5, st)] (fun x => { x with bufB := some 9 }) []).nibSt 5 = st)
    ∧ ((lifeDev [] (fun x => { x with bufB := some 9 }) []).nib 5).nextBuf = some true
    ∧ ((lifeDev [] (fun x => { x with bufA := some 9 }) []).nib 5).nextBuf = some false
    ∧ ((lifeDev [] (fun x => { x with bufA := some 9 }) []).nib 5).running = false
    ∧ ((lifeDev [] (fun x => { x with bufA := some 9 }) []).nib 5).reload = false
    ∧ ((lifeDev [] (fun x => { x with bufA := some 9 }) []).nib 5).prog = some (progOf [0])
    ∧ ((lifeDev [] id []).nib 5).nextBuf = none
    ∧ (lifeDev [] (fun x => { x with reload := true }) []).mayReload 5 = true
    ∧ (lifeDev [] (fun x => { x with reload := true }) []).sameReload 5 = false
    ∧ (lifeDev [] (fun x => { x with reload := true, prog := some splitProg }) []).sameReload 5 = true
    ∧ (lifeDev [] (fun x => { x with slot := 1 }) []).mayReload 5 = true
    ∧ (lifeDev [] (fun x => { x with slot := 1 }) []).quadReload 5 = false
    ∧ (lifeDev [] (fun x => { x with slot := 1, prog := some splitProg }) []).mayReload 5 = true
    ∧ (lifeDev [] (fun x => { x with slot := 1, prog := some splitProg }) []).quadReload 5 = true
    ∧ (lifeDev [] (fun x => { x with slot := 1, bufA := some 9 }) []).mayReload 5 = false
    ∧ (lifeDev [(P.nibState, 5, E.nibState.LOADING)] id []).nibSt 5 = E.nibState.LOADING
    ∧ (lifeDev [(P.nibState, 5, E.nibState.LOADING)] id []).pv P.nibSlot 5 < 32
    ∧ (((lifeDev [(P.nibState, 5, E.nibState.LOADING)] id []).setMb 0 { Mailbox.reset with st := .running, wait := .nib 5 }).mb 0).wait
        = .nib 5
    ∧ ((lifeDev [(P.nibState, 5, E.nibState.FENCED)] (fun x => { x with marching := true }) []).nib 5).marching = true
    ∧ (lifeDev [(P.nibState, 5, E.nibState.FENCED)] (fun x => { x with marching := true }) []).nibSt 5 = E.nibState.FENCED := by
  refine ⟨?_, ?_, ?_, ?_, ?_, ?_, ?_, ?_, ?_, ?_, ?_, ?_, ?_, ?_, ?_, ?_, ?_, ?_, ?_, ?_⟩ <;> decide +kernel

/-- QUIET, nib 5 IDLE since the start; nib 5 BUSY with tile 9, to the picosecond of its times, first and at its last replay. -/
def quietDev : Dev := dev [(P.modeWord, 0, 2 ^ M.quiet), (P.nibState, 5, E.nibState.IDLE)]
def busyDev (l : List (Nat × Nat × Nat)) : Dev :=
  lifeDev ((P.nibState, 5, E.nibState.BUSY) :: l) (fun x => { x with bufA := some 9, running := true }) [tileOf (.inNib 5)]

theorem witness_nibLifecycle_times : quietDev.mode M.quiet = true ∧ quietDev.nibSt 5 = E.nibState.IDLE
    ∧ (quietDev.nib 5).held = [] ∧ (quietDev.nib 5).halted = false ∧ quietDev.tiles = [] ∧ quietDev.needsReload 5 = false
    ∧ (quietDev.nib 5).idleSince + us (quietDev.pv P.modeQuietParkUs 0) ≤ us 1000000 ∧ quietDev.mode M.legal = false
    ∧ (busyDev []).nibSt 5 = E.nibState.BUSY ∧ ((busyDev []).nib 5).running = true ∧ ((busyDev []).nib 5).halted = false
    ∧ ((busyDev []).nib 5).cur = some 9 ∧ ((busyDev []).nib 5).held = [9]
    ∧ ((busyDev []).nib 5).lastInstr + us ((busyDev []).pv P.nibHangUs 0) ≤ us 1000
    ∧ 0 < ((busyDev []).nib 5).lastInstr + us ((busyDev []).pv P.nibHangUs 0)
    ∧ ((busyDev []).nib 5).sentA + us ((busyDev []).pv P.ephTileTimeoutUs 0) ≤ us 10000000
    ∧ ((busyDev []).nib 5).bufA.isSome = true ∧ (busyDev []).nibSt 5 ≠ E.nibState.FENCED
    ∧ (busyDev []).tile 9 = some (tileOf (.inNib 5)) ∧ (tileOf (.inNib 5)).released = 0
    ∧ (tileOf (.inNib 5)).replays < (busyDev []).pv P.ephReplayLimit 0
    ∧ (busyDev [(P.ephReplayLimit, 0, 0)]).pv P.ephReplayLimit 0 ≤ (tileOf (.inNib 5)).replays ∧ (busyDev []).regQuad = none := by
  refine ⟨?_, ?_, ?_, ?_, ?_, ?_, ?_, ?_, ?_, ?_, ?_, ?_, ?_, ?_, ?_, ?_, ?_, ?_, ?_, ?_, ?_, ?_, ?_⟩ <;> decide +kernel

theorem witness_nibReset : (∀ n ∈ [95, 96], MayRun (asked d0 0 0x42 (le 8 n)) 0 0x42 (rq 0 0x42 (le 8 n)))
    ∧ d0.nibSt 95 ≠ E.nibState.FENCED ∧ (dev [(P.nibState, 95, E.nibState.FENCED)]).nibSt 95 = E.nibState.FENCED :=
  ⟨all_of (fun _ => runs_of) (by decide +kernel), by decide +kernel, by decide +kernel⟩

/-- Nib 5 bound to slot 0, which holds its program as the nib does, in a domain that runs. -/
def takesDev (l : List (Nat × Nat × Nat)) (ts : List Tile) : Dev :=
  let d := lifeDev ((P.ephState, 0, E.ephState.RUNNING) :: l) (fun x => { x with loadNo := 0 }) ts
  { d.setSlot 0 { Slot.reset with active := some (progOf [0]) } with acc := d.acc.set (pdef (pkey P.nibSlot 5 0)) (pkey P.nibSlot 5 0) 0 }

/-- A line of 16 samples, whole in its frame, and the settings of that frame. -/
def sline : SLine := ⟨⟨⟨0, 0, 0, 0, 0, 0, 0, none, 0, 0⟩, [List.replicate 16 0]⟩, 16, true, true, true, true, false, 0⟩
def cutDev (mib : Nat) (ts : List Tile) : Dev :=
  { (dev [(P.ephState, 0, E.ephState.RUNNING)]).setSeqn 0
      { Seqn.reset with lines := [sline], cfgs := [⟨0, 0, some (progOf [0]), 0, 0, 0, [], 0⟩] } with tiles := ts, folioMib := mib }

/-- A line to cut with a free slot and its footprint free, with no slot, with no footprint; no line. -/
theorem witness_tilesAndPrograms_cut :
    (cutDev 16 []).pv P.ephState 0 = E.ephState.RUNNING ∧ ((cutDev 16 []).seqn 0).gap = none
    ∧ ((cutDev 16 []).seqn 0).stalled = false
    ∧ ((cutDev 16 []).seqn 0).lines[((cutDev 16 []).seqn 0).pos]? = some sline
    ∧ ((cutDev 16 []).seqn 0).cfgs.find? (fun c => c.frame == sline.line.info.frame) = some ⟨0, 0, some (progOf [0]), 0, 0, 0, [], 0⟩
    ∧ (progOf [0]).marginY = 0 ∧ coreH 0 (progOf [0]) = 1 ∧ sline.frameLast = true
    ∧ (cutDev 16 []).tiles.length < 1024 ∧ 1024 ≤ (cutDev 16 (List.replicate 1024 (tileOf .waiting))).tiles.length
    ∧ (cutDev 16 []).folioFit (ceilDiv (256 + inputBytes (Nat.min (coreW 0 (progOf [0]) 16) (16 - 0)) 1
        (progOf [0]).marginX 0 (sampleBytes 16) 1) 4096) = some 0
    ∧ (cutDev 0 []).folioFit (ceilDiv (256 + inputBytes (Nat.min (coreW 0 (progOf [0]) 16) (16 - 0)) 1
        (progOf [0]).marginX 0 (sampleBytes 16) 1) 4096) = none
    ∧ (d0.seqn 0).lines = [] := by
  refine ⟨?_, ?_, ?_, ?_, ?_, ?_, ?_, ?_, ?_, ?_, ?_, ?_, ?_⟩ <;> decide +kernel

/-- A tile that a nib takes, with room for its result and without, read whole and with a bad descriptor. -/
theorem witness_tilesAndPrograms_dispatch :
    (takesDev [] [tileOf .waiting]).goesTo 5 (tileOf .waiting) = true ∧ (tileOf .waiting).waits = true
    ∧ (takesDev [] [tileOf .waiting]).pv P.ephState 0 = E.ephState.RUNNING
    ∧ ((takesDev [] [tileOf .waiting]).nib 5).prog = some (progOf [0])
    ∧ ((takesDev [] [tileOf .waiting]).nib 5).bufA = none
    ∧ (takesDev [] []).reservedOn 0 + Nat.min ((takesDev [] []).resultWords 0 (progOf [0])) ((takesDev [] []).qLimit 0)
        ≤ (takesDev [] []).qFree 0
    ∧ ((takesDev [] []).setQueue 0 { Queue.reset with words := List.replicate ((takesDev [] []).qCap 0) ⟨[], true, false, false, 0⟩ }).qFree 0
        < (takesDev [] []).reservedOn 0 + Nat.min ((takesDev [] []).resultWords 0 (progOf [0])) ((takesDev [] []).qLimit 0)
    ∧ (((takesDev [] [tileOf .waiting]).at' 0).readTile (tileOf .waiting) [] []).2.isSome = true
    ∧ (((takesDev [] [tileOf .waiting]).at' 0).readTile (tileOf .waiting) [(0, [1, 1] ++ List.replicate 33 0)] []).2 = none := by
  refine ⟨?_, ?_, ?_, ?_, ?_, ?_, ?_, ?_, ?_⟩ <;> decide +kernel

def doneTile : Tile := { tileOf .done with result := some ⟨outDone, List.replicate 64 0, [], [], 0⟩ }
def runDev (l : List (Nat × Nat × Nat)) (ts : List Tile) : Dev :=
  { dev ((P.ephState, 0, E.ephState.RUNNING) :: l) with tiles := ts }

/-- A tile at its turn done, missing, waiting, none; room in its queue and none; its staging read well and badly; records
that wait; its first bytes; progress that fails and does not; a slot that nothing uses. -/
theorem witness_tileCommits : (runDev [] [doneTile]).headTile 0 = some doneTile
    ∧ (runDev [] [tileOf (.gap 1)]).headTile 0 = some (tileOf (.gap 1)) ∧ d0.headTile 0 = none
    ∧ (runDev [] [tileOf .waiting]).headTile 0 = some (tileOf .waiting) ∧ (tileOf .waiting).waits = true
    ∧ (runDev [] [doneTile]).pv P.ephState 0 = E.ephState.RUNNING ∧ d0.pv P.ephState 0 ≠ E.ephState.RESETTING
    ∧ (∀ T ∈ [doneTile, tileOf (.gap 1), tileOf .waiting], (runDev [] [T]).qTakes 0 T.words = true)
    ∧ ((runDev [] [doneTile]).setQueue 0 { Queue.reset with
        words := List.replicate (d0.qCap 0) ⟨[], true, false, false, 0⟩ }).qTakes 0 doneTile.words = false
    ∧ (((runDev [] [doneTile]).at' 0).readStaging []).2.1 = false
    ∧ (((runDev [] [doneTile]).at' 0).readStaging [(0, 0, [1, 1] ++ List.replicate 33 0)]).2.1 = true
    ∧ ((((d0.setSeqn 0 { Seqn.reset with late := [List.replicate 32 0] }).setQueue 0 { Queue.reset with
        words := List.replicate (d0.qCap 0) ⟨[], true, false, false, 0⟩ }).flushLate 0).seqn 0).late ≠ []
    ∧ ((runDev [] [doneTile]).seqn 0).late = [] ∧ ((runDev [] [doneTile]).seqn 0).gap = none
    ∧ ((d0.setSeqn 0 { Seqn.reset with gap := some ⟨0, 0, 0, none⟩ }).seqn 0).gap = some ⟨0, 0, 0, none⟩ := by
  refine ⟨?_, ?_, ?_, ?_, ?_, ?_, ?_, ?_, ?_, ?_, ?_, ?_, ?_, ?_, ?_⟩ <;> decide +kernel

theorem witness_tileCommits_cut :
    (runDev [(P.modeWord, 0, 2 ^ M.cutthru), (P.qCutThru, 0, 1)] [doneTile]).qCutNow 0 ≠ 0 ∧ (runDev [] [doneTile]).qCutNow 0 = 0
    ∧ (runDev [] [doneTile]).tile 9 = some doneTile ∧ doneTile.released < 32 / 32 * 32 ∧ 32 / 32 * 32 ≤ 64
    ∧ 2 + 32 / 32 * 32 / 32 - doneTile.sent ≤ (runDev [] [doneTile]).qFree 0
    ∧ ((takesDev [] [tileOf .waiting]).at' (ms 1)).noProgress = true ∧ (d0.at' (ms 1)).noProgress = false
    ∧ (takesDev [] [tileOf .waiting]).ephAt + ms 1 ≤ ms 1
    ∧ (∃ m < 21, ((asked d0 0 0x41 []).mb m).st = .queued ∧ (((asked d0 0 0x41 []).mb m).request m).op ∈ [0x0041, 0x0042])
    ∧ (takesDev [(P.nibState, 7, E.nibState.FENCED)] []).nibSt 7 = E.nibState.FENCED
    ∧ (takesDev [] []).nibSt 5 ≠ E.nibState.FENCED := by
  refine ⟨?_, ?_, ?_, ?_, ?_, ?_, ?_, ?_, ?_, ?_, ?_, ?_⟩ <;> decide +kernel

/-- A container: one word TDONE, BUDGET 1000, IMAGE_MAX 4096, RECORD_MAX 1 (R176). -/
def container : Bytes :=
  let h := [0x4E, 0x49, 0x42, 0x43] ++ le 2 1 ++ le 2 0 ++ le 4 8 ++ le 4 0 ++ le 4 0 ++ le 8 0 ++ le 4 1000 ++ le 4 4096
    ++ le 4 1 ++ List.replicate 84 0
  h ++ le 4 (crc32c (h ++ le 8 (nibWord 10 4 (fw 0 0)))) ++ le 8 (nibWord 10 4 (fw 0 0))

/-- PROGRAM_LOAD from a host buffer and from the program store. -/
def loadPay (slot src i : Nat) : Bytes := le 1 slot ++ le 1 src ++ le 1 i ++ le 1 0 ++ le 4 0 ++ le 8 0 ++ le 8 136

/-- FIELDED, with an owner program key fused. -/
def fieldedDev : Dev :=
  let d := dev [(P.secLc, 0, E.secLc.FIELDED), (P.secOwnerKeys, 0, 1)]
  { d with sec := { d.sec with keys := d.sec.keys.set [] 0 (List.replicate 32 1) } }

/-- Stream 0 runs, its tiles of slot 31 and its frame 6 next. -/
def slotDev (l : List (Nat × Nat × Nat)) : Dev :=
  (dev ((P.nibStreamSlot, 0, 31) :: l)).setStream 0 { Stream.reset with running := true, frameNo := 6 }

set_option maxRecDepth 100000 in
theorem witness_programLoad :
    (∀ c ∈ [(31, 0, 0), (32, 0, 0), (31, 2, 63), (31, 2, 64), (31, 1, 16)],
      MayRun (asked d0 0 0x41 (loadPay c.1 c.2.1 c.2.2)) 0 0x41 (rq 0 0x41 (loadPay c.1 c.2.1 c.2.2)))
    ∧ d0.source 0 0 136 (some container) [] = (d0, .bytes container) ∧ d0.source 0 0 136 none [] = (d0, .code C.busError)
    ∧ d0.source 1 0 136 none [] = (d0, .wait)
    ∧ (parseProg container).isSome = true ∧ parseProg [] = none
    ∧ (parseProg container).any (fun p => d0.progSigOk p) = true
    ∧ (parseProg container).any (fun p => fieldedDev.progSigOk p) = false
    ∧ d0.sealClosed = false ∧ (∀ q < 68, d0.seqSlot q ≠ 31) ∧ d0.tiles = [] ∧ (∀ q, (d0.seqn q).cfgs = [])
    ∧ (d0.slot 31).mid = [] ∧ (d0.slot 31).pending = none
    ∧ (parseProg container).any (fun p => (slotDev []).fitsWith 0 p && (slotDev []).asWritten.fitsWith 0 p) = true
    ∧ (parseProg container).any (fun p => (slotDev [(P.ephTileW, 0, 8192), (P.ephTileH, 0, 64)]).fitsWith 0 p) = false
    ∧ (slotDev []).seqSlot 0 = 31 ∧ (slotDev []).seqRunning 0 = true ∧ 5 < ((slotDev []).stream 0).frameNo
    ∧ ((slotDev []).stream 0).frameNo ≤ 6 :=
  ⟨all_of (fun _ => runs_of) (by decide +kernel), by decide +kernel, by decide +kernel, by decide +kernel, by decide +kernel,
    by decide +kernel, by decide +kernel, by decide +kernel, by decide +kernel, by decide +kernel, by decide +kernel, fun _ => rfl,
    by decide +kernel, by decide +kernel, by decide +kernel, by decide +kernel, by decide +kernel, by decide +kernel,
    by decide +kernel, by decide +kernel⟩

/-- A sealed device whose registered quad runs slot 31, with another digest than the program's. -/
def sealedQuad : Dev := (dev [(P.merSealState, 0, E.merSealState.SEALED), (P.merQuadIndex, 0, 0), (P.nibSlot, 0, 31)])

set_option maxRecDepth 100000 in
theorem witness_programLoad_sealed : sealedQuad.sealClosed = true ∧ sealedQuad.quadRegistered = true
    ∧ 31 ∈ sealedQuad.regSlots ∧ (parseProg container).any (fun p => p.digest != sealedQuad.regDigest) = true := by
  refine ⟨?_, ?_, ?_, ?_⟩ <;> decide +kernel

/-! ## Ductus, pacing, modes -/

def ev0 : Event := ⟨72, 0, 0, false, 0, 0⟩

theorem witness_eventsAndPacing : ownsDux .pf0 223 = true ∧ ownsDux .pf0 224 = false
    ∧ (dev [(P.duxSrc, 256, 0x100)]).duxIn 128 0 = 0x100 ∧ d0.duxIn 128 0 ≠ 0x100
    ∧ (d0.duct 128).div = 0 ∧ ((d0.setDuct 128 ⟨0, 1⟩).duct 128).div ≠ 0
    ∧ (72, ev0) ∈ ({ d0 with flight := [(72, ev0)] } : Dev).flight
    ∧ (dev [(P.duxHevSrc, 31, 72)]).pv P.duxHevSrc 31 = 72 ∧ (dev [(P.duxTapArm, 15, 72)]).pv P.duxTapArm 15 = 72
    ∧ (dev [(P.duxSrc, 510, 72)]).duxIn 255 0 = 72 ∧ (dev [(P.duxSrc, 510, 72)]).duxIn 255 1 ≠ 72
    ∧ 7 ≤ ({ ev0 with hop := 7 } : Event).hop ∧ ({ ev0 with hop := 6 } : Event).hop < 7
    ∧ (d0.droop 63).tripped = false ∧ d0.droopAt - 1 < d0.droopAt ∧ (d0.droop 63).clearAt = none
    ∧ ((d0.setDroop 63 (Droop.mk true none)).droop 63).tripped = true
    ∧ gateFollows 105 63 = true ∧ gateFollows 0 0 = false ∧ (d0.gate 105).before = none ∧ (d0.gate 105).tripAt = none
    ∧ (d0.gate 105).since + us 1 ≤ us 1 ∧ (dev [(P.paceLevel, 105, 7)]).pv P.paceLevel 105 < 8
    ∧ 8 ≤ d0.pv P.paceLevel 105 := by
  refine ⟨?_, ?_, ?_, ?_, ?_, ?_, ?_, ?_, ?_, ?_, ?_, ?_, ?_, ?_, ?_, ?_, ?_, ?_, ?_, ?_, ?_, ?_, ?_, ?_⟩ <;> decide +kernel

def modePay (setM clrM at' f : Nat) : Bytes := le 4 setM ++ le 4 clrM ++ le 1 at' ++ le 3 0 ++ le 4 f

theorem witness_modeSets : (∀ c ∈ [(1, 0, 0, 0), (1, 1, 0, 0), (0, 256, 0, 0), (1, 0, 1, 5)],
      MayRun (asked d0 0 0x20 (modePay c.1 c.2.1 c.2.2.1 c.2.2.2)) 0 0x20 (rq 0 0x20 (modePay c.1 c.2.1 c.2.2.1 c.2.2.2)))
    ∧ modeArgsBad 1 1 0 = true ∧ modeArgsBad 1 0 1 = false ∧ modeArgsBad 0 256 0 = false
    ∧ (streamDev [] (fun x => { x with running := true, frameNo := 6 })).modeLate 1 0 5 = true
    ∧ (streamDev [] (fun x => { x with running := true, frameNo := 5 })).modeLate 1 0 5 = false
    ∧ 2 ≤ (dev [(P.modeWord, 0, 2 ^ M.trace)]).activeLevel
    ∧ (∀ n < 96, d0.nibSt n ≠ E.nibState.PARKED) ∧ (∀ c < 4, d0.openLenOf c = none) ∧ d0.mer.webFrames = []
    ∧ d0.streams.wf .reset = true ∧ (∀ st, ∀ f ∈ (d0.stream st).frames, f.legal = false ∨ f.closed = true)
    ∧ ((1 ||| 0) < 16 ∧ ¬((0 ||| 256) < 16)) :=
  ⟨all_of (fun _ => runs_of) (by decide +kernel), by decide +kernel, by decide +kernel, by decide +kernel, by decide +kernel,
    by decide +kernel, by decide +kernel, by decide +kernel, by decide +kernel, by decide +kernel, by decide +kernel,
    fun st f h => absurd h (by rw [show d0.stream st = .reset from rfl]; exact List.not_mem_nil), by decide +kernel⟩


/-! ## Almanac, security, resets -/

/-- A staging session over the image given, by PF1, complete. -/
def session (target size : Nat) (img : Bytes) (verified : Bool) : Session :=
  ⟨target, .pf1, 1, size, ⟨(img.zipIdx.filter (fun b => b.1 != 0)).map (fun b => (b.2, b.1))⟩,
    ⟨(List.range img.length).map (fun i => (i, true))⟩, verified⟩
def almDev (l : List (Nat × Nat × Nat)) (x : Option Session) : Dev :=
  let d := dev l
  { d with alm := { d.alm with session := x } }

/-- An unsigned image of 4 bytes for a target, SVN 0 (R388). -/
def imageOf (target : Nat) : Bytes :=
  let h := [0x4F, 0x52, 0x46, 0x57] ++ le 2 1 ++ le 1 target ++ le 1 0 ++ le 4 1 ++ le 4 0 ++ le 4 4 ++ List.replicate 104 0
  h ++ le 4 (crc32c h) ++ List.replicate 132 0

set_option maxRecDepth 100000 in
theorem witness_almanacCommands_images :
    imgForm (imageOf 0) 0 = true ∧ d0.checkPlain (imageOf 0) = .good ∧ d0.checkPlain [] = .form
    ∧ (dev [(P.secLc, 0, E.secLc.FIELDED)]).checkPlain (imageOf 0) = .sig
    ∧ (dev [(P.secSvnFused, 0, 1)]).checkPlain (imageOf 0) = .svn
    ∧ (almDev [] none).stagedCode (session 0 260 (imageOf 0) false) = C.ok
    ∧ (almDev [] none).stagedCode (session 0 260 [] false) ≠ C.ok
    ∧ (session 1 260 (imageOf 1) false).whole = true ∧ imgForm (imageOf 1) 1 = true ∧ imgForm (imageOf 0) 1 = false := by
  refine ⟨?_, ?_, ?_, ?_, ?_, ?_, ?_, ?_, ?_, ?_⟩ <;> decide +kernel

/-- Each command on a device without a session and with one; payloads at the ends of their ranges. -/
theorem witness_almanacCommands :
    (∀ op ∈ [0x100, 0x101, 0x110, 0x121, 0x122, 0x123, 0x63], MayRun (asked d0 16 op (le 8 1)) 16 op (rq 16 op (le 8 1)))
    ∧ (∀ n ∈ [1, 2], MayRun (asked d0 16 0x102 (le 1 n)) 16 0x102 (rq 16 0x102 (le 1 n)))
    ∧ (∀ c ∈ [(0, 25165824), (0, 25165825), (1, 524288), (1, 524289), (2, 0)],
      MayRun (asked d0 16 0x120 (le 4 c.1 ++ le 4 c.2)) 16 0x120 (rq 16 0x120 (le 4 c.1 ++ le 4 c.2)))
    ∧ d0.alm.session = none ∧ d0.rst.due = none ∧ d0.mode M.update = false
    ∧ (dev [(P.modeWord, 0, 2 ^ M.update)]).mode M.update = true ∧ d0.pv P.secLcPending 0 = d0.pv P.secLc 0
    ∧ (∀ c ∈ [(256, 4), (257, 4)],
      MayRun (asked (almDev [] (some (session 0 260 [] false))) 16 0x121 (le 4 c.1 ++ le 4 0 ++ List.replicate c.2 1)) 16 0x121
        (rq 16 0x121 (le 4 c.1 ++ le 4 0 ++ List.replicate c.2 1)))
    ∧ (rq 16 0x121 (le 4 256 ++ le 4 0 ++ List.replicate 4 1)).len = 12
    ∧ (rq 16 0x121 []).path = .pf1 ∧ (rq 20 0x121 []).path ≠ .pf1 ∧ d0.mode M.replay = false ∧ d0.sec.scribeHalted = false
    ∧ (∀ c ∈ [(63, 1, 131068), (63, 1, 131069), (63, 2, 0), (63, 0, 0), (64, 1, 0)],
      MayRun (asked d0 16 0x130 (le 1 c.1 ++ le 1 c.2.1 ++ le 2 0 ++ le 4 c.2.2 ++ le 4 0)) 16 0x130
        (rq 16 0x130 (le 1 c.1 ++ le 1 c.2.1 ++ le 2 0 ++ le 4 c.2.2 ++ le 4 0)))
    ∧ d0.pv P.almStoreState 63 ≠ E.almStoreState.WRITING
    ∧ (sealDev E.merSealState.ADJUSTING id).adjusting = true ∧ d0.adjusting = false ∧ 2 ≤ d0.auditFree :=
  ⟨all_of (fun _ => runs_of) (by decide +kernel), all_of (fun _ => runs_of) (by decide +kernel),
    all_of (fun _ => runs_of) (by decide +kernel), by decide +kernel, by decide +kernel, by decide +kernel, by decide +kernel,
    by decide +kernel, all_of (fun _ => runs_of) (by decide +kernel), by decide +kernel, by decide +kernel, by decide +kernel,
    by decide +kernel, by decide +kernel, all_of (fun _ => runs_of) (by decide +kernel), by decide +kernel, by decide +kernel,
    by decide +kernel, by decide +kernel⟩

/-- Eleven temperatures one below the critical one and one of them at it; a lane that is UP; a trial and a grant whose time
is up to the picosecond. -/
theorem witness_almanacEvents :
    (List.replicate 11 ((d0.pv P.almTempCrit 0 : Int) - 1)).length ≤ 11
    ∧ (∀ v ∈ List.replicate 11 ((d0.pv P.almTempCrit 0 : Int) - 1), v < (d0.pv P.almTempCrit 0 : Int))
    ∧ (∃ v ∈ [(d0.pv P.almTempCrit 0 : Int)], (d0.pv P.almTempCrit 0 : Int) ≤ v)
    ∧ (∃ v ∈ [(d0.pv P.almTempWarn 0 : Int)], (d0.pv P.almTempWarn 0 : Int) ≤ v)
    ∧ d0.alm.disarmed.get false 0 = false ∧ d0.alm.disarmed.get false 64 = false ∧ d0.alm.disarmed.get false 128 = false
    ∧ d0.rst.coldPending = false ∧ d0.inP E.pwrState.P4 = false
    ∧ (laneDev E.laneState.UP 6 id).pv P.laneState 0 = E.laneState.UP ∧ (laneDev E.laneState.UP 6 id).pv P.laneState 1 ≠ E.laneState.UP
    ∧ (session 0 0 [] false).slot < 2
    ∧ ({ d0.alm with trialAt := some 0 } : Alm).trialAt = some 0 ∧ (dev [(P.almFwTrial, 0, 1)]).pv P.almFwTrial 0 = 1
    ∧ d0.alm.trialAt = none ∧ ({ d0.sec with grantEnd := some 5 } : Sec).grantEnd = some 5
    ∧ d0.alm.session = none ∧ (dev [(P.almFwTrial, 0, 1)]).rst.ready = true := by
  refine ⟨?_, ?_, ?_, ?_, ?_, ?_, ?_, ?_, ?_, ?_, ?_, ?_, ?_, ?_, ?_, ?_, ?_, ?_⟩ <;> decide +kernel

/-- LC_ADVANCE to OPEN, fusing the owner program key. -/
def lcPay (target mask : Nat) : Bytes := le 1 target ++ le 1 mask ++ le 6 0 ++ List.replicate 32 7 ++ List.replicate 64 0 ++ List.replicate 128 0

theorem witness_securityCommands_lifecycle : LcArgsOk d0 (rq 16 0x201 (lcPay 1 1)).pay ∧ ¬ LcArgsOk d0 (rq 16 0x201 (lcPay 0 1)).pay
    ∧ MayRun (asked d0 16 0x201 (lcPay 1 1)) 16 0x201 (rq 16 0x201 (lcPay 1 1))
    ∧ MayRun (asked d0 16 0x201 (lcPay 0 1)) 16 0x201 (rq 16 0x201 (lcPay 0 1))
    ∧ d0.lcSigned (serialBytes ++ le 1 1) (slice (lcPay 1 1) 104 128) = true
    ∧ (fieldedDev.setP P.secOwnerKeys 0 4).lcSigned (serialBytes ++ le 1 1) (slice (lcPay 1 1) 104 128) = false
    ∧ (∀ n ∈ [64, 65], MayRun (asked d0 16 0x205 (le 8 n ++ List.replicate 128 0)) 16 0x205 (rq 16 0x205 (le 8 n ++ List.replicate 128 0)))
    ∧ d0.pv P.secSvnFused 0 < 64 ∧ d0.svnHolds 64 = true
    ∧ (dev [(P.almFwSlotState, 0, E.almFwSlotState.BAD), (P.secSvnRunning, 0, 64)]).svnHolds 64 = false :=
  ⟨by unfold LcArgsOk; decide +kernel, by unfold LcArgsOk; decide +kernel, runs_of (by decide +kernel), runs_of (by decide +kernel),
    by decide +kernel, by decide +kernel, all_of (fun _ => runs_of) (by decide +kernel), by decide +kernel, by decide +kernel,
    by decide +kernel⟩

/-- A boot image at the end of its range and one byte beyond; a token for each level, fresh, stale and without a challenge;
a trace read with a level and without. -/
def chalDev : Dev :=
  let d := dev [(P.secLc, 0, E.secLc.OPEN), (P.secOwnerKeys, 0, 2)]
  { d with sec := { d.sec with chalNo := 1, chalAt := some 0, keys := d.sec.keys.set [] 1 (List.replicate 32 7) } }

theorem witness_securityCommands_boot :
    (∀ c ∈ [(16777216, 8388608), (16777217, 0), (0, 0), (16777216, 8388609)],
      MayRun (asked d0 0 0xF0 (le 8 0x1000 ++ le 4 c.1 ++ le 4 c.2)) 0 0xF0 (rq 0 0xF0 (le 8 0x1000 ++ le 4 c.1 ++ le 4 c.2)))
    ∧ MayRun (asked d0 0 0xF1 (le 4 260)) 0 0xF1 (rq 0 0xF1 (le 4 260))
    ∧ ({ d0.rst with dfu := true, ready := false } : Rst).dfu = true ∧ d0.rst.starting = none
    ∧ MayRun (asked d0 16 0x202 []) 16 0x202 (rq 16 0x202 []) ∧ d0.sec.lockUntil ≤ d0.now
    ∧ (∀ l ∈ [0, 1, 3, 4], MayRun (asked chalDev 16 0x203 (le 1 l ++ le 1 0 ++ le 2 1 ++ List.replicate 132 0)) 16 0x203
      (rq 16 0x203 (le 1 l ++ le 1 0 ++ le 2 1 ++ List.replicate 132 0)))
    ∧ chalDev.sec.chalAt = some 0 ∧ d0.sec.chalAt = none ∧ lcSigner (chalDev.pv P.secLc 0) 0 = true
    ∧ (∀ k, chalDev.ownerKey 1 = some k → sigOk k [] (List.replicate 128 0) = false)
    ∧ (∀ op ∈ [0x204, 0x206], MayRun (asked d0 16 op (le 4 0)) 16 op (rq 16 op (le 4 0)))
    ∧ d0.activeLevel = 0 ∧ (dev [(P.modeWord, 0, 2 ^ M.trace)]).activeLevel ≠ 0
    ∧ (∀ op ∈ [DebugOp.halt, .resume, .readMem (.bank 0 0) [], .writeMem (.bank 0 0) [], .readMem (.nib 0 0) []],
      (dev [(P.modeWord, 0, 2 ^ M.trace)]).debugLeave op = .allowed)
    ∧ d0.debugLeave .halt = .denied
    ∧ (dev [(P.modeWord, 0, 2 ^ M.trace), (P.pwrState, 0, E.pwrState.P3)]).debugLeave (.readMem (.bank 0 0) []) = .waits := by
  refine ⟨all_of (fun _ => runs_of) (by decide +kernel), runs_of (by decide +kernel), by decide +kernel, by decide +kernel,
    runs_of (by decide +kernel), by decide +kernel, all_of (fun _ => runs_of) (by decide +kernel), by decide +kernel,
    by decide +kernel, by decide +kernel, fun k h => ?_, all_of (fun _ => runs_of) (by decide +kernel), by decide +kernel,
    by decide +kernel, by decide +kernel, by decide +kernel, by decide +kernel⟩
  have e : chalDev.ownerKey 1 = some (List.replicate 32 7) := by decide +kernel
  rw [e] at h
  obtain rfl := Option.some.inj h
  decide +kernel

/-- A stored word that is not the zero word: the word of a debug write of ones. -/
def onesWord : Bytes := List.replicate 32 1 ++ rsCheck (List.replicate 32 1)

theorem witness_securityCommands_reads :
    ({ on d0 with sram := (on d0).sram.set zeroWord (bankKey 0 0) onesWord } : State).storedWord (bankKey 0 0) = onesWord
    ∧ onesWord.length = 35 ∧ rsRead onesWord = .good ∧ onesWord ≠ zeroWord ∧ d0.poison.get false (bankKey 0 0) = false
    ∧ (d0.nib 0).poison.get false 0 = false := by
  refine ⟨?_, ?_, ?_, ?_, ?_, ?_⟩ <;> decide +kernel

def rstDev (l : List (Nat × Nat × Nat)) (g : Rst → Rst) : Dev :=
  let d := dev l
  { d with rst := g d.rst }

theorem witness_resetsAndPower :
    Dev.reset.rst.coldPending = true ∧ d0.rst.coldPending = false ∧ d0.checkSlot 0 = .good ∧ d0.pv P.almFwPreferred 0 < 2
    ∧ (rstDev [(P.rstBootSel, 0, 1)] (fun r => { r with warmPending := true })).rst.warmPending = true
    ∧ (rstDev [(P.rstBootSel, 0, 1)] (fun r => { r with warmPending := true })).rst.kept = false
    ∧ (dev [(P.pwrState, 0, E.pwrState.P4)]).inP E.pwrState.P4 = true ∧ d0.inP E.pwrState.P4 = false
    ∧ (rstDev [] (fun r => { r with perstLow := true })).rst.perstLow = true ∧ (rstDev [] (fun r => { r with perstLow := true })).pcieOff = true
    ∧ d0.rst.moving = none ∧ d0.rst.unlocked.get false 4 = false ∧ d0.pcieOff = false ∧ d0.rst.warmPending = false
    ∧ d0.watched = true ∧ Dev.reset.watched = false ∧ d0.alm.scribeAt + ms (d0.pv P.almWdScribeMs 0) ≤ ms 60000
    ∧ d0.rst.fatalAt = none ∧ (rstDev [] (fun r => { r with due := some (5, 0, 3) })).rst.due = some (5, 0, 3)
    ∧ (rstDev [] (fun r => { r with fatalAt := some (5, 6) })).rst.fatalAt = some (5, 6)
    ∧ (∀ i ∈ [0, 2, 3], (rstDev [] (fun r => { r with starting := some 0, image := i, tried := 3 })).rst.image = i)
    ∧ bit (rstDev [] (fun r => { r with starting := some 0, image := 1, tried := 3 })).rst.tried (1 - 1) = true
    ∧ (rstDev [] (fun r => { r with moving := some E.pwrState.P3 })).rst.moving = some E.pwrState.P3
    ∧ (rstDev [(P.pwrState, 0, E.pwrState.P3)] (fun r => { r with heldWrites := [(.b0, 4, 4, 0)] })).inP E.pwrState.P3 = true
    ∧ (rstDev [(P.pwrState, 0, E.pwrState.P3)] (fun r => { r with heldWrites := [(.b0, 4, 4, 0)] })).rst.heldWrites ≠ []
    ∧ [3, 4, 5, 6].contains 6 = true ∧ [1, 2, 4, 8, 16].contains 16 = true ∧ 512 ∈ [128, 256, 512]
    ∧ 4096 ∈ [128, 256, 512, 1024, 2048, 4096] := by
  refine ⟨?_, ?_, ?_, ?_, ?_, ?_, ?_, ?_, ?_, ?_, ?_, ?_, ?_, ?_, ?_, ?_, ?_, ?_, ?_, ?_, ?_, ?_, ?_, ?_, ?_, ?_, ?_, ?_, ?_⟩ <;> decide +kernel

/-! ## The machine -/

/-- A queue with a command, and an empty one. -/
theorem witness_stepTakesFront : (⟨[.flrPf1], .empty, d0⟩ : State).pending = .flrPf1 :: [] ∧ (on d0).pending = [] := ⟨rfl, rfl⟩

theorem witness_memoryForm : MemoryForm State.reset where
  canonical := by decide +kernel
  wordLength := fun k => by rw [show State.reset.storedWord k = zeroWord from rfl]; decide +kernel
  inside := fun _ _ => rfl

theorem witness_oneByteCorrected : (List.replicate 32 (0 : Byte)).length = 32 ∧ (34 < 35) ∧ (0x80 : Byte) ≠ 0 := by decide


/-! ## Well-formed commands: one ill-formed term for each check -/

theorem test_wf_refuses :
    (Instr.scrubRead (.bank 0 0) (List.replicate 34 0) 0).wf = false ∧ (Instr.queueWrite 0 (List.replicate 31 0) true 1 0).wf = false
    ∧ (Instr.queueRead 0 [] 0).wf = false ∧ (Instr.syncFrameReceive 0 (List.replicate 95 0) 0 0).wf = false
    ∧ (Instr.serviceSlot 0 (List.replicate 15 0) 0).wf = false ∧ (Instr.align 0 (some (List.replicate 31 0)) 0).wf = false
    ∧ (Instr.descriptorFetch 0 (some (List.replicate 63 0))).wf = false
    ∧ (Instr.vadd 0 (fw 2 0)).wf = false ∧ (Instr.vshl 0 (fw 0 0xC0)).wf = false ∧ (Instr.vshl 0 (fw 3 0)).wf = false
    ∧ (Instr.vslide 0 (fw 0 65)).wf = false ∧ (Instr.vslide 0 (fw 1 129)).wf = false
    ∧ (Instr.vcmpCc 0 .eq { fw 0 0 with dst := 8 }).wf = false ∧ (Instr.vmac 0 { fw 0 0 with dst := 4 }).wf = false
    ∧ (Instr.vmac 0 (fw 1 0)).wf = false ∧ (Instr.vdot2 0 (fw 0 0)).wf = false ∧ (Instr.ard 0 { fw 0 0 with a := 4 }).wf = false
    ∧ (Instr.ard 0 (fw 0 0xC0)).wf = false ∧ (Instr.bfmul 0 (fw 0 0)).wf = false ∧ (Instr.bfmac 0 { fw 2 0 with dst := 4 }).wf = false
    ∧ (Instr.aclr 0 { fw 0 0 with dst := 4 }).wf = false ∧ (Instr.vrfirst 0 { fw 0 0 with a := 8 }).wf = false
    ∧ (Instr.vldm 0 { fw 0 0 with dst := 8 } [] 0).wf = false ∧ (Instr.vstm 0 { fw 0 0 with b := 8 }).wf = false
    ∧ (Instr.add 0 (fw 3 0)).wf = false := by decide

/-! ## Instruction words, bit by bit from R168 to R170: CLASS 63–60, OP 59–52, DST 51–47, SRCA 46–42, SRCB 41–37,
EW 36–35, PRED 34–32, IMM 31–0 -/

theorem test_words_of_each_class :
    decodeNib 0 0 0b0000_00000001_00000_00011_00001_00_000_11111111111111111111111111111110 = some (.brCc 0 .eq ⟨0, 3, 1, 0, 0, -2⟩)
    ∧ decodeNib 0 0 0b0001_00000000_00101_00000_00000_00_000_00000000000000000000000001100100 = some (.li 0 ⟨5, 0, 0, 0, 0, 100⟩)
    ∧ decodeNib 0 0 0b0010_00000001_00010_00011_00001_01_010_00000000000000000000000000000000 = some (.vadd 0 ⟨2, 3, 1, 1, 2, 0⟩)
    ∧ decodeNib 0 0 0b0011_00000010_00001_00011_00001_00_000_00000000000000000000000000000000 = some (.vmac 0 ⟨1, 3, 1, 0, 0, 0⟩)
    ∧ decodeNib 0 0 0b0100_00000010_11111_00011_00000_00_000_00000000000000000000000001001000 = some (.ard 0 ⟨31, 3, 0, 0, 0, 72⟩)
    ∧ decodeNib 0 0 0b0101_00000001_00010_00011_00001_10_000_00000000000000000000000000000000 = some (.bfmul 0 ⟨2, 3, 1, 2, 0, 0⟩)
    ∧ decodeNib 0 0 0b0110_00001010_00010_00011_00001_00_111_11111111111111111111111111000000 = some (.vslide 0 ⟨2, 3, 1, 0, 7, -64⟩)
    ∧ decodeNib 0 0 0b0111_00000001_00010_00011_00000_00_000_00000000000000000000000000000000 = some (.vrsum 0 ⟨2, 3, 0, 0, 0, 0⟩)
    ∧ decodeNib 0 0 0b1000_00000100_00000_00100_00110_00_000_00000000000000000000000000010000 = some (.sst 0 ⟨0, 4, 6, 0, 0, 16⟩)
    ∧ decodeNib 0 0 0b1001_00000001_00010_00011_00000_00_000_00000000000000000000000000000000 = some (.pvld 0 ⟨2, 3, 0, 0, 0, 0⟩ [] 0)
    ∧ decodeNib 0 0 0b1010_00000100_00000_00011_00000_00_000_00000000000000000000000000000000 = some (.tdone 0 ⟨0, 3, 0, 0, 0, 0⟩ 0) := by
  decide +kernel

/-- Words that no instruction has: CLASS 11, OP 9 of class 0, EW 3, rounding mode 3. -/
theorem test_words_refused :
    decodeNib 0 0 (11 * 2 ^ 60) = none ∧ decodeNib 0 0 (9 * 2 ^ 52) = none ∧ decodeNib 0 0 (2 ^ 61 + 2 ^ 52 + 3 * 2 ^ 35) = none
    ∧ decodeNib 0 0 (2 ^ 61 + 0x11 * 2 ^ 52 + 0xC0) = none := by decide +kernel

/-! ## One step each, on the small states above -/

/-- The device after one command. -/
def after (i : Instr) (d : Dev) : Dev :=
  match step ⟨[i], .empty, d⟩ with | .next t => t.dev | _ => d

/-- ADD wraps modulo 2^32; SAR keeps the sign; s0 discards its result (R157, R170). -/
theorem test_scalars :
    ((after (.add 5 (fw 0 0)) (nibDev [nibWord 1 1 (fw 0 0), 0] (fun x => { x with sreg := (x.sreg.set 0 3 0xFFFFFFFF).set 0 1 2 }))).nib 5).s 2 = 1
    ∧ ((after (.sar 5 (fw 0 0)) (nibDev [nibWord 1 8 (fw 0 0), 0] (fun x => { x with sreg := (x.sreg.set 0 3 0x80000000).set 0 1 31 }))).nib 5).s 2
      = 0xFFFFFFFF
    ∧ ((after (.li 5 { fw 0 7 with dst := 0 }) (nibDev [nibWord 1 0 { fw 0 7 with dst := 0 }, 0] id)).nib 5).s 0 = 0 := by
  decide +kernel

/-- VADDS holds a lane at 32,767; VMUL rounds half to even (R170, R172). -/
theorem test_lanes :
    ((after (.vadds 5 (fw 0 0)) (nibDev [nibWord 2 3 (fw 0 0), 0] (fun x => { x with v := (x.v.set 0 3 0x7FFF#1024).set 0 1 1#1024 }))).nib 5).lane 16 2 0
      = 0x7FFF
    ∧ ((after (.vsubsu 5 (fw 0 0)) (nibDev [nibWord 2 6 (fw 0 0), 0] (fun x => { x with v := (x.v.set 0 3 1#1024).set 0 1 2#1024 }))).nib 5).lane 16 2 0
      = 0 := by decide +kernel

/-- bfloat16: 1.5 × 2 = 3; infinity × 0 is the NaN 0x7FC0 (R173). -/
theorem test_bfloat16 : bfMul 0x3FC0 0x4000 = 0x4040 ∧ bfMul 0x7F80 0x0000 = 0x7FC0 := by decide +kernel

/-- A branch back over itself; a LOOP that ends (R170, R171). -/
theorem test_control :
    ((after (.brCc 5 .eq (fw 0 0)) (branchOn 1 (fw 0 0) 1)).nib 5).pc = 0
    ∧ ((after (.brCc 5 .eq (fw 0 3)) (branchOn 1 (fw 0 3) 1)).nib 5).pc = 3
    ∧ ((after (.nibNop 5 ⟨0, 0, 0, 0, 0, 0⟩) (loopDev [⟨1, 1, 2⟩])).nib 5).pc = 1
    ∧ ((after (.nibNop 5 ⟨0, 0, 0, 0, 0, 0⟩) (loopDev [⟨1, 1, 1⟩])).nib 5).pc = 2 := by decide +kernel

/-- A load beyond the store faults with ACCESS, and the tile commits in turn with that outcome (R160, R186). -/
theorem test_access : ((after (.sld 5 (upTo 0x80001 4) [] 0) (memOn 8 3 0x80001 4)).pv P.nibLastFault 5 = E.nibLastFault.ACCESS)
    ∧ ((after (.sld 5 (upTo 0x80001 4) [] 0) (memOn 8 3 0x80001 4)).nibSt 5) = E.nibState.IDLE := by decide +kernel

/-- NOP ends with COMPLETE and OK, and sets its mailbox's interrupt; MBm_STATUS shows both and the TAG (R316, R317). -/
theorem test_nop : mbStatus ((after (.nop 3) (asked d0 3 1 [])).mb 3) = 3 + 65536 * 7
    ∧ (after (.nop 3) (asked d0 3 1 [])).int0.get false 131 = true := by decide +kernel

/-- A 1 written to a cause bit clears it, and a bit that the device sets in the same write stays (R3, R276). -/
theorem test_causes :
    (after (.w1cClear (.bar .pf0 0x1000) 3 2) ((d0.raise0 0).raise0 1)).int0.get false 0 = false
    ∧ (after (.w1cClear (.bar .pf0 0x1000) 3 2) ((d0.raise0 0).raise0 1)).int0.get false 1 = true := by decide +kernel

/-- Check values of the codes: CRC-32C of "123456789" is E3069283, CRC-16 of it 29B1; RS corrects any one byte. -/
theorem test_codes : crc32c [0x31, 0x32, 0x33, 0x34, 0x35, 0x36, 0x37, 0x38, 0x39] = 0xE3069283
    ∧ crc16 [0x31, 0x32, 0x33, 0x34, 0x35, 0x36, 0x37, 0x38, 0x39] = 0x29B1
    ∧ rsRead (List.replicate 35 0) = .good := by decide +kernel

/-- SHA-256 of "abc" (FIPS 180-4). -/
theorem test_sha256 : fld (sha256 [0x61, 0x62, 0x63]).reverse 0 32
    = 0xba7816bf8f01cfea414140de5dae2223b00361a396177a9cb410ff61f20015ad := by decide +kernel

/-- A full quadrature cycle counts four steps (R30). -/
theorem test_quadrature : quadStep false false true false + quadStep true false true true + quadStep true true false true
    + quadStep false true false false = 4 := by decide

/-- An empty queue idles; the first command leaves the queue and is gone (entry 2). -/
theorem test_step : step (on d0) = .next (on d0)
    ∧ step ⟨[.flrPf1, .flrPf1], .empty, Dev.reset⟩ = exec .flrPf1 ⟨[.flrPf1], .empty, Dev.reset⟩ := ⟨rfl, rfl⟩

end Sys2Proof.Tests
end

/-! PROOF. Direct registers (R2, R5, R273, R276, R277, R379): what a read of a BAR answers, and what the write of one word
does to the cause bits and the vectors. -/
namespace Sys2Proof.Machine

theorem exec_of_onDev {i : Instr} {s : State} {f : Dev → Dev} {d : Dev} (he : exec i s = s.onDev f)
    (hf : f s.dev = d) : exec i s = .next { s with dev := d } := by
  rw [he, State.onDev_next, hf]

/-- A command on the device alone gives what its meaning makes of the device. -/
theorem gives_of_onDev {i : Instr} {s : State} {f : Dev → Dev} {post : Dev → Prop} (he : exec i s = s.onDev f)
    (h : post (f s.dev)) : Gives i s post :=
  ⟨f s.dev, exec_of_onDev he rfl, h⟩

/-! ## Reads -/

section Reads
variable {d : Dev} {fn : Fn} {off : Nat} (hon : d.pcieOff = false)
include hon

theorem runLowHalfRead_wide (hoff : off % 4 = 0) (hw : wideReg fn off = true) :
    runLowHalfRead fn .b0 off 4 d = { d with
      latch := d.latch.set none (latchKey fn (off + 4)) (some (d.regWord fn (off + 4)))
      out := .readData (d.regWord fn off) :: d.out } := by
  simp [runLowHalfRead, hon, hoff, hw, Dev.barWord, Dev.emit]

theorem runLowHalfRead_latched (hoff : off % 4 = 0) (hw : wideReg fn off = false) {v : Nat}
    (hl : d.latch.get none (latchKey fn off) = some v) :
    runLowHalfRead fn .b0 off 4 d =
      { d with latch := d.latch.set none (latchKey fn off) none, out := .readData v :: d.out } := by
  simp [runLowHalfRead, hon, hoff, hw, hl, Dev.emit]

theorem runLowHalfRead_present (hoff : off % 4 = 0) (hw : wideReg fn off = false)
    (hl : d.latch.get none (latchKey fn off) = none) :
    runLowHalfRead fn .b0 off 4 d = d.emit (.readData (d.regWord fn off)) := by
  simp [runLowHalfRead, hon, hoff, hw, hl, Dev.barWord]

theorem runLowHalfRead_both (hoff : off % 8 = 0) :
    runLowHalfRead fn .b0 off 8 d =
      d.emit (.readData (d.regWord fn off + 2 ^ 32 * d.regWord fn (off + 4))) := by
  simp [runLowHalfRead, hon, hoff, Dev.barWord]

theorem runLowHalfRead_other {bar : Bar} {size : Nat} (h8 : ¬(size = 8 ∧ off % 8 = 0))
    (h4 : ¬(size = 4 ∧ off % 4 = 0)) : runLowHalfRead fn bar off size d = d.emit (.readData 0) := by
  simp [runLowHalfRead, hon, if_neg h8, if_neg h4]

end Reads

/-! ## Writes -/

@[simp] theorem Dev.at'_pcieOff (d : Dev) (t : Nat) : (d.at' t).pcieOff = d.pcieOff := rfl
@[simp] theorem Dev.at'_inP (d : Dev) (t p : Nat) : (d.at' t).inP p = d.inP p := rfl

theorem reqWindow_eq_none_of_lt {fn : Fn} {off : Nat} (h : off < 0x10000) : reqWindow fn off = none := by
  simp [reqWindow, Nat.not_le.mpr h]

theorem intWord0_lt {off : Nat} {p : Nat × Nat} (h : intWord0 off = some p) : off < 0x1100 := by
  unfold intWord0 at h
  grind

theorem intWord1_lt {off : Nat} {p : Nat × Nat} (h : intWord1 off = some p) : off < 0x1100 := by
  unfold intWord1 at h
  grind

theorem intWord0_eq_none {off : Nat} (h : off < 0x1000 ∨ 0x1031 ≤ off) : intWord0 off = none := by
  unfold intWord0
  grind

theorem intWord1_eq_none {off : Nat} (h : off < 0x1000) : intWord1 off = none := by
  unfold intWord1
  grind

/-- An aligned write of 4 bytes below the request windows that the function is awake for writes its word. -/
theorem runRegisterWrite_word {d : Dev} {fn : Fn} {off v t : Nat} (hon : d.pcieOff = false)
    (hawake : fn = .pf0 → d.inP E.pwrState.P3 = false) (hoff : off % 4 = 0) (hlow : off < 0x10000) (hv : v < 2 ^ 32) :
    runRegisterWrite fn .b0 off 4 v t d = (d.at' t).writeWord fn off v := by
  have hheld : ¬(fn = .pf0 ∧ d.inP E.pwrState.P3 = true) := fun ⟨hf, hp⟩ => by simp [hawake hf] at hp
  simp [-Nat.reducePow, runRegisterWrite, Dev.hostWrites, hon, if_neg hheld, Dev.barWrite,
    reqWindow_eq_none_of_lt hlow, hoff, Dev.barWordWrite, Nat.mod_eq_of_lt hv]

/-- In P3 a write of PF0 waits for P0 (R379). -/
theorem runRegisterWrite_held {d : Dev} {bar : Bar} {off size v t : Nat} (hon : d.pcieOff = false)
    (hp : d.inP E.pwrState.P3 = true) :
    runRegisterWrite .pf0 bar off size v t d =
      { d.at' t with rst := { d.rst with heldWrites := d.rst.heldWrites ++ [(bar, off, size, v)] } } := by
  have hon' : (d.at' t).pcieOff = false := hon
  have hp3 : Fn.pf0 = .pf0 ∧ (d.at' t).inP E.pwrState.P3 = true := ⟨rfl, hp⟩
  rw [runRegisterWrite, Dev.hostWrites, hon', if_neg Bool.false_ne_true, if_pos hp3]
  rfl

theorem mem_bitsOf {n v i : Nat} : i ∈ bitsOf n v ↔ i < n ∧ bit v i = true := by
  simp [bitsOf]

theorem get_foldl_clear (base src : Nat) (l : List Nat) (m : FMap Bool) :
    (l.foldl (fun m i => m.set false (base + i) false) m).get false src =
      (m.get false src && !decide (∃ i ∈ l, src = base + i)) := by
  induction l generalizing m with
  | nil => simp
  | cons x l ih =>
    rw [List.foldl_cons, ih, FMap.get_set]
    by_cases hx : src = base + x <;> simp [hx]

/-- A W1C write clears the named bits that are written 1 and no other (R2). -/
theorem clearBits_get (m : FMap Bool) (base n mask src : Nat) :
    (clearBits m base n mask).get false src =
      (m.get false src && !(decide (base ≤ src) && decide (src < base + n) && bit mask (src - base))) := by
  have hnamed : (∃ i ∈ bitsOf n mask, src = base + i) ↔
      (base ≤ src ∧ src < base + n) ∧ bit mask (src - base) = true := by
    constructor
    · rintro ⟨i, hi, rfl⟩
      obtain ⟨hin, hbit⟩ := mem_bitsOf.mp hi
      refine ⟨by omega, ?_⟩
      rwa [Nat.add_sub_cancel_left]
    · rintro ⟨hrange, hbit⟩
      exact ⟨src - base, mem_bitsOf.mpr ⟨by omega, hbit⟩, by omega⟩
  simp only [clearBits, get_foldl_clear, hnamed, Bool.decide_and, Bool.decide_eq_true]

theorem Dev.writeWord_pf0_causes {d : Dev} {off v b n : Nat} (h : intWord0 off = some (b, n)) :
    d.writeWord .pf0 off v = { d with int0 := clearBits d.int0 b n v } := by
  simp [Dev.writeWord, h]

theorem Dev.writeWord_pf1_causes {d : Dev} {off v b n : Nat} (h : intWord1 off = some (b, n)) :
    d.writeWord .pf1 off v = { d with int1 := clearBits d.int1 b n v } := by
  simp [Dev.writeWord, h]

theorem Dev.writeWord_vector {d : Dev} {src v : Nat} (h : src ≤ 304) :
    d.writeWord .pf0 (0x1100 + 4 * src) v =
      { d with intMap := d.intMap.set (vectorAtReset src) src (v % 256) } := by
  have hin : 0x1100 ≤ 0x1100 + 4 * src ∧ 0x1100 + 4 * src ≤ 0x1100 + 4 * 304 := by omega
  have hsrc : (0x1100 + 4 * src - 0x1100) / 4 = src := by omega
  simp only [Dev.writeWord, intWord0_eq_none (Or.inr (show 0x1031 ≤ 0x1100 + 4 * src by omega)), if_pos hin, hsrc]

theorem Dev.writeWord_identification {d : Dev} {fn : Fn} {off v : Nat} (h : off < 0x24) : d.writeWord fn off v = d := by
  have h0 := intWord0_eq_none (off := off) (by omega)
  have h1 := intWord1_eq_none (off := off) (by omega)
  cases fn with
  | pf0 =>
    simp only [Dev.writeWord, h0]
    rw [if_neg (by omega), if_neg (by omega), if_neg (by omega)]
  | pf1 =>
    simp only [Dev.writeWord, h1]
    rw [if_neg (by omega)]

theorem Dev.vectorOf_set_intMap (d : Dev) (src v j : Nat) :
    ({ d with intMap := d.intMap.set (vectorAtReset src) src v } : Dev).vectorOf j =
      if j = src then v else d.vectorOf j := by
  unfold Dev.vectorOf
  by_cases h : j = src
  · subst h
    simp
  · simp [h, FMap.get_set_ne]

/-- Settles O17, with one lemma for each kind of read and each register that a word write reaches. -/
theorem registerAccesses : Obligations.RegisterAccesses := by
  unfold Obligations.RegisterAccesses
  refine ⟨fun s fn off hon => ⟨fun hoff => ⟨?wide, ?latched, ?present⟩, ?both, ?other⟩,
    fun s off v t hon hoff hv => ⟨?causes0, ?causes1, ?vector, ?identification, ?held⟩⟩
  case wide =>
    intro hw
    exact gives_of_onDev rfl (runLowHalfRead_wide hon hoff hw)
  case latched =>
    intro v hw hl
    exact gives_of_onDev rfl (runLowHalfRead_latched hon hoff hw hl)
  case present =>
    intro hw hl
    exact gives_of_onDev rfl (runLowHalfRead_present hon hoff hw hl)
  case both =>
    intro hoff
    exact gives_of_onDev rfl (runLowHalfRead_both hon hoff)
  case other =>
    intro bar size h8 h4
    exact gives_of_onDev rfl (runLowHalfRead_other hon h8 h4)
  case causes0 =>
    intro hp b n hword
    have hlow : off < 0x10000 := Nat.lt_trans (intWord0_lt hword) (by decide)
    refine gives_of_onDev (f := runRegisterWrite .pf0 .b0 off 4 v t) rfl ?_
    rw [runRegisterWrite_word hon (fun _ => hp) hoff hlow hv, Dev.writeWord_pf0_causes hword]
    exact ⟨rfl, clearBits_get s.dev.int0 b n v⟩
  case causes1 =>
    intro b n hword
    have hlow : off < 0x10000 := Nat.lt_trans (intWord1_lt hword) (by decide)
    refine gives_of_onDev (f := runRegisterWrite .pf1 .b0 off 4 v t) rfl ?_
    rw [runRegisterWrite_word (fn := .pf1) hon nofun hoff hlow hv, Dev.writeWord_pf1_causes hword]
    exact ⟨rfl, clearBits_get s.dev.int1 b n v⟩
  case vector =>
    rintro hp src hsrc rfl
    refine gives_of_onDev (f := runRegisterWrite .pf0 .b0 (0x1100 + 4 * src) 4 v t) rfl ?_
    rw [runRegisterWrite_word hon (fun _ => hp) hoff (by omega) hv, Dev.writeWord_vector hsrc]
    exact ⟨rfl, Dev.vectorOf_set_intMap (s.dev.at' t) src (v % 256)⟩
  case identification =>
    intro hp hid fn
    refine gives_of_onDev (f := runRegisterWrite fn .b0 off 4 v t) rfl ?_
    rw [runRegisterWrite_word hon (fun _ => hp) hoff (by omega) hv, Dev.writeWord_identification hid]
  case held =>
    intro hp
    exact gives_of_onDev rfl (runRegisterWrite_held hon hp)

/-! ## W1C parameters -/

/-- A W1C write of a `q.*` parameter of Q120–Q127 does nothing, whatever the device would set with it (R257). -/
theorem runW1cClear_firmwareQueue (path : Path) (id inst mask dev : Nat) (d : Dev) (hq : isQueueParam id = true)
    (hi : 120 ≤ inst) : runW1cClear (.param path id inst) mask dev d = d := by
  simp only [runW1cClear]
  cases paramRow id with
  | none => rfl
  | some r => simp [hq, hi]

/-- The row of `q.events`. -/
theorem paramRow_qEvents : paramRow P.qEvents =
    some ⟨P.qEvents, "q.events", 128, 1, .u 8, [], 1, 0, .w1c, .none, .none⟩ := by
  decide +kernel

/-- Refutes O18: Q120's `q.events` is a W1C parameter that PF0 may write and its row has, but R257 refuses every write of
it. After reset a W1C_CLEAR of it that meets a bit set by the device leaves 0 there, not that bit. -/
theorem not_causesAndCounts : ¬ Obligations.CausesAndCounts := by
  unfold Obligations.CausesAndCounts
  rintro ⟨-, hparam, -⟩
  obtain ⟨u, hexec, hevents, -⟩ := hparam State.reset .pf0 P.qEvents 120 0 1 _ paramRow_qEvents rfl (by decide)
    (by decide) (by decide)
  have hkept : exec (.w1cClear (.param .pf0 P.qEvents 120) 0 1) State.reset = .next State.reset :=
    exec_of_onDev rfl (runW1cClear_firmwareQueue .pf0 P.qEvents 120 0 1 Dev.reset rfl (by decide))
  rw [hkept] at hexec
  obtain rfl : Dev.reset = u := congrArg State.dev (Host.Outcome.next.inj hexec)
  have hzero : Dev.reset.pv P.qEvents 120 = 0 := by decide +kernel
  rw [hzero] at hevents
  exact absurd hevents (by decide)

end Sys2Proof.Machine

/-! PROOF. The mailbox commands that only answer (R10, R316, R325, R397), and the signal of a final status. -/
namespace Sys2Proof.Machine

/-! ## The signal of a final status -/

theorem Dev.signalMb_pf0 (d : Dev) {m : Nat} (h : m < 16) : (d.signalMb m).int0.get false (128 + m) = true := by
  simp [Dev.signalMb, h, Dev.raise0_int0]

theorem Dev.signalMb_pf1 (d : Dev) {m : Nat} (h16 : 16 ≤ m) (h20 : m < 20) :
    (d.signalMb m).int1.get false (m - 16) = true := by
  simp [Dev.signalMb, Nat.not_lt.mpr h16, h20, Dev.raise1_int1]

theorem Dev.signalMb_usb (d : Dev) :
    Output.usb ((d.mb 20).rsp.read 0 256 ++ le 4 (mbStatus (d.mb 20))) ∈ (d.signalMb 20).out := by
  simp [Dev.signalMb, Dev.emit]

/-- A command that waits or runs ends with its mailbox's new content, the signal and a trace entry. -/
theorem Dev.finish_eq_signalMb {d : Dev} {m : Nat} (c detail value : Nat) (eff : Bool) (pay : Bytes)
    (h : (d.mb m).st = .queued ∨ (d.mb m).st = .running) :
    ∃ (e : Dev) (op : Nat), d.finish m c detail value eff pay = (e.signalMb m).addTrace 1 op := by
  unfold Dev.finish
  rcases h with h | h
  · simp only [h]
    exact ⟨_, _, rfl⟩
  · simp only [h]
    exact ⟨_, _, rfl⟩

/-- `u` shows the signal of mailbox `m`: its interrupt, or on the service port its response and status (R316, R397). -/
def Signalled (u : Dev) (m : Nat) : Prop :=
  (m < 16 → u.int0.get false (128 + m) = true)
  ∧ (16 ≤ m → m < 20 → u.int1.get false (m - 16) = true)
  ∧ (m = 20 → ∃ b, Output.usb b ∈ u.out ∧ b = (u.mb 20).rsp.read 0 256 ++ le 4 (mbStatus (u.mb 20)))

theorem Dev.finish_signalled {d : Dev} {m : Nat} (c detail value : Nat) (eff : Bool) (pay : Bytes)
    (h : (d.mb m).st = .queued ∨ (d.mb m).st = .running) : Signalled (d.finish m c detail value eff pay) m := by
  obtain ⟨e, op, he⟩ := Dev.finish_eq_signalMb c detail value eff pay h
  have hmb : ∀ j, ((e.signalMb m).addTrace 1 op).mb j = e.mb j :=
    ((Dev.signalMb_same e m).trans (Dev.addTrace_same _ 1 op)).mb
  rw [he]
  refine ⟨Dev.signalMb_pf0 e, Dev.signalMb_pf1 e, ?_⟩
  rintro rfl
  exact ⟨_, Dev.signalMb_usb e, by rw [hmb]⟩

/-! ## The commands -/

section Commands
variable {s : State} {m : Fin 21} {r : Req}

theorem exec_nop (h : MayRun s.dev m 0x0001 r) :
    exec (.nop m) s = .next { s with dev := s.dev.finish m C.ok 0 0 false [] } :=
  exec_of_onDev rfl (Dev.cmd_runs h _)

theorem exec_tbGet (t : Nat) (h : MayRun s.dev m 0x0002 r) :
    exec (.tbGet m t) s =
      .next { s with dev := (s.dev.at' t).finish m C.ok 0 0 false (le 8 (s.dev.at' t).tb) } :=
  exec_of_onDev rfl (Dev.cmd_runs (h.at' t) _)

theorem exec_paramInfo_defined {row : PRow} (h : MayRun s.dev m 0x0012 r)
    (hrow : paramRow (fld r.pay 0 2) = some row) :
    exec (.paramInfo m) s = .next { s with dev := s.dev.finish m C.ok 0 0 false row.info } := by
  have hrun : runParamInfo m s.dev = s.dev.finish m C.ok 0 0 false row.info := by
    rw [runParamInfo, Dev.cmd_runs h, hrow]
    rfl
  exact exec_of_onDev rfl hrun

theorem exec_paramInfo_undefined (h : MayRun s.dev m 0x0012 r) (hrow : paramRow (fld r.pay 0 2) = none) :
    exec (.paramInfo m) s = .next { s with dev := s.dev.finish m C.badParam 0 0 false [] } := by
  have hrun : runParamInfo m s.dev = s.dev.finish m C.badParam 0 0 false [] := by
    rw [runParamInfo, Dev.cmd_runs h, hrow]
    rfl
  exact exec_of_onDev rfl hrun

end Commands

/-- Settles O22: each of the commands is the end of the command, whose answer and signal are stated once. -/
theorem queries : Obligations.Queries := by
  unfold Obligations.Queries
  refine ⟨fun s m r h => ?_, fun s m t r h => ?_, fun s m r row h hrow => ?_, fun s m r h hrow => ?_⟩
  · obtain ⟨hends, honly⟩ := Dev.finish_ends C.ok 0 0 false [] (.inl h.queued)
    rw [h.request] at hends
    exact ⟨_, exec_nop h, hends, honly, Dev.finish_signalled C.ok 0 0 false [] (.inl h.queued)⟩
  · exact answers_finish (exec_tbGet t h) (.inl (h.at' t).queued) (h.at' t).request
  · exact answers_finish (exec_paramInfo_defined h hrow) (.inl h.queued) h.request
  · exact answers_finish (exec_paramInfo_undefined h hrow) (.inl h.queued) h.request

end Sys2Proof.Machine

/-! PROOF. Packets of running streams, and the ends of lines, frames and held taps that time brings (R18, R113, R116,
R128 to R131, R134, R312). -/
namespace Sys2Proof.Machine

/-! ## A good packet reaches its stream -/

theorem Dev.modLanes_eq (d : Dev) (b : Nat) (f : Lane → Lane) :
    d.modLanes b f = { d with lanes := (d.modLanes b f).lanes } := by
  unfold Dev.modLanes Dev.forEach
  generalize d.linkLanes b = l
  induction l generalizing d with
  | nil => rfl
  | cons i l ih => exact ih (d.setLane i (f (d.lane i)))

@[simp] theorem Dev.modLanes_head (d : Dev) (b : Nat) (f : Lane → Lane) (h : Nat) :
    (d.modLanes b f).head h = d.head h := by rw [Dev.modLanes_eq]; rfl

/-- Counting a packet in touches the lanes of its link and its head. -/
theorem heard_eq (d : Dev) (h : Nat) (pkt : Bytes) :
    heard d h pkt = { d with lanes := (heard d h pkt).lanes, heads := (heard d h pkt).heads } := by
  unfold heard awake
  rw [Dev.modLanes_eq]
  rfl

section Heard
variable (d : Dev) (h : Nat) (pkt : Bytes)

@[simp] theorem heard_stream (st : Nat) : (heard d h pkt).stream st = d.stream st := by rw [heard_eq]; rfl
@[simp] theorem heard_pv (id inst : Nat) : (heard d h pkt).pv id inst = d.pv id inst := by rw [heard_eq]; rfl
@[simp] theorem heard_streamOn (b c : Nat) : (heard d h pkt).streamOn b c = d.streamOn b c := by rw [heard_eq]; rfl
@[simp] theorem heard_dueValue (st id : Nat) : (heard d h pkt).dueValue st id = d.dueValue st id := by
  rw [heard_eq]; rfl

end Heard

theorem goodPkt_at' {d : Dev} {h ty : Nat} {pkt : Bytes} (g : GoodPkt d h ty pkt) (t : Nat) :
    GoodPkt (d.at' t) h ty pkt :=
  ⟨g.heard, g.open', g.hdr, g.crc, g.ty, g.seq⟩

/-- A good packet passes every check: its SEQ is taken and what follows runs on the device that has heard it. -/
theorem Dev.rxPkt_good {d : Dev} {h ty : Nat} {pkt : Bytes} (g : GoodPkt d h ty pkt) (k : Dev → Pkt → Dev) :
    d.rxPkt h ty (some pkt) k = k (heard d h pkt) (parsePkt pkt) := by
  have hears : d.emulated h (parsePkt pkt) = true := by simp [Dev.emulated, g.open']
  rcases g.seq with hs | hs <;>
    simp [Dev.rxPkt, Dev.nextPkt, g.heard, hears, g.hdr, g.crc, g.ty, hs, heard, awake, seqTaken]

theorem Dev.onStream_unbound {d : Dev} {h : Nat} {p : Pkt} (hs : d.streamOn h p.chan = none)
    (k : Dev → Nat → Dev) : d.onStream h p k = d.bump P.headUnboundCount h 1 := by
  simp [Dev.onStream, hs]

theorem Dev.onStream_bound {d : Dev} {h st : Nat} {p : Pkt} (hs : d.streamOn h p.chan = some st)
    (k : Dev → Nat → Dev) : d.onStream h p k = k d st := by
  simp [Dev.onStream, hs]

/-- A packet for a running stream is handled by its stream. -/
theorem rxPkt_forStream {d : Dev} {h ty st : Nat} {pkt : Bytes} (g : ForStream d h ty pkt st) (t : Nat)
    (k : Dev → Pkt → Dev → Nat → Dev) :
    (d.at' t).rxPkt h ty (some pkt) (fun s p => s.onStream h p (k s p)) =
      k (heard (d.at' t) h pkt) (parsePkt pkt) (heard (d.at' t) h pkt) st := by
  have hbound : (heard (d.at' t) h pkt).streamOn h (parsePkt pkt).chan = some st :=
    (heard_streamOn _ _ _ _ _).trans g.bound
  rw [Dev.rxPkt_good (goodPkt_at' g.good t), Dev.onStream_bound hbound]

/-! ## A PIXEL packet while a frame is open -/

/-- The packet has not the form of a line of that kind and depth. -/
def Pkt.misfits (p : Pkt) (area : Bool) (inBits : Nat) : Bool :=
  p.lineScan == area || p.format % 32 != inBits || decide (1 < p.format / 32)

theorem Pkt.misfits_iff {p : Pkt} {area : Bool} {inBits : Nat} :
    p.misfits area inBits = true ↔ ¬ FormOk p area inBits := by
  unfold FormOk Pkt.misfits
  cases area <;> grind

theorem Pkt.not_misfits {p : Pkt} {area : Bool} {inBits : Nat} (h : FormOk p area inBits) :
    ¬ p.misfits area inBits = true :=
  fun hm => Pkt.misfits_iff.mp hm h

section Pixel
variable {s : Dev} {h st : Nat} {p : Pkt} {errs : List (Nat × Bytes)} {f : Frame}
  (hopen : (s.stream st).openFrame = some f)
include hopen

theorem Dev.pixelIn_taken {a : Asm} (ha : (s.stream st).asm = some a) (htakes : a.takes p = true) :
    s.pixelIn h st p errs =
      if p.misfits (s.pv P.plateFrameMode st == E.plateFrameMode.AREA) (s.pv P.plateInBits st)
      then s.bump P.plateFormatErrCount st 1 else s.putBytes st h p errs := by
  simp [Dev.pixelIn, hopen, ha, htakes, Pkt.misfits]

section Lines
variable (hmode : s.pv P.plateFrameMode st ≠ E.plateFrameMode.AREA)
include hmode

theorem Dev.pixelIn_notLineScan (hscan : p.lineScan = false) :
    s.pixelIn h st p errs = s.bump P.plateFormatErrCount st 1 := by
  simp [Dev.pixelIn, hopen, hscan, hmode]

variable (hnew : ∀ a, (s.stream st).asm = some a → a.takes p = false)
include hnew

/-- The packet that begins a line is held against the frame its line falls into. -/
theorem Dev.pixelIn_begins (hscan : p.lineScan = true) {a : Asm} {g : Frame}
    (ha : ((s.beginLine st p false).stream st).asm = some a)
    (hg : ((s.beginLine st p false).stream st).openFrame = some g) :
    s.pixelIn h st p errs =
      if p.misfits (g.cfg.mode == E.plateFrameMode.AREA) g.cfg.inBits then s.bump P.plateFormatErrCount st 1
      else (s.beginLine st p false).putBytes st h p errs := by
  have hgoes : (s.stream st).asm.any (fun a => a.takes p) = false := by simpa [Option.any_eq_false] using hnew
  simp [Dev.pixelIn, hopen, hscan, hmode, hgoes, ha, hg, Pkt.misfits]

theorem Dev.pixelIn_placeless (hscan : p.lineScan = true) (ha : ((s.beginLine st p false).stream st).asm = none) :
    s.pixelIn h st p errs =
      if p.misfits false (s.pv P.plateInBits st) then s.bump P.plateFormatErrCount st 1
      else s.beginLine st p false := by
  have hgoes : (s.stream st).asm.any (fun a => a.takes p) = false := by simpa [Option.any_eq_false] using hnew
  have hput : (s.beginLine st p false).putBytes st h p errs = s.beginLine st p false := by
    simp [Dev.putBytes, ha]
  simp [Dev.pixelIn, hopen, hscan, hmode, hgoes, ha, hput, Pkt.misfits]

end Lines

section Area
variable (hmode : s.pv P.plateFrameMode st = E.plateFrameMode.AREA)
include hmode

theorem Dev.pixelIn_area_misfits (hform : ¬ FormOk p true (s.pv P.plateInBits st)) :
    s.pixelIn h st p errs = s.bump P.plateFormatErrCount st 1 := by
  rw [← Pkt.misfits_iff] at hform
  simp only [Pkt.misfits] at hform
  simp only [Dev.pixelIn, hopen, hmode, Option.isNone_some, Bool.false_eq_true, if_false, beq_self_eq_true,
    Bool.not_true, Bool.and_false, Bool.false_and, hform, if_true]

/-- Where the line of an AREA packet stands against the frame in progress (R129, R130). -/
theorem Dev.pixelIn_area_fits (hnew : ∀ a, (s.stream st).asm = some a → a.takes p = false)
    (hform : FormOk p true (s.pv P.plateInBits st)) :
    s.pixelIn h st p errs =
      if f.no ≠ p.frame then s
      else if f.cfg.height ≤ p.line then
        if (s.stream st).lastLine = some p.line then s
        else (((s.finishLine st).bump P.plateLongCount st 1).modFrame st f.no
            (fun f => { f with flags := setBit f.flags 1 })).modStream st (fun x => { x with lastLine := some p.line })
      else if p.line < f.lines then s
      else (s.beginLine st p true).putBytes st h p errs := by
  have hgoes : (s.stream st).asm.any (fun a => a.takes p) = false := by simpa [Option.any_eq_false] using hnew
  obtain ⟨hscan, hbits, hpack⟩ := hform
  simp [Dev.pixelIn, hopen, hmode, hgoes, hscan, hbits, Nat.not_lt.mpr hpack]

end Area

end Pixel

/-- Bytes of a line in assembly grow by the packet's, whose head was in time. -/
theorem Dev.putBytes_onTime {s v : Dev} {st h : Nat} {p : Pkt} {errs : List (Nat × Bytes)} {a : Asm}
    (ha : (s.stream st).asm = some a) (hlate : p.headLate = false)
    (hv : v = s.modStream st (fun x => { x with
      asm := some { a with pieces := a.pieces ++ [(p.offset, p.pay)], errs := a.errs ++ errs } })) :
    s.putBytes st h p errs = if p.last then v.finishLine st else v := by
  simp [Dev.putBytes, ha, hlate, b2n, hv]

/-! ## FRAME_START and FRAME_END (R129) -/

/-- The stream as a new AREA frame finds it: no trigger and no line of the frame before. -/
def Dev.betweenFrames (s : Dev) (st : Nat) : Dev :=
  s.modStream st (fun x => { x with areaExp := none, lastLine := none })

section Between
variable (s : Dev) (st : Nat)

theorem Dev.betweenFrames_eq :
    s.modStream st (fun x => { x with areaExp := none, lastLine := none }) = s.betweenFrames st := rfl

theorem Dev.betweenFrames_stream :
    (s.betweenFrames st).stream st = { s.stream st with areaExp := none, lastLine := none } := by
  simp [Dev.betweenFrames, Dev.modStream]

@[simp] theorem Dev.betweenFrames_openFrame :
    ((s.betweenFrames st).stream st).openFrame = (s.stream st).openFrame := by
  rw [Dev.betweenFrames_stream]; rfl
@[simp] theorem Dev.betweenFrames_held : ((s.betweenFrames st).stream st).held = (s.stream st).held := by
  rw [Dev.betweenFrames_stream]
@[simp] theorem Dev.betweenFrames_ending : ((s.betweenFrames st).stream st).ending = (s.stream st).ending := by
  rw [Dev.betweenFrames_stream]
@[simp] theorem Dev.betweenFrames_holdAt : ((s.betweenFrames st).stream st).holdAt = (s.stream st).holdAt := by
  rw [Dev.betweenFrames_stream]
@[simp] theorem Dev.betweenFrames_lastStamp :
    ((s.betweenFrames st).stream st).lastStamp = (s.stream st).lastStamp := by
  rw [Dev.betweenFrames_stream]
@[simp] theorem Dev.betweenFrames_dueValue (id : Nat) : (s.betweenFrames st).dueValue st id = s.dueValue st id := by
  simp [Dev.betweenFrames, Dev.modStream, Dev.dueValue]

end Between

section AreaStart
variable {s : Dev} {st : Nat} {p : Pkt}

theorem Dev.areaStart_again {f : Frame} (hopen : (s.stream st).openFrame = some f) (hno : f.no = p.frame)
    (hmode : f.cfg.mode = E.plateFrameMode.AREA) : s.areaStart st p = s := by
  simp [Dev.areaStart, hopen, hno, hmode]

theorem Dev.areaStart_next {f : Frame} {v : Dev} (hopen : (s.stream st).openFrame = some f) (hno : f.no ≠ p.frame)
    (hmode : f.cfg.mode = E.plateFrameMode.AREA)
    (hv : v = (s.completeArea st none (s.stream st).endFlag).betweenFrames st)
    (hclosed : (v.stream st).openFrame = none) (hheld : (v.stream st).held = false) (hend : (v.stream st).ending = 0)
    (hhold : (v.stream st).holdAt = none) (hdue : v.dueValue st P.plateFrameMode = E.plateFrameMode.AREA) :
    s.areaStart st p = v.openFrame st p.frame p.expset (v.stream st).lastStamp := by
  simp [-Dev.betweenFrames_openFrame, -Dev.betweenFrames_held, -Dev.betweenFrames_ending, -Dev.betweenFrames_holdAt,
    -Dev.betweenFrames_dueValue, Dev.areaStart, Dev.betweenFrames_eq, hopen, hno, hmode, ← hv, hclosed, hheld, hend,
    hhold, hdue]

theorem Dev.areaStart_lines {f : Frame} (hopen : (s.stream st).openFrame = some f)
    (hmode : f.cfg.mode ≠ E.plateFrameMode.AREA) : s.areaStart st p = s.betweenFrames st := by
  simp [Dev.areaStart, Dev.betweenFrames_eq, hopen, hmode]

theorem Dev.areaStart_kept (hnone : (s.stream st).openFrame = none)
    (hkept : (s.stream st).held = true ∨ (s.stream st).ending ≠ 0
      ∨ (∃ f, (s.stream st).holdAt = some f ∧ f ≤ p.frame)
      ∨ s.dueValue st P.plateFrameMode ≠ E.plateFrameMode.AREA) :
    s.areaStart st p = s.betweenFrames st := by
  rcases hkept with hheld | hend | ⟨f, hhold, hle⟩ | hmode
  · simp [Dev.areaStart, Dev.betweenFrames_eq, hnone, hheld]
  · simp [Dev.areaStart, Dev.betweenFrames_eq, hnone, hend]
  · simp [Dev.areaStart, Dev.betweenFrames_eq, hnone, hhold, hle]
  · simp [Dev.areaStart, Dev.betweenFrames_eq, hnone, hmode]

theorem Dev.areaStart_opens (hnone : (s.stream st).openFrame = none) (hheld : (s.stream st).held = false)
    (hend : (s.stream st).ending = 0) (hhold : ∀ f, (s.stream st).holdAt = some f → p.frame < f)
    (hmode : s.dueValue st P.plateFrameMode = E.plateFrameMode.AREA) :
    s.areaStart st p = (s.betweenFrames st).openFrame st p.frame p.expset (s.stream st).lastStamp := by
  cases hat : (s.stream st).holdAt with
  | none => simp [Dev.areaStart, Dev.betweenFrames_eq, hnone, hheld, hend, hmode, hat]
  | some f =>
    simp [Dev.areaStart, Dev.betweenFrames_eq, hnone, hheld, hend, hmode, hat, Nat.not_le.mpr (hhold f hat)]

end AreaStart

section AreaEnd
variable {d : Dev} {h : Fin 32} {pkt : Bytes} {t st : Nat} (g : ForStream d h 0x03 pkt st)
include g

theorem runFrameEnd_completes {f : Frame} (hopen : (d.stream st).openFrame = some f)
    (hno : f.no = (parsePkt pkt).frame) (hmode : f.cfg.mode = E.plateFrameMode.AREA) :
    runFrameEnd h (some pkt) t d =
      (heard (d.at' t) h pkt).completeArea st (some (parsePkt pkt).line) (d.stream st).endFlag := by
  rw [runFrameEnd, rxPkt_forStream g t]
  simp [g.runs, hopen, hno, hmode]

theorem runFrameEnd_other (hother : ∀ f, (d.stream st).openFrame = some f →
      f.no ≠ (parsePkt pkt).frame ∨ f.cfg.mode ≠ E.plateFrameMode.AREA) :
    runFrameEnd h (some pkt) t d = heard (d.at' t) h pkt := by
  rw [runFrameEnd, rxPkt_forStream g t]
  cases hopen : (d.stream st).openFrame with
  | none => simp [hopen]
  | some f =>
    rcases hother f hopen with hno | hmode
    · simp [hopen, hno]
    · simp [hopen, hmode]

end AreaEnd

/-! ## What time brings: line timeouts, ends that wait for lines, held taps (R131, R134, R312) -/

section LineTimeout
variable {d : Dev} {st : Fin 64} {t : Nat}

theorem runLineTimeout_due {e : Expect} {rest : List Expect} (he : (d.stream st).expect = e :: rest)
    (hrun : (d.stream st).running = true) (htrig : trigExpects (d.pv P.trigMode st) = true)
    (hmode : d.pv P.plateFrameMode st ≠ E.plateFrameMode.AREA)
    (hdue : e.target + us (d.pv P.plateLineTimeoutUs st) ≤ Nat.max d.now t) :
    runLineTimeout st t d =
      (((d.at' t).finishLine st).modStream st (fun x => { x with expect := rest })).missed st e := by
  simp [runLineTimeout, he, hrun, htrig, hmode, hdue]

theorem runLineTimeout_early {e : Expect} {rest : List Expect} (he : (d.stream st).expect = e :: rest)
    (hearly : Nat.max d.now t < e.target + us (d.pv P.plateLineTimeoutUs st)) : runLineTimeout st t d = d.at' t := by
  simp [runLineTimeout, he, Nat.not_le.mpr hearly]

theorem runLineTimeout_idle (hidle : (d.stream st).expect = [] ∨ (d.stream st).running = false
      ∨ trigExpects (d.pv P.trigMode st) = false ∨ d.pv P.plateFrameMode st = E.plateFrameMode.AREA) :
    runLineTimeout st t d = d.at' t := by
  cases he : (d.stream st).expect with
  | nil => simp [runLineTimeout, he]
  | cons e rest =>
    rcases hidle with hnil | hstopped | htrig | hmode
    · simp [he] at hnil
    · simp [runLineTimeout, he, hstopped]
    · simp [runLineTimeout, he, htrig]
    · simp [runLineTimeout, he, hmode]

end LineTimeout

section HeldFrameEnd
variable {d : Dev} {st : Fin 64} {t : Nat}

theorem runHeldFrameEnd_ends (hrun : (d.stream st).running = true) (hend : (d.stream st).ending ≠ 0)
    (hdue : (d.at' t).linesDue st = false) : runHeldFrameEnd st t d = (d.at' t).endNow st := by
  simp [runHeldFrameEnd, hrun, hend, hdue]

theorem runHeldFrameEnd_waits (hwait : (d.stream st).running = false ∨ (d.stream st).ending = 0
      ∨ (d.at' t).linesDue st = true) : runHeldFrameEnd st t d = d.at' t := by
  rcases hwait with hstopped | hend | hdue
  · simp [runHeldFrameEnd, hstopped]
  · simp [runHeldFrameEnd, hend]
  · simp [runHeldFrameEnd, hdue]

end HeldFrameEnd

section TapHold
variable {d : Dev} {k : Fin 16} {t : Nat} {f : Frame}
  (hframes : (d.stream (d.pv P.plateTapStream k)).frames = [f])
include hframes

theorem runTapHoldRelease_decides (hlines : 0 < f.lines) (htap : ∃ x ∈ f.taps, x.tap = k.val ∧ x.st = 0)
    (hflight : d.flight = []) :
    runTapHoldRelease k t d = (d.at' t).tapDecide (d.pv P.plateTapStream k) f.no k := by
  simp [runTapHoldRelease, hframes, hlines, htap, hflight, Dev.forEach]

theorem runTapHoldRelease_decided (hdone : ∀ x ∈ f.taps, x.tap = k.val → x.st ≠ 0) :
    runTapHoldRelease k t d = d.at' t := by
  have hnone : f.taps.any (fun x => x.tap == k.val && x.st == 0) = false := by simpa using hdone
  simp [-List.any_eq_false, -List.any_eq_true, runTapHoldRelease, hframes, hnone, Dev.forEach]

end TapHold

/-! ## The commands -/

section Commands
variable {d : Dev} {h : Fin 32} {pkt : Bytes} {t st : Nat}

theorem runPixel_unbound {errs : List (Nat × Bytes)} (g : GoodPkt d h 0x01 pkt)
    (hnone : d.streamOn h (parsePkt pkt).chan = none) :
    runPixel h (some pkt) errs t d = (heard (d.at' t) h pkt).bump P.headUnboundCount h 1 := by
  have hnone' : (heard (d.at' t) h pkt).streamOn h (parsePkt pkt).chan = none :=
    (heard_streamOn _ _ _ _ _).trans hnone
  rw [runPixel, Dev.rxPkt_good (goodPkt_at' g t), Dev.onStream_unbound hnone']

theorem runPixel_bound {errs : List (Nat × Bytes)} (g : ForStream d h 0x01 pkt st) :
    runPixel h (some pkt) errs t d = (heard (d.at' t) h pkt).pixelIn h st (parsePkt pkt) errs := by
  rw [runPixel, rxPkt_forStream g t]
  simp [g.runs]

theorem runFrameStart_bound (g : ForStream d h 0x02 pkt st) :
    runFrameStart h (some pkt) t d = (heard (d.at' t) h pkt).areaStart st (parsePkt pkt) := by
  rw [runFrameStart, rxPkt_forStream g t]
  simp [g.runs]

end Commands

theorem gives_pixel {s : State} {h : Fin 32} {pkt : Bytes} {errs : List (Nat × Bytes)} {t st : Nat} {d u : Dev}
    (g : ForStream s.dev h 0x01 pkt st) (hd : d = heard (s.dev.at' t) h pkt)
    (hu : d.pixelIn h st (parsePkt pkt) errs = u) : Gives (.pixel h (some pkt) errs t) s (fun v => v = u) :=
  gives_of_onDev rfl ((runPixel_bound g).trans (hd ▸ hu))

theorem gives_frameStart {s : State} {h : Fin 32} {pkt : Bytes} {t st : Nat} {d u : Dev}
    (g : ForStream s.dev h 0x02 pkt st) (hd : d = heard (s.dev.at' t) h pkt)
    (hu : d.areaStart st (parsePkt pkt) = u) : Gives (.frameStart h (some pkt) t) s (fun v => v = u) :=
  gives_of_onDev rfl ((runFrameStart_bound g).trans (hd ▸ hu))

/-- Settles O40: what a packet does to its stream is stated once by form and place, what time brings once by its
condition. -/
theorem linesReceived : Obligations.LinesReceived := by
  unfold Obligations.LinesReceived
  refine ⟨fun s h pkt errs t g hnone => gives_of_onDev rfl (runPixel_unbound g hnone), ?pixel, ?frameStart,
    fun s h pkt t st g => ⟨fun f hopen hno hmode => gives_of_onDev rfl (runFrameEnd_completes g hopen hno hmode),
      fun hother => gives_of_onDev rfl (runFrameEnd_other g hother)⟩,
    fun s st t e rest he hrun htrig hmode =>
      ⟨fun hdue => gives_of_onDev rfl (runLineTimeout_due he hrun htrig hmode hdue),
      fun hearly => gives_of_onDev rfl (runLineTimeout_early he hearly)⟩,
    fun s st t hidle => gives_of_onDev rfl (runLineTimeout_idle hidle),
    fun s st t => ⟨fun hrun hend hdue => gives_of_onDev rfl (runHeldFrameEnd_ends hrun hend hdue),
      fun hwait => gives_of_onDev rfl (runHeldFrameEnd_waits hwait)⟩,
    fun s k t f hframes =>
      ⟨fun hlines htap hflight => gives_of_onDev rfl (runTapHoldRelease_decides hframes hlines htap hflight),
      fun hdone => gives_of_onDev rfl (runTapHoldRelease_decided hframes hdone)⟩⟩
  case pixel =>
    rintro s h pkt errs t st f p area d g hopen rfl rfl hd
    have hstream : d.stream st = s.dev.stream st := by simp [hd]
    have hpv : ∀ id, d.pv id st = s.dev.pv id st := by simp [hd]
    rw [← hstream] at hopen
    simp only [← hstream, ← hpv]
    refine ⟨fun a ha htakes => ?taken, fun hnew => ⟨fun harea hscan => ?notLineScan,
      fun harea hscan v g' hv ha hg => ?begins, fun harea hscan v hv ha => ?placeless,
      fun harea hform => ?areaMisfits, fun harea hform => ?areaFits⟩⟩
    case taken =>
      have htaken := Dev.pixelIn_taken (h := h) (errs := errs) hopen ha htakes
      refine ⟨fun hform => gives_pixel g hd (htaken.trans (if_pos (Pkt.misfits_iff.mpr hform))), fun hform => ?_,
        fun hform hlate v hv => ?_⟩ <;> rw [if_neg (Pkt.not_misfits hform)] at htaken
      · exact gives_pixel g hd htaken
      · rw [Dev.putBytes_onTime ha hlate hv] at htaken
        exact ⟨fun hlast => gives_pixel g hd (by rw [htaken, hlast]; rfl),
          fun hlast => gives_pixel g hd (by rw [htaken, hlast]; rfl)⟩
    case notLineScan => exact gives_pixel g hd (Dev.pixelIn_notLineScan hopen (by simpa using harea) hscan)
    case begins =>
      subst hv
      have hbegins := Dev.pixelIn_begins (h := h) (errs := errs) hopen (by simpa using harea) hnew hscan
        (Option.eq_some_of_isSome ha) hg
      exact ⟨fun hform => gives_pixel g hd (hbegins.trans (if_pos (Pkt.misfits_iff.mpr hform))),
        fun hform => gives_pixel g hd (hbegins.trans (if_neg (Pkt.not_misfits hform)))⟩
    case placeless =>
      subst hv
      have hplaceless := Dev.pixelIn_placeless (h := h) (errs := errs) hopen (by simpa using harea) hnew hscan ha
      exact ⟨fun hform => gives_pixel g hd (hplaceless.trans (if_pos (Pkt.misfits_iff.mpr hform))),
        fun hform => gives_pixel g hd (hplaceless.trans (if_neg (Pkt.not_misfits hform)))⟩
    case areaMisfits => exact gives_pixel g hd (Dev.pixelIn_area_misfits hopen (by simpa using harea) hform)
    case areaFits =>
      have hfits := Dev.pixelIn_area_fits (h := h) (errs := errs) hopen (by simpa using harea) hnew hform
      refine ⟨fun hplace => gives_pixel g hd ?_, fun hno hlong hlast => gives_pixel g hd ?_,
        fun hno hlong hlast => gives_pixel g hd ?_, fun hno hnext hin => gives_pixel g hd ?_⟩ <;> rw [hfits]
      · rcases hplace with hno | ⟨hpassed, hin⟩
        · rw [if_pos hno]
        · simp [hpassed, Nat.not_le.mpr hin]
      · simp [hno, hlong, hlast]
      · simp [hno, hlong, hlast]
      · simp [hno, Nat.not_le.mpr hin, Nat.not_lt.mpr hnext]
  case frameStart =>
    intro s h pkt t st d g hd
    have hstream : d.stream st = s.dev.stream st := by simp [hd]
    have hdue : d.dueValue st P.plateFrameMode = s.dev.dueValue st P.plateFrameMode := by simp [hd]; rfl
    simp only [← hstream, ← hdue]
    exact ⟨fun f hopen hno hmode => gives_frameStart g hd (Dev.areaStart_again hopen hno hmode),
      fun f hopen hno hmode v hv hclosed hheld hend hhold hmode' =>
        gives_frameStart g hd (Dev.areaStart_next hopen hno hmode hv hclosed hheld hend hhold hmode'),
      fun f hopen hmode => gives_frameStart g hd (Dev.areaStart_lines hopen hmode),
      fun hnone => ⟨fun hkept => gives_frameStart g hd (Dev.areaStart_kept hnone hkept),
        fun hheld hend hhold hmode => gives_frameStart g hd (Dev.areaStart_opens hnone hheld hend hhold hmode)⟩⟩

end Sys2Proof.Machine

/-! PROOF. Compute domain resets: what `eph.domain_reset_count` counts (R215), and a tile that makes it count twice. -/
namespace Sys2Proof.Machine

/-! ## The count of domain resets -/

/-- `eph.domain_reset_count`. -/
def Dev.resetCount (s : Dev) : Nat := s.pv P.ephDomainResetCount 0

theorem Dev.resetCount_of_frc {s u : Dev} (h : u.frc = s.frc) : u.resetCount = s.resetCount := by
  simp only [Dev.resetCount, Dev.pv, Dev.pk, h]

theorem Dev.resetCount_of_eq {s u v : Dev} (h : u = v) (hv : v.frc = s.frc) : u.resetCount = s.resetCount :=
  Dev.resetCount_of_frc ((congrArg Dev.frc h).trans hv)

/-- That count stands under another key than the parameter of that index. -/
def NotResetKey (id inst : Nat) : Prop := pkey P.ephDomainResetCount 0 0 ≠ pkey id inst 0

theorem notResetKey_of_ne {id inst : Nat} (hid : id ≠ P.ephDomainResetCount) (hinst : inst < 1024) :
    NotResetKey id inst := by
  unfold NotResetKey pkey
  omega

theorem notResetKey_of_lt {id : Nat} (hid : P.ephDomainResetCount < id) (inst : Nat) : NotResetKey id inst := by
  unfold NotResetKey pkey
  omega

theorem Dev.setP_resetCount (s : Dev) {id inst : Nat} (v : Nat) (h : NotResetKey id inst) :
    (s.setP id inst v).resetCount = s.resetCount := by
  rw [Dev.resetCount, Dev.setP_pv, if_neg h, Dev.resetCount]

theorem Dev.bump_resetCount (s : Dev) {id inst : Nat} (n : Nat) (h : NotResetKey id inst) :
    (s.bump id inst n).resetCount = s.resetCount :=
  s.setP_resetCount _ h

theorem Dev.bump_resetCount_same (s : Dev) (n : Nat) :
    (s.bump P.ephDomainResetCount 0 n).resetCount = countTo P.ephDomainResetCount (s.resetCount + n) :=
  s.setP_pv_same _ _ _

theorem Dev.peak_resetCount (s : Dev) {id inst : Nat} (v : Nat) (h : NotResetKey id inst) :
    (s.peak id inst v).resetCount = s.resetCount := by
  unfold Dev.peak
  split
  · exact s.setP_resetCount _ h
  · rfl

theorem Dev.forEach_resetCount {l : List Nat} {f : Dev → Nat → Dev}
    (h : ∀ s, ∀ x ∈ l, (f s x).resetCount = s.resetCount) (s : Dev) :
    (s.forEach l f).resetCount = s.resetCount := by
  induction l generalizing s with
  | nil => rfl
  | cons x l ih =>
    exact (ih (fun s y hy => h s y (List.mem_cons_of_mem x hy)) (f s x)).trans (h s x List.mem_cons_self)

theorem Dev.countTiles_resetCount (s : Dev) : s.countTiles.resetCount = s.resetCount := by
  unfold Dev.countTiles
  have hin : ∀ (s : Dev), ∀ q ∈ List.range 68, (s.setP P.ephInflight q
      (s.tiles.filter (fun t => t.q == q)).length).resetCount = s.resetCount := fun s q hq =>
    s.setP_resetCount _ (notResetKey_of_ne (by decide) (by have := List.mem_range.mp hq; omega))
  rw [Dev.forEach_resetCount hin, Dev.setP_resetCount _ _ (notResetKey_of_ne (by decide) (by decide)),
    Dev.peak_resetCount _ _ (notResetKey_of_ne (by decide) (by decide)),
    Dev.setP_resetCount _ _ (notResetKey_of_ne (by decide) (by decide))]

theorem Dev.putModeBit_resetCount (s : Dev) (i : Nat) (b : Bool) : (s.putModeBit i b).resetCount = s.resetCount := by
  unfold Dev.putModeBit Dev.putMode
  split
  · rfl
  · rw [Dev.bump_resetCount _ _ (notResetKey_of_ne (by decide) (by decide)),
      Dev.setP_resetCount _ _ (notResetKey_of_ne (by decide) (by decide))]

theorem Dev.startReload_resetCount (s : Dev) {n : Nat} (hn : n < 96) : (s.startReload n).resetCount = s.resetCount := by
  have hn' : n < 1024 := by omega
  have hload : ∀ s : Dev, ((s.setNibSt n E.nibState.LOADING).addTrace 2 n).resetCount = s.resetCount := fun s =>
    (Dev.resetCount_of_frc rfl).trans (s.setP_resetCount _ (notResetKey_of_ne (by decide) hn'))
  unfold Dev.startReload
  rw [hload]
  split
  · rfl
  · exact s.setP_resetCount _ (notResetKey_of_ne (by decide) hn')

theorem Dev.putSlot_resetCount (s : Dev) {k : Nat} (hk : k < 32) (x : Slot) :
    (s.putSlot k x).resetCount = s.resetCount := by
  have hdigest : ∀ (f : Nat → Nat) (s : Dev), ∀ i ∈ List.range 4,
      (s.setP P.nibSlotDigest (4 * k + i) (f i)).resetCount = s.resetCount := fun f s i hi =>
    s.setP_resetCount _ (notResetKey_of_ne (by decide) (by have := List.mem_range.mp hi; omega))
  have hstate : ((s.setSlot k x).setP P.nibSlotState k (nibSlotStateOf x)).resetCount = s.resetCount :=
    Dev.setP_resetCount _ _ (notResetKey_of_ne (by decide) (by omega))
  unfold Dev.putSlot
  cases x.active with
  | none => exact (Dev.forEach_resetCount (hdigest _) _).trans hstate
  | some p => exact (Dev.forEach_resetCount (hdigest _) _).trans hstate

/-- A slot that switches is put anew; otherwise nothing changes. -/
theorem Dev.trySwitch_cases (s : Dev) (k : Nat) : s.trySwitch k = s ∨ ∃ x, s.trySwitch k = s.putSlot k x := by
  unfold Dev.trySwitch
  dsimp only
  split
  · exact .inl rfl
  · split <;> split
    · exact .inr ⟨_, rfl⟩
    · exact .inl rfl
    · exact .inr ⟨_, rfl⟩
    · exact .inl rfl

theorem Dev.trySwitch_resetCount (s : Dev) {k : Nat} (hk : k < 32) : (s.trySwitch k).resetCount = s.resetCount := by
  rcases s.trySwitch_cases k with h | ⟨x, h⟩
  · rw [h]
  · rw [h, s.putSlot_resetCount hk]

theorem Dev.switchAll_resetCount (s : Dev) : s.switchAll.resetCount = s.resetCount :=
  Dev.forEach_resetCount (fun s _ hk => s.trySwitch_resetCount (List.mem_range.mp hk)) s

/-- A domain reset counts one more than the revocation of the tiles in flight leaves. -/
theorem Dev.resetDomain_resetCount (s : Dev) :
    s.resetDomain.resetCount = countTo P.ephDomainResetCount ((s.tiles.foldl Dev.revoke s).resetCount + 1) := by
  unfold Dev.resetDomain
  extract_lets lost revoked gapped emptied counted reloaded reset
  have hgapped : gapped.resetCount = revoked.resetCount := by
    refine Dev.forEach_resetCount (fun s q _ => Dev.resetCount_of_frc ?_) revoked
    extract_lets mine x cutting first
    split
    · rfl
    · exact (apply_ite Dev.frc _ _ _).trans (ite_self _)
  have hcounted : counted.resetCount = emptied.resetCount :=
    (Dev.putModeBit_resetCount _ _ _).trans emptied.countTiles_resetCount
  have hreloaded : reloaded.resetCount = counted.resetCount := by
    refine Dev.forEach_resetCount (fun s n hn => ?_) counted
    split
    · rfl
    · exact (Dev.startReload_resetCount _ (List.mem_range.mp hn)).trans (Dev.resetCount_of_frc rfl)
  have hreset : reset.resetCount = countTo P.ephDomainResetCount (reloaded.resetCount + 1) :=
    (Dev.setP_resetCount _ _ (notResetKey_of_ne (by decide) (by decide))).trans (reloaded.bump_resetCount_same 1)
  have hemptied : emptied.resetCount = gapped.resetCount := Dev.resetCount_of_frc rfl
  have hprogress : reset.progress.resetCount = reset.resetCount := Dev.resetCount_of_frc rfl
  rw [Dev.switchAll_resetCount, hprogress, hreset, hreloaded, hcounted, hemptied, hgapped]

/-- A queued command that fails changes no count. -/
theorem Dev.fail_resetCount (s : Dev) {m : Nat} (c : Nat) (hq : (s.mb m).st = .queued) :
    (s.fail m c).resetCount = s.resetCount :=
  Dev.resetCount_of_eq (Dev.finish_ends c 0 0 false [] (.inl hq)).2.1 rfl

/-- A domain that is to reset counts one more than the revocation of its tiles leaves. -/
theorem runDomainReset_resetCount {s : Dev} (t : Nat) (hst : s.pv P.ephState 0 ≠ E.ephState.RUNNING) :
    (runDomainReset t s).resetCount =
      countTo P.ephDomainResetCount ((s.tiles.foldl Dev.revoke (s.at' t)).resetCount + 1) := by
  have hst' : (s.at' t).pv P.ephState 0 ≠ E.ephState.RUNNING := hst
  have hfails : ∀ s : Dev, (s.forEach (List.range 21) (fun s m =>
      if (s.mb m).st = .queued ∧ (((s.mb m).request m).op = 0x0041 ∨ ((s.mb m).request m).op = 0x0042)
      then s.fail m C.aborted else s)).resetCount = s.resetCount := by
    refine Dev.forEach_resetCount (fun s m _ => ?_)
    split
    · next h => exact s.fail_resetCount _ h.1
    · rfl
  rw [runDomainReset, if_neg hst', hfails, Dev.resetDomain_resetCount]
  rfl

/-! ## Revocation -/

theorem Dev.fireAsync_resetCount (s : Dev) (c : Nat) : (s.fireAsync c).resetCount = s.resetCount := by
  unfold Dev.fireAsync Dev.fire Dev.passOn
  extract_lets d fired
  have hfired : fired.resetCount = s.resetCount := Dev.bump_resetCount _ _ (notResetKey_of_lt (by decide) c)
  split
  · exact hfired
  · exact hfired

theorem Dev.raise0_resetCount (s : Dev) (src : Nat) : (s.raise0 src).resetCount = s.resetCount :=
  Dev.resetCount_of_eq (s.raise0_same src).rest rfl

theorem Dev.qEvent_resetCount (s : Dev) (q b : Nat) : (s.qEvent q b).resetCount = s.resetCount :=
  s.setP_resetCount _ (notResetKey_of_lt (by decide) q)

theorem Dev.putQueue_resetCount (s : Dev) (q : Nat) (x : Queue) : (s.putQueue q x).resetCount = s.resetCount := by
  unfold Dev.putQueue
  extract_lets old lvl wm put levelled peaked shown crossed
  have hshown : shown.resetCount = s.resetCount := by
    refine (Dev.setP_resetCount _ _ (notResetKey_of_lt (by decide) q)).trans ?_
    refine (Dev.peak_resetCount _ _ (notResetKey_of_lt (by decide) q)).trans ?_
    exact Dev.setP_resetCount put _ (notResetKey_of_lt (by decide) q)
  have hcrossed : crossed.resetCount = shown.resetCount :=
    (Dev.bump_resetCount _ _ (notResetKey_of_lt (by decide) q)).trans (shown.qEvent_resetCount q 0)
  split
  · split
    · rw [Dev.raise0_resetCount, hcrossed, hshown]
    · rw [hcrossed, hshown]
  · exact hshown

theorem Dev.bankWrite_resetCount (s : Dev) (b w : Nat) : (s.bankWrite b w).resetCount = s.resetCount := by
  unfold Dev.bankWrite
  split
  · exact Dev.setP_resetCount _ _ (notResetKey_of_lt (by decide) b)
  · rfl

theorem Dev.rewrite_resetCount (s : Dev) (h : Holder) (w n : Nat) : (s.rewrite h w n).resetCount = s.resetCount := by
  unfold Dev.rewrite
  split
  · rfl
  · extract_lets p0 marked
    have hmarked : marked.resetCount = s.resetCount := by
      refine Dev.forEach_resetCount (fun s i _ => ?_) s
      exact Dev.resetCount_of_frc rfl
    split
    · exact hmarked
    · exact (Dev.forEach_resetCount (fun s i _ => s.bankWrite_resetCount _ _) marked).trans hmarked

theorem Dev.qPush_resetCount (s : Dev) (q : Nat) (x : Queue) (data : Bytes) (last : Bool) :
    (s.qPush q x data last).resetCount = s.resetCount :=
  (Dev.rewrite_resetCount _ _ _ _).trans (s.putQueue_resetCount q _)

/-- An item refused or removed is counted by its queue, beside which the queue alone changes. -/
theorem Dev.refused_resetCount (s : Dev) {id : Nat} (q : Nat) (x : Queue) (b : Nat)
    (hid : P.ephDomainResetCount < id) :
    (((s.putQueue q x).bump id q 1).qEvent q b).resetCount = s.resetCount := by
  rw [Dev.qEvent_resetCount, Dev.bump_resetCount _ _ (notResetKey_of_lt hid q), Dev.putQueue_resetCount]

theorem Dev.qWrite_resetCount (s : Dev) (q : Nat) (data : Bytes) (last : Bool) (n : Nat) :
    (s.qWrite q data last n).resetCount = s.resetCount := by
  unfold Dev.qWrite
  extract_lets x k
  split
  · exact s.putQueue_resetCount q _
  split
  · exact s.putQueue_resetCount q _
  split
  · split
    · exact s.refused_resetCount q _ 2 (by decide)
    split
    · exact s.refused_resetCount q _ 4 (by decide)
    split
    · exact s.refused_resetCount q _ 2 (by decide)
    · exact s.qPush_resetCount q _ _ _
  all_goals
    split
    · split
      · rw [Dev.qEvent_resetCount, Dev.bump_resetCount _ _ (notResetKey_of_lt (by decide) q)]
        exact s.refused_resetCount q _ 2 (by decide)
      · exact s.refused_resetCount q _ 2 (by decide)
    split
    · rfl
    · exact s.qPush_resetCount q _ _ _

theorem Dev.qItem_resetCount (s : Dev) (q : Nat) (item : Bytes) : (s.qItem q item).resetCount = s.resetCount :=
  Dev.forEach_resetCount (fun s _ _ => s.qWrite_resetCount q _ _ _) s

/-! ## A tile of no sequence -/

/-- A key leaves room for indices below 1,024: `eph.revoke_count` of index 10,240 stands where
`eph.domain_reset_count` does. -/
theorem Dev.pv_revokeCount_stray (s : Dev) : s.pv P.ephRevokeCount 10240 = s.resetCount := rfl

theorem Dev.revoke_resetCount_stray (s : Dev) {T : Tile} (hq : T.q = 10240) (hreleased : T.released ≠ 0)
    (hcut : s.qCutReady 10240 = true) :
    (s.revoke T).resetCount = countTo P.ephRevokeCount (s.resetCount + 1) := by
  unfold Dev.revoke
  rw [if_neg hreleased, hq]
  extract_lets cleared revoked ended
  have hcut' : cleared.qCutReady 10240 = true := hcut
  have hbump : (cleared.bump P.ephRevokeCount 10240 1).resetCount = countTo P.ephRevokeCount (s.resetCount + 1) := by
    rw [← Dev.pv_revokeCount_stray, Dev.bump, Dev.setP_pv_same, Dev.pv_revokeCount_stray]
    rfl
  have hrevoked : revoked.resetCount = (cleared.bump P.ephRevokeCount 10240 1).resetCount :=
    Dev.fireAsync_resetCount _ 92
  have hended : ended.resetCount = revoked.resetCount := revoked.putQueue_resetCount _ _
  rw [if_pos hcut', Dev.qItem_resetCount, hended, hrevoked, hbump]

/-- A tile whose sequence is none of 0 to 67, its first 32 image bytes out under CUTTHRU. -/
def strayTile : Tile where
  no := 0
  q := 10240
  seq := 0
  slot := 0
  load := 0
  frame := 0
  x0 := 0
  y0 := 0
  coreW := 16
  coreH := 1
  stamp0 := 0
  stamps := []
  budget := 0
  desc := []
  input := []
  pages := 1
  page0 := 0
  st := .waiting
  since := 0
  failed := []
  replays := 0
  result := none
  dropped := false
  poison := false
  lastOfFrame := false
  released := 32

/-- The domain is to reset with that tile in flight; its open item is past the threshold it is read under. -/
def strayDev : Dev :=
  ({ Dev.reset with tiles := [strayTile] }.setQueue 10240 { Queue.reset with openLen := 1, cut := 1 }).setP P.ephState 0
    E.ephState.RESETTING

theorem runDomainReset_strayDev :
    (runDomainReset 0 strayDev).resetCount =
      countTo P.ephDomainResetCount (countTo P.ephRevokeCount (strayDev.resetCount + 1) + 1) := by
  have htiles : strayDev.tiles = [strayTile] := rfl
  have hnow : (strayDev.at' 0).resetCount = strayDev.resetCount := Dev.resetCount_of_frc rfl
  rw [runDomainReset_resetCount 0 (by decide +kernel), htiles, List.foldl_cons, List.foldl_nil,
    Dev.revoke_resetCount_stray _ rfl (by decide) (by decide +kernel), hnow]

/-- What a command on the device alone gives holds of the device that its meaning makes. -/
theorem post_of_gives {i : Instr} {s : State} {f : Dev → Dev} {post : Dev → Prop} (he : exec i s = s.onDev f)
    (h : Gives i s post) : post (f s.dev) := by
  obtain ⟨u, hexec, hpost⟩ := h
  rw [he, State.onDev_next] at hexec
  obtain rfl : f s.dev = u := congrArg State.dev (Host.Outcome.next.inj hexec)
  exact hpost

/-- Refutes O49: its clause on DOMAIN_RESET counts one reset more in every state, also where a tile in flight carries a
sequence number that no sequence has. Of a tile of sequence 10,240 the reset revokes what CUTTHRU has released, and
the count of that revocation stands under the key of `eph.domain_reset_count`, which then rises from 0 to 2.
No TILE_CUT cuts such a tile: what the clause lacks is that every tile in flight is of a sequence. -/
theorem not_tilesAndPrograms : ¬ Obligations.TilesAndPrograms := by
  unfold Obligations.TilesAndPrograms
  rintro ⟨-, -, -, -, -, -, hreset, -⟩
  obtain ⟨-, -, -, hcount, -⟩ := post_of_gives (f := runDomainReset 0) rfl (hreset ⟨[], .empty, strayDev⟩ 0)
  have hzero : strayDev.pv P.ephDomainResetCount 0 = 0 := by decide +kernel
  have htwice : countTo P.ephDomainResetCount (countTo P.ephRevokeCount (0 + 1) + 1)
      ≠ countTo P.ephDomainResetCount (0 + 1) := by decide +kernel
  have hrose := runDomainReset_strayDev
  simp only [Dev.resetCount, hzero] at hrose hcount
  exact htwice (hrose.symm.trans hcount)

end Sys2Proof.Machine

/-! PROOF. A positional event and a tap of no stream: the tap's axis is then read where a host event sink counts what it
ignores (R311, R312). -/
namespace Sys2Proof.Machine

/-- A number that no stream has, and under which `trig.axis` stands where `dux.sink_ignored` of HEV0 does: a key leaves
room for instances below 1,024. -/
def strayStream : Nat := 1024 * (P.duxSinkIgnored - P.trigAxis) + 16

theorem Dev.pv_trigAxis_stray (s : Dev) : s.pv P.trigAxis strayStream = s.pv P.duxSinkIgnored 16 := rfl

/-- The event of the first grid point of stream 0, on axis 0. -/
def pointEvent : Event := ⟨0, 0, 0, true, 0, 0⟩

/-- That event is on its way to HEV0, which is busy, and to tap 0, whose stream is none of 0 to 63. -/
def strayTapDev : Dev :=
  ((({ Dev.reset with int0 := FMap.empty.set false 272 true, flight := [(0, pointEvent)] }.setP P.duxHevSrc 0 0).setP
    P.duxTapArm 0 0).setP P.plateTapStream 0 strayStream)

/-- The stray stream's axis is that of the event until HEV0 counts the event it ignores. -/
theorem strayTapDev_axis : strayTapDev.pv P.trigAxis (strayTapDev.pv P.plateTapStream 0) = pointEvent.axis := by
  have hstream : strayTapDev.pv P.plateTapStream 0 = strayStream := Dev.setP_pv_same _ _ _ _
  rw [hstream, Dev.pv_trigAxis_stray]
  decide +kernel

/-- When the event reaches tap 0, that axis reads 1, so the tap ignores it too and takes no tag. -/
theorem runEventDeliver_strayTapDev : ((runEventDeliver pointEvent 0 0 strayTapDev).tap 0).tags = [] := by
  decide +kernel

/-- Refutes O50: its clause on POS events lets a tap take the tag wherever its stream has the event's axis before
EVENT_DELIVER, also in a state whose `plate.tap.stream` names no stream. `trig.axis` of stream 2,057,232 stands under the
key of `dux.sink_ignored` of HEV0; a busy HEV0 counts the event there first, and the tap then reads another axis and
takes no tag. No PARAM_SET accepts such a stream: what the clause lacks is that `plate.tap.stream` is below 64. -/
theorem not_eventsAndPacing : ¬ Obligations.EventsAndPacing := by
  unfold Obligations.EventsAndPacing
  rintro ⟨-, hdeliver, -⟩
  obtain ⟨-, hflight⟩ := hdeliver ⟨[], .empty, strayTapDev⟩ pointEvent 0 0
  obtain ⟨-, -, hpos, -⟩ := post_of_gives (f := runEventDeliver pointEvent 0 0) rfl (hflight (by decide +kernel))
  have htap := hpos 0 (by decide) (by decide +kernel) rfl strayTapDev_axis
  have htags := runEventDeliver_strayTapDev
  rw [htap] at htags
  exact List.append_ne_nil_of_right_ne_nil _ (List.cons_ne_nil _ _) htags

end Sys2Proof.Machine
